-- ==== Sys2Proof/Word.lean ====
section
/-! DEFINITION. Words, register numbers and the named values that instruction fields carry. -/

namespace Sys2Proof

/-- A scalar register's contents, an address as it is computed (R19, R68). -/
abbrev Word := BitVec 64
/-- A byte of memory. -/
abbrev Byte := BitVec 8
/-- A tag: FMT [5:0], SCALE [13:6], VCLS [15:14] (R31). -/
abbrev Tag := BitVec 16

/-- Register numbers, by class (R67). -/
abbrev SReg := BitVec 6
abbrev VIdx := BitVec 6
abbrev PReg := BitVec 4
abbrev AReg := BitVec 3
abbrev QReg := BitVec 3
abbrev HReg := BitVec 4
/-- A weight slot 0-3 and a codebook slot 0-7 (R247, R248). -/
abbrev WSlot := BitVec 2
abbrev CBook := BitVec 3

/-- The scopes of R75. -/
inductive Scope where
  | strand | core | cluster | die | package | fabric
deriving DecidableEq, Repr

/-- The class of a copy destination (R70). -/
inductive RClass where
  | s | v | p
deriving DecidableEq, Repr

/-- The assigned format codes (R32). -/
inductive Fmt where
  | raw | fp32 | fp16 | bf16 | e4m3 | e5m2 | e3m2 | e2m3 | e2m1 | mxe4m3 | mxe2m3 | mxe2m1
  | int32 | int16 | int8 | uint8 | int4 | uint4 | trn2 | a48 | i48
deriving DecidableEq, Repr

/-- The special registers (R21). -/
inductive SysReg where
  | status | cause | epc | edata | tvec | pfx | vcfg | vstart | lease | lanemap | seed | stripbase
  | blend | view | inldepth | peer | cycle
deriving DecidableEq, Repr

/-- What an uncorrectable register-file error struck (R292): a word of slots, a tag, or a micro-scale. -/
inductive RegFilePart where
  | slots | tag | micro
deriving DecidableEq, Repr

/-- Why an instruction fetch failed: a POISON code sector, or a failing translation with its code (R69, R87). -/
inductive FetchFault where
  | poison | translation
deriving DecidableEq, Repr

/-- The attributes of a page that a home stack's work on its lines depends on (R348): GRND, DFMT, GRID, PACK and RES. -/
structure PageAttr where
  grind : Bool
  dfmt : BitVec 6
  grid : BitVec 2
  pack : Bool
  res : BitVec 2
deriving DecidableEq, Repr

/-- For whom a line comes into the LLC: an address space and the block of its task, 0 for the device itself (R364). -/
structure LineUser where
  asid : Nat
  block : Nat
deriving DecidableEq, Repr

/-- A Cemen transfer as it comes in through a port: the 32-byte header of R395, the 16-byte write mask of a partial
write (0 without one), and the 128-byte blocks that follow. -/
structure CemenMsg where
  port : Nat
  header : BitVec 256
  mask : BitVec 128
  blocks : List (BitVec 1024)
deriving DecidableEq, Repr

/-- The outcome of a lookup in a list of pairs with a key. -/
def lookupNat {α : Type} (k : Nat) : List (Nat × α) → Option α
  | [] => none
  | (j, a) :: l => if j = k then some a else lookupNat k l

/-- Put a pair in a list kept in rising order of keys. -/
def insertNat {α : Type} (k : Nat) (a : α) : List (Nat × α) → List (Nat × α)
  | [] => [(k, a)]
  | (j, b) :: l => if k < j then (k, a) :: (j, b) :: l else if k = j then (k, a) :: l else (j, b) :: insertNat k a l

/-- Drop a key from such a list. -/
def eraseNat {α : Type} (k : Nat) : List (Nat × α) → List (Nat × α)
  | [] => []
  | (j, b) :: l => if k = j then l else (j, b) :: eraseNat k l

end Sys2Proof
end

