-- ==== Sys2Proof/Config.lean ====
section
/-! DEFINITION. What an implementation fixes, and the free values: constants without a body, of which nothing can be
proved. Each is named in a log entry (notes/assumptions). -/

namespace Sys2Proof

/-- What a byte of host memory holds that the device has not written (R393): a free value (log 9).
DESIGN CHOICE (safe, log 9). -/
opaque Config.hostByte : Nat → BitVec 8

/-- What a scatter-add to a peer carries for a sum that is a NaN or an infinity, for which R395 has no form: a free value
(log 9).
DESIGN CHOICE (safe, log 9). -/
opaque Config.carriedSum : Nat → BitVec 1024

/-- Which two partial sums the fabric's reduction tree adds next in a sum with an FP32 input (R400): a free value of the
collective and of the step (log 44).
DESIGN CHOICE (safe, log 44). -/
opaque Config.reductionPick : Nat → Nat → Nat × Nat

/-- The version of a firmware image that a commit stores; R407 gives the image no layout: a free value (log 45).
DESIGN CHOICE (safe, log 45). -/
opaque Config.imageVersion : Nat → BitVec 16

/-- The magnitude of a transcendental result that R130's correctly rounded value would need more precision for than the
model computes: a free value (log 30).
DESIGN CHOICE (safe, log 30). -/
opaque Config.roundingTie : Nat → Bool

/-- A power, temperature or coolant reading, by its offset in the package register block and the clock (R405): a free value.
DESIGN CHOICE (safe, log 46). -/
opaque Config.sensorReading : Nat → Nat → BitVec 64

/-- How many clocks a fill of a slice takes, by the clock of its request and the slot (R324: "as the slice's fill", which has no
number): a free value (log 76).
DESIGN CHOICE (safe, log 76). -/
opaque Config.fillClocks : Nat → Nat → Nat

/-- Whether one memory agent of a strand finds a sector as it was before a write of the other that nothing orders before it (R186), and
whether a walk does (R352), by the clock, the agent and the address: a free value (log 77).
DESIGN CHOICE (safe, log 77). -/
opaque Config.findsOld : Nat → Nat → Nat → Bool

/-- Which of the translations that have been valid an access uses where they differ from the tables (R353), by the clock, the agent and the
address: a free value (log 78).
DESIGN CHOICE (safe, log 78). -/
opaque Config.cachedPick : Nat → Nat → Nat → Nat

/-- The silicon revision (R423, bring-up): log 5.
DESIGN CHOICE (unsafe, log 5). -/
def Config.revision : BitVec 8 := 0x01
/-- DEVID of sys.peer (R391, bring-up): log 5.
DESIGN CHOICE (unsafe, log 5). -/
def Config.deviceId : BitVec 12 := 0
/-- RUNVER and STOREVER of FWCTL (R407, bring-up): log 5.
DESIGN CHOICE (unsafe, log 5). -/
def Config.firmwareVersion : BitVec 16 := 0

end Sys2Proof
end

