-- ==== Sys2Proof/Syntax.lean ====
section
/-! DEFINITION. The instructions and the device events, one constructor for each row of spec/opcode_table.json: 270 rows
are 32-bit words (spec/03, R66 to R81), 103 rows are device events without bits (spec/95). Register operands are numbers
of their class (R67), immediates keep the bits of their field (R68), scopes, special registers and format codes are named.
An event carries the unit it concerns: `g` a strand (core * 32 + strand), `core`, `die`, `bar` (die * 48 + slice), a view, a
region, a block address or the value a host write carries. -/

namespace Sys2Proof

inductive Instr where
  /-- ADD (R90). -/
  | add (d : SReg) (a : SReg) (b : SReg)
  /-- SUB (R90). -/
  | sub (d : SReg) (a : SReg) (b : SReg)
  /-- MUL (R90). -/
  | mul (d : SReg) (a : SReg) (b : SReg)
  /-- MULH (R90). -/
  | mulh (d : SReg) (a : SReg) (b : SReg)
  /-- MULHU (R90). -/
  | mulhu (d : SReg) (a : SReg) (b : SReg)
  /-- DIV (R90). -/
  | div (d : SReg) (a : SReg) (b : SReg)
  /-- DIVU (R90). -/
  | divu (d : SReg) (a : SReg) (b : SReg)
  /-- REM (R90). -/
  | rem (d : SReg) (a : SReg) (b : SReg)
  /-- REMU (R90). -/
  | remu (d : SReg) (a : SReg) (b : SReg)
  /-- AND (R90). -/
  | and (d : SReg) (a : SReg) (b : SReg)
  /-- OR (R90). -/
  | or (d : SReg) (a : SReg) (b : SReg)
  /-- XOR (R90). -/
  | xor (d : SReg) (a : SReg) (b : SReg)
  /-- ANDN (R90). -/
  | andn (d : SReg) (a : SReg) (b : SReg)
  /-- SLL (R90). -/
  | sll (d : SReg) (a : SReg) (b : SReg)
  /-- SRL (R90). -/
  | srl (d : SReg) (a : SReg) (b : SReg)
  /-- SRA (R90). -/
  | sra (d : SReg) (a : SReg) (b : SReg)
  /-- MIN (R90). -/
  | min (d : SReg) (a : SReg) (b : SReg)
  /-- MAX (R90). -/
  | max (d : SReg) (a : SReg) (b : SReg)
  /-- MINU (R90). -/
  | minu (d : SReg) (a : SReg) (b : SReg)
  /-- MAXU (R90). -/
  | maxu (d : SReg) (a : SReg) (b : SReg)
  /-- CLZ (R90). -/
  | clz (d : SReg) (a : SReg)
  /-- POPC (R90). -/
  | popc (d : SReg) (a : SReg)
  /-- SEXT_B (R90). -/
  | sextB (d : SReg) (a : SReg)
  /-- SEXT_H (R90). -/
  | sextH (d : SReg) (a : SReg)
  /-- SEXT_W (R90). -/
  | sextW (d : SReg) (a : SReg)
  /-- ZEXT_B (R90). -/
  | zextB (d : SReg) (a : SReg)
  /-- ZEXT_H (R90). -/
  | zextH (d : SReg) (a : SReg)
  /-- ZEXT_W (R90). -/
  | zextW (d : SReg) (a : SReg)
  /-- ADDI (R91). -/
  | addi (d : SReg) (a : SReg) (imm : BitVec 13)
  /-- ANDI (R91). -/
  | andi (d : SReg) (a : SReg) (imm : BitVec 13)
  /-- ORI (R91). -/
  | ori (d : SReg) (a : SReg) (imm : BitVec 13)
  /-- XORI (R91). -/
  | xori (d : SReg) (a : SReg) (imm : BitVec 13)
  /-- SLLI (R91). -/
  | slli (d : SReg) (a : SReg) (imm : BitVec 13)
  /-- SRLI (R91). -/
  | srli (d : SReg) (a : SReg) (imm : BitVec 13)
  /-- SRAI (R91). -/
  | srai (d : SReg) (a : SReg) (imm : BitVec 13)
  /-- CMP_EQ (R93). -/
  | cmpEq (d : PReg) (a : SReg) (b : SReg)
  /-- CMP_NE (R93). -/
  | cmpNe (d : PReg) (a : SReg) (b : SReg)
  /-- CMP_LT (R93). -/
  | cmpLt (d : PReg) (a : SReg) (b : SReg)
  /-- CMP_GE (R93). -/
  | cmpGe (d : PReg) (a : SReg) (b : SReg)
  /-- CMP_LTU (R93). -/
  | cmpLtu (d : PReg) (a : SReg) (b : SReg)
  /-- CMP_GEU (R93). -/
  | cmpGeu (d : PReg) (a : SReg) (b : SReg)
  /-- CMPI_EQ (R93). -/
  | cmpiEq (d : PReg) (a : SReg) (imm : BitVec 13)
  /-- CMPI_NE (R93). -/
  | cmpiNe (d : PReg) (a : SReg) (imm : BitVec 13)
  /-- CMPI_LT (R93). -/
  | cmpiLt (d : PReg) (a : SReg) (imm : BitVec 13)
  /-- CMPI_GE (R93). -/
  | cmpiGe (d : PReg) (a : SReg) (imm : BitVec 13)
  /-- PAND (R94). -/
  | pand (d : PReg) (a : PReg) (b : PReg)
  /-- POR (R94). -/
  | por (d : PReg) (a : PReg) (b : PReg)
  /-- PXOR (R94). -/
  | pxor (d : PReg) (a : PReg) (b : PReg)
  /-- PANDN (R94). -/
  | pandn (d : PReg) (a : PReg) (b : PReg)
  /-- PNOT (R94). -/
  | pnot (d : PReg) (a : PReg)
  /-- PMOV (R94). -/
  | pmov (d : PReg) (a : PReg)
  /-- MOVI (R92). -/
  | movi (d : SReg) (imm : BitVec 19)
  /-- MOVHI (R92). -/
  | movhi (d : SReg) (imm : BitVec 19)
  /-- ADR (R92). -/
  | adr (d : SReg) (imm : BitVec 19)
  /-- LD_B (R95). -/
  | ldB (d : SReg) (base : SReg) (off : BitVec 10)
  /-- LD_B_U (R95). -/
  | ldBU (d : SReg) (base : SReg) (off : BitVec 10)
  /-- LD_H (R95). -/
  | ldH (d : SReg) (base : SReg) (off : BitVec 10)
  /-- LD_H_U (R95). -/
  | ldHU (d : SReg) (base : SReg) (off : BitVec 10)
  /-- LD_W (R95). -/
  | ldW (d : SReg) (base : SReg) (off : BitVec 10)
  /-- LD_W_U (R95). -/
  | ldWU (d : SReg) (base : SReg) (off : BitVec 10)
  /-- LD_D (R95). -/
  | ldD (d : SReg) (base : SReg) (off : BitVec 10)
  /-- ST_B (R96). -/
  | stB (d : SReg) (base : SReg) (off : BitVec 10)
  /-- ST_H (R96). -/
  | stH (d : SReg) (base : SReg) (off : BitVec 10)
  /-- ST_W (R96). -/
  | stW (d : SReg) (base : SReg) (off : BitVec 10)
  /-- ST_D (R96). -/
  | stD (d : SReg) (base : SReg) (off : BitVec 10)
  /-- LDE_F32 (R98). -/
  | ldeF32 (d : SReg) (base : SReg) (off : BitVec 10)
  /-- LDE_I64 (R98). -/
  | ldeI64 (d : SReg) (base : SReg) (off : BitVec 10)
  /-- LDE_RAW (R98). -/
  | ldeRaw (d : SReg) (base : SReg) (off : BitVec 10)
  /-- STE_F32 (R99). -/
  | steF32 (d : SReg) (base : SReg) (off : BitVec 10)
  /-- STE_I64 (R99). -/
  | steI64 (d : SReg) (base : SReg) (off : BitVec 10)
  /-- STE_RAW (R99). -/
  | steRaw (d : SReg) (base : SReg) (off : BitVec 10)
  /-- LD_ACQ (R158). -/
  | ldAcq (d : SReg) (base : SReg) (scope : Scope) (off : BitVec 10)
  /-- ST_REL (R158). -/
  | stRel (d : SReg) (base : SReg) (scope : Scope) (off : BitVec 10)
  /-- LD_BND_S (R165). -/
  | ldBndS (d : SReg) (base : SReg) (bound : BitVec 4) (t : SReg)
  /-- LD_BND_F (R165). -/
  | ldBndF (d : SReg) (base : SReg) (bound : BitVec 4) (t : SReg)
  /-- AMO_ADD (R160). -/
  | amoAdd (d : SReg) (a : SReg) (b : SReg) (scope : Scope)
  /-- AMO_AND (R160). -/
  | amoAnd (d : SReg) (a : SReg) (b : SReg) (scope : Scope)
  /-- AMO_OR (R160). -/
  | amoOr (d : SReg) (a : SReg) (b : SReg) (scope : Scope)
  /-- AMO_XOR (R160). -/
  | amoXor (d : SReg) (a : SReg) (b : SReg) (scope : Scope)
  /-- AMO_MIN (R160). -/
  | amoMin (d : SReg) (a : SReg) (b : SReg) (scope : Scope)
  /-- AMO_MAX (R160). -/
  | amoMax (d : SReg) (a : SReg) (b : SReg) (scope : Scope)
  /-- AMO_MINU (R160). -/
  | amoMinu (d : SReg) (a : SReg) (b : SReg) (scope : Scope)
  /-- AMO_MAXU (R160). -/
  | amoMaxu (d : SReg) (a : SReg) (b : SReg) (scope : Scope)
  /-- AMO_SWAP (R160). -/
  | amoSwap (d : SReg) (a : SReg) (b : SReg) (scope : Scope)
  /-- AMO_CAS (R160). -/
  | amoCas (d : SReg) (a : SReg) (b : SReg) (scope : Scope)
  /-- BZ (R100). -/
  | bz (a : SReg) (off : BitVec 19)
  /-- BNZ (R100). -/
  | bnz (a : SReg) (off : BitVec 19)
  /-- BP (R100). -/
  | bp (a : PReg) (off : BitVec 19)
  /-- BNP (R100). -/
  | bnp (a : PReg) (off : BitVec 19)
  /-- CALL (R101). -/
  | call (d : SReg) (imm : BitVec 19)
  /-- JMP (R101). -/
  | jmp (imm : BitVec 19)
  /-- CALL_REG (R101). -/
  | callReg (d : SReg) (a : SReg) (imm : BitVec 13)
  /-- JMP_REG (R101). -/
  | jmpReg (a : SReg) (imm : BitVec 13)
  /-- RET (R101). -/
  | ret (a : SReg)
  /-- LOOPV (R102). -/
  | loopv (a : SReg) (len : BitVec 19)
  /-- NOP (R105). -/
  | nop
  /-- TRAP (R106). -/
  | trap (code : SReg)
  /-- BRK (R106). -/
  | brk
  /-- ERET (R107). -/
  | eret
  /-- WFE (R110). -/
  | wfe (a : SReg) (b : SReg)
  /-- SEV (R109). -/
  | sev (scope : Scope)
  /-- YIELD (R112). -/
  | yield
  /-- MODE_X (R108). -/
  | modeX
  /-- MODE_I (R108). -/
  | modeI
  /-- ICINV (R113). -/
  | icinv
  /-- MFS (R114). -/
  | mfs (d : SReg) (reg : SysReg)
  /-- MTS (R115). -/
  | mts (reg : SysReg) (src : SReg)
  /-- SLEEP_UNTIL (R111). -/
  | sleepUntil (a : SReg)
  /-- BLENDW (R116). -/
  | blendw (a : SReg) (b : SReg)
  /-- TLBINV (R117). -/
  | tlbinv (a : SReg) (b : SReg)
  /-- ASID_SET (R118). -/
  | asidSet (a : SReg)
  /-- VCFG (R120). -/
  | vcfg (d : SReg) (nreg : BitVec 2) (wmax : BitVec 2) (mz : BitVec 1)
  /-- SETVL (R121). -/
  | setvl (d : SReg) (a : SReg)
  /-- VADD (R127). -/
  | vadd (d : VIdx) (a : VIdx) (b : VIdx)
  /-- VSUB (R127). -/
  | vsub (d : VIdx) (a : VIdx) (b : VIdx)
  /-- VMUL (R127). -/
  | vmul (d : VIdx) (a : VIdx) (b : VIdx)
  /-- VFMA (R127). -/
  | vfma (d : VIdx) (a : VIdx) (b : VIdx)
  /-- VFMS (R127). -/
  | vfms (d : VIdx) (a : VIdx) (b : VIdx)
  /-- VMIN (R127). -/
  | vmin (d : VIdx) (a : VIdx) (b : VIdx)
  /-- VMAX (R127). -/
  | vmax (d : VIdx) (a : VIdx) (b : VIdx)
  /-- VABS (R127). -/
  | vabs (d : VIdx) (a : VIdx)
  /-- VNEG (R127). -/
  | vneg (d : VIdx) (a : VIdx)
  /-- VDIV (R127). -/
  | vdiv (d : VIdx) (a : VIdx) (b : VIdx)
  /-- VEXP (R130). -/
  | vexp (d : VIdx) (a : VIdx)
  /-- VLOG (R130). -/
  | vlog (d : VIdx) (a : VIdx)
  /-- VRCP (R130). -/
  | vrcp (d : VIdx) (a : VIdx)
  /-- VRSQRT (R130). -/
  | vrsqrt (d : VIdx) (a : VIdx)
  /-- VTANH (R130). -/
  | vtanh (d : VIdx) (a : VIdx)
  /-- VSIGM (R130). -/
  | vsigm (d : VIdx) (a : VIdx)
  /-- VSIN (R130). -/
  | vsin (d : VIdx) (a : VIdx)
  /-- VCOS (R130). -/
  | vcos (d : VIdx) (a : VIdx)
  /-- VCMP_EQ (R132). -/
  | vcmpEq (d : PReg) (a : VIdx) (b : VIdx)
  /-- VCMP_NE (R132). -/
  | vcmpNe (d : PReg) (a : VIdx) (b : VIdx)
  /-- VCMP_LT (R132). -/
  | vcmpLt (d : PReg) (a : VIdx) (b : VIdx)
  /-- VCMP_LE (R132). -/
  | vcmpLe (d : PReg) (a : VIdx) (b : VIdx)
  /-- VCMP_GT (R132). -/
  | vcmpGt (d : PReg) (a : VIdx) (b : VIdx)
  /-- VCMP_GE (R132). -/
  | vcmpGe (d : PReg) (a : VIdx) (b : VIdx)
  /-- VSEL (R133). -/
  | vsel (d : VIdx) (a : VIdx) (b : VIdx) (c : PReg)
  /-- VAND (R134). -/
  | vand (d : VIdx) (a : VIdx) (b : VIdx)
  /-- VOR (R134). -/
  | vor (d : VIdx) (a : VIdx) (b : VIdx)
  /-- VXOR (R134). -/
  | vxor (d : VIdx) (a : VIdx) (b : VIdx)
  /-- VANDN (R134). -/
  | vandn (d : VIdx) (a : VIdx) (b : VIdx)
  /-- VNOT (R134). -/
  | vnot (d : VIdx) (a : VIdx)
  /-- VSLL (R135). -/
  | vsll (d : VIdx) (a : VIdx) (b : VIdx)
  /-- VSRL (R135). -/
  | vsrl (d : VIdx) (a : VIdx) (b : VIdx)
  /-- VSRA (R135). -/
  | vsra (d : VIdx) (a : VIdx) (b : VIdx)
  /-- VCVT (R137). -/
  | vcvt (d : VIdx) (a : VIdx) (fmt : Fmt)
  /-- VCVT_SAT (R137). -/
  | vcvtSat (d : VIdx) (a : VIdx) (fmt : Fmt)
  /-- VCVT_FIT (R138). -/
  | vcvtFit (d : VIdx) (a : VIdx) (fmt : Fmt)
  /-- VRETAG (R139). -/
  | vretag (d : VIdx) (a : VIdx) (fmt : Fmt)
  /-- VSCALE (R140). -/
  | vscale (d : VIdx) (a : VIdx) (b : SReg)
  /-- VTAG (R141). -/
  | vtag (d : VIdx) (a : SReg)
  /-- VTAG_RD (R141). -/
  | vtagRd (d : SReg) (a : VIdx)
  /-- VBCAST_F32 (R142). -/
  | vbcastF32 (d : VIdx) (a : SReg) (fmt : Fmt)
  /-- VBCAST_I64 (R142). -/
  | vbcastI64 (d : VIdx) (a : SReg) (fmt : Fmt)
  /-- VBCAST_RAW (R142). -/
  | vbcastRaw (d : VIdx) (a : SReg) (fmt : Fmt)
  /-- VBCAST_EL (R142). -/
  | vbcastEl (d : VIdx) (a : VIdx) (b : SReg)
  /-- VRED_ADD (R144). -/
  | vredAdd (d : SReg) (a : VIdx) (b : SReg)
  /-- VRED_MIN (R144). -/
  | vredMin (d : SReg) (a : VIdx) (b : SReg)
  /-- VRED_MAX (R144). -/
  | vredMax (d : SReg) (a : VIdx) (b : SReg)
  /-- VRED_AND (R144). -/
  | vredAnd (d : SReg) (a : VIdx) (b : SReg)
  /-- VRED_OR (R144). -/
  | vredOr (d : SReg) (a : VIdx) (b : SReg)
  /-- VRED_XOR (R144). -/
  | vredXor (d : SReg) (a : VIdx) (b : SReg)
  /-- VDOT (R145). -/
  | vdot (d : SReg) (a : VIdx) (b : VIdx)
  /-- VIOTA (R169). -/
  | viota (d : VIdx) (a : PReg) (fmt : BitVec 6)
  /-- VPERM (R170). -/
  | vperm (d : VIdx) (a : VIdx) (b : VIdx)
  /-- VROT (R170). -/
  | vrot (d : VIdx) (a : VIdx) (b : SReg)
  /-- VSLIDEUP (R170). -/
  | vslideup (d : VIdx) (a : VIdx) (b : SReg)
  /-- VSLIDEDN (R170). -/
  | vslidedn (d : VIdx) (a : VIdx) (b : SReg)
  /-- VCOMPRESS (R172). -/
  | vcompress (d : VIdx) (a : VIdx) (b : PReg)
  /-- VEXPAND (R172). -/
  | vexpand (d : VIdx) (a : VIdx) (b : PReg)
  /-- VLD (R151). -/
  | vld (d : VIdx) (base : SReg) (off : BitVec 10)
  /-- VLD_Q (R178). -/
  | vldQ (d : QReg) (base : SReg) (off : BitVec 10)
  /-- VST (R152). -/
  | vst (d : VIdx) (base : SReg) (off : BitVec 10)
  /-- VLDS (R153). -/
  | vlds (d : VIdx) (a : SReg) (b : SReg)
  /-- VSTS (R153). -/
  | vsts (d : VIdx) (a : SReg) (b : SReg)
  /-- VLDX (R154). -/
  | vldx (d : VIdx) (a : SReg) (b : VIdx)
  /-- VSTX (R154). -/
  | vstx (d : VIdx) (a : SReg) (b : VIdx)
  /-- VSCTADD (R156). -/
  | vsctadd (d : VIdx) (a : SReg) (b : VIdx) (scope : Scope)
  /-- VLD_SC (R157). -/
  | vldSc (d : VIdx) (base : SReg) (off : BitVec 10)
  /-- VST_SC (R157). -/
  | vstSc (d : VIdx) (base : SReg) (off : BitVec 10)
  /-- VLD_BND_S (R165). -/
  | vldBndS (d : VIdx) (base : SReg) (bound : BitVec 4) (t : SReg)
  /-- VLD_BND_F (R165). -/
  | vldBndF (d : VIdx) (base : SReg) (bound : BitVec 4) (t : SReg)
  /-- STRIP_OPEN (R174). -/
  | stripOpen (d : HReg) (a : SReg) (b : SReg)
  /-- STRIP_CLOSE (R174). -/
  | stripClose (d : HReg)
  /-- STRIP_LD (R175). -/
  | stripLd (d : VIdx) (a : HReg)
  /-- STRIP_LD_NA (R175). -/
  | stripLdNa (d : VIdx) (a : HReg)
  /-- STRIP_ST (R175). -/
  | stripSt (d : VIdx) (a : HReg)
  /-- STRIP_ST_NA (R175). -/
  | stripStNa (d : VIdx) (a : HReg)
  /-- QBIND (R177). -/
  | qbind (d : QReg) (a : SReg)
  /-- QPUSH_V (R178). -/
  | qpushV (d : QReg) (a : VIdx)
  /-- QPUSH_S (R178). -/
  | qpushS (d : QReg) (a : SReg)
  /-- QPUSH_B (R178). -/
  | qpushB (d : QReg) (a : SReg)
  /-- QPOP_V (R179). -/
  | qpopV (d : VIdx) (a : QReg)
  /-- QPOP_S (R179). -/
  | qpopS (d : SReg) (a : QReg)
  /-- QPEEK_V (R179). -/
  | qpeekV (d : VIdx) (a : QReg)
  /-- QPEEK_S (R179). -/
  | qpeekS (d : SReg) (a : QReg)
  /-- QBR (R180). -/
  | qbr (a : QReg) (off : BitVec 19)
  /-- VAMO_ADD (R161). -/
  | vamoAdd (d : VIdx) (a : SReg) (b : VIdx) (scope : Scope)
  /-- VAMO_MIN (R161). -/
  | vamoMin (d : VIdx) (a : SReg) (b : VIdx) (scope : Scope)
  /-- VAMO_MAX (R161). -/
  | vamoMax (d : VIdx) (a : SReg) (b : VIdx) (scope : Scope)
  /-- VAMO_SWAP (R161). -/
  | vamoSwap (d : VIdx) (a : SReg) (b : VIdx) (scope : Scope)
  /-- VAMO_CAS (R161). -/
  | vamoCas (d : VIdx) (a : SReg) (b : VIdx) (scope : Scope)
  /-- FENCE_SV (R193). -/
  | fenceSv (scope : Scope)
  /-- FENCE_VS (R193). -/
  | fenceVs (scope : Scope)
  /-- FENCE_VV (R193). -/
  | fenceVv (scope : Scope)
  /-- FENCE_ALL (R193). -/
  | fenceAll (scope : Scope)
  /-- VWAIT (R162). -/
  | vwait (d : PReg) (a : SReg) (b : SReg) (scope : Scope)
  /-- ROUND_ADV (R164). -/
  | roundAdv (d : SReg) (a : SReg)
  /-- ROUND_RD (R164). -/
  | roundRd (d : SReg) (a : SReg)
  /-- TILE_SET (R249). -/
  | tileSet (d : SReg) (a : SReg)
  /-- MMA (R252). -/
  | mma (d : AReg) (a : VIdx) (b : VIdx)
  /-- MMA_W (R252). -/
  | mmaW (d : AReg) (a : VIdx) (slot : WSlot)
  /-- MMA_Z (R252). -/
  | mmaZ (d : AReg) (a : VIdx) (b : VIdx)
  /-- MMA_WZ (R252). -/
  | mmaWz (d : AReg) (a : VIdx) (slot : WSlot)
  /-- MMA_T (R253). -/
  | mmaT (d : AReg) (a : VIdx) (b : VIdx)
  /-- MMA_T_W (R253). -/
  | mmaTW (d : AReg) (a : VIdx) (slot : WSlot)
  /-- MMA_T_Z (R253). -/
  | mmaTZ (d : AReg) (a : VIdx) (b : VIdx)
  /-- MMA_T_WZ (R253). -/
  | mmaTWz (d : AReg) (a : VIdx) (slot : WSlot)
  /-- WB_LOAD (R255). -/
  | wbLoad (slot : WSlot) (a : SReg) (b : SReg)
  /-- WB_LOAD_CB (R255). -/
  | wbLoadCb (slot : WSlot) (a : SReg) (b : SReg) (cb : CBook)
  /-- CB_LOAD (R256). -/
  | cbLoad (cb : CBook) (a : SReg) (b : SReg)
  /-- ACC_ZERO (R258). -/
  | accZero (d : AReg) (i48 : BitVec 1)
  /-- ACC_LD (R258). -/
  | accLd (d : AReg) (a : SReg)
  /-- ACC_ST (R258). -/
  | accSt (d : AReg) (a : SReg)
  /-- ACC_RD (R259). -/
  | accRd (d : VIdx) (a : AReg) (b : SReg)
  /-- ACC_RD_S (R259). -/
  | accRdS (d : SReg) (a : AReg) (b : SReg)
  /-- CP_START (R261). -/
  | cpStart (d : SReg) (a : SReg) (ends : BitVec 2)
  /-- CP_2D (R261). -/
  | cp2d (d : SReg) (a : SReg) (ends : BitVec 2)
  /-- CP_GTH (R262). -/
  | cpGth (d : SReg) (a : SReg) (b : VIdx) (ends : BitVec 2)
  /-- VXF_UVAR (R272). -/
  | vxfUvar (d : VIdx) (a : HReg) (fmt : Fmt)
  /-- VXF_SVAR (R272). -/
  | vxfSvar (d : VIdx) (a : HReg) (fmt : Fmt)
  /-- VXF_UNPK (R272). -/
  | vxfUnpk (d : VIdx) (a : HReg) (fmt : Fmt)
  /-- VXF_EUVAR (R272). -/
  | vxfEuvar (d : VIdx) (a : HReg)
  /-- VXF_ESVAR (R272). -/
  | vxfEsvar (d : VIdx) (a : HReg)
  /-- VXF_PACK (R272). -/
  | vxfPack (d : VIdx) (a : HReg)
  /-- PRE (R104). -/
  | pre (p : PReg)
  /-- PRE_N (R104). -/
  | preN (p : PReg)
  /-- PRE_COPY (R104). -/
  | preCopy (p : PReg) (cls : RClass) (cd : BitVec 6)
  /-- PRE_N_COPY (R104). -/
  | preNCopy (p : PReg) (cls : RClass) (cd : BitVec 6)
  /-- FORK (R207). -/
  | fork (d : SReg) (a : SReg)
  /-- FORK_S (R207). -/
  | forkS (d : SReg) (a : SReg)
  /-- SETTLE (R209). -/
  | settle (a : SReg)
  /-- ABANDON (R209). -/
  | abandon
  /-- ABANDON_ALL (R210). -/
  | abandonAll
  /-- CHOOSE (R211). -/
  | choose (d : SReg) (a : SReg)
  /-- CHOOSE_BEST (R211). -/
  | chooseBest (d : SReg)
  /-- VID (R212). -/
  | vid (d : SReg) (a : SReg)
  /-- SPAWN (R308). -/
  | spawn (d : SReg) (a : SReg) (b : SReg)
  /-- SPAWN_T (R308). -/
  | spawnT (d : SReg) (a : SReg) (b : SReg)
  /-- LEASE_REQ (R312). -/
  | leaseReq (least : SReg) (pref : SReg)
  /-- LEASE_REL (R313). -/
  | leaseRel
  /-- LEASE_REL_D (R313). -/
  | leaseRelD
  /-- TASK_END (R310). -/
  | taskEnd
  /-- BAR_CL (R314). -/
  | barCl (a : SReg) (b : SReg)
  /-- CTX_SAVE (R290). -/
  | ctxSave
  /-- CTX_LOAD (R291). -/
  | ctxLoad (d : SReg) (a : SReg)
  /-- COLL_RED_ADD (R400). -/
  | collRedAdd (d : SReg) (a : SReg)
  /-- COLL_RED_MIN (R400). -/
  | collRedMin (d : SReg) (a : SReg)
  /-- COLL_RED_MAX (R400). -/
  | collRedMax (d : SReg) (a : SReg)
  /-- COLL_RED_FO (R400). -/
  | collRedFo (d : SReg) (a : SReg)
  /-- COLL_BCAST (R400). -/
  | collBcast (d : SReg) (a : SReg)
  /-- H_FETCH (R332). -/
  | hFetch (a : SReg) (b : SReg)
  /-- H_POST (R333). -/
  | hPost (a : SReg) (b : SReg)
  /-- H_FWD (R333). -/
  | hFwd (a : SReg)
  /-- H_STAMP (R334). -/
  | hStamp (d : SReg) (a : SReg)
  /-- H_STAMP_ADV (R334). -/
  | hStampAdv (d : SReg) (a : SReg)
  /-- H_DONE (R335). -/
  | hDone
  /-- H_ABORT (R335). -/
  | hAbort (a : SReg)
  /-- BMSG (R340). -/
  | bmsg (a : SReg) (b : SReg)
  /-- GRANT_WAIT_APPLY (R230). -/
  | grantWaitApply (g : Nat)
  /-- RESHAPE_COMPLETE (R230). -/
  | reshapeComplete (g : Nat)
  /-- COMMIT_LAND (R24). -/
  | commitLand (g : Nat)
  /-- LATE_RESULT_READY (R236). -/
  | lateResultReady (g : Nat)
  /-- DRAIN_COMPLETE (R26). -/
  | drainComplete (g : Nat)
  /-- ARBITER_HOLD_TIMEOUT (R229). -/
  | arbiterHoldTimeout (g : Nat)
  /-- PREEMPTION_NOTICE (R278). -/
  | preemptionNotice (g : Nat)
  /-- GRACE_PERIOD_EXPIRY (R279). -/
  | gracePeriodExpiry (g : Nat)
  /-- STAGING_DRAIN_COMPLETE (R283). -/
  | stagingDrainComplete (core : Nat) (save : Nat)
  /-- STRIP_COPY_WAIT_END (R289). -/
  | stripCopyWaitEnd (core : Nat) (save : Nat)
  /-- RESTORE_AT_GRANT (R286). -/
  | restoreAtGrant (g : Nat)
  /-- RESUMED_RESHAPED (R287). -/
  | resumedReshaped (g : Nat)
  /-- COPY_EVENT_TAKEN (R244). -/
  | copyEventTaken (g : Nat)
  /-- COPY_SECTOR_MOVE (R265). -/
  | copySectorMove (core : Nat)
  /-- COPY_REQUEST_COMPLETE (R265). -/
  | copyRequestComplete (core : Nat)
  /-- PROMISE_MISS (R266). -/
  | promiseMiss (core : Nat) (req : Nat)
  /-- REGISTER_FILE_CORRECTED_ERROR (R292). -/
  | registerFileCorrectedError (core : Nat) (lane : Nat)
  /-- REGISTER_FILE_UNCORRECTABLE_ERROR (R292). -/
  | registerFileUncorrectableError (core : Nat) (lane : Nat) (word : Nat) (part : RegFilePart) (again : Bool)
  /-- STATE_UNCORRECTABLE_ERROR (R293). -/
  | stateUncorrectableError (g : Nat)
  /-- STRIP_UNCORRECTABLE_ERROR (R240). -/
  | stripUncorrectableError (core : Nat) (sector : Nat)
  /-- QUEUE_ENTRY_UNCORRECTABLE_ERROR (R241). -/
  | queueEntryUncorrectableError (core : Nat) (queue : Nat) (entry : Nat)
  /-- SCRATCHPAD_UNCORRECTABLE_ERROR (R299). -/
  | scratchpadUncorrectableError (pa : Nat)
  /-- SLICE_UNCORRECTABLE_ERROR (R322). -/
  | sliceUncorrectableError (die : Nat) (sector : Nat) (view : Nat) (inStamp : Bool)
  /-- VERTICAL_BUS_CORRECTED_ERROR (R294). -/
  | verticalBusCorrectedError (core : Nat) (bus : Nat)
  /-- ASSAYER_RUN (R294). -/
  | assayerRun (core : Nat)
  /-- ASSAYER_VECTOR_END (R295). -/
  | assayerVectorEnd (core : Nat) (failing : Nat)
  /-- SLICE_FILL (R321). -/
  | sliceFill (die : Nat) (sector : Nat) (view : Nat) (asid : Nat) (vline : Nat)
  /-- COHERENCE_INVALIDATE (R321). -/
  | coherenceInvalidate (die : Nat) (sector : Nat)
  /-- MESSAGE_ARRIVAL (R328). -/
  | messageArrival (bar : Nat)
  /-- INVOCATION_START (R329). -/
  | invocationStart (bar : Nat)
  /-- HANDLER_TIME_LIMIT (R336). -/
  | handlerTimeLimit (bar : Nat)
  /-- PREFETCH_FILL (R332). -/
  | prefetchFill (bar : Nat)
  /-- BTIME_WINDOW_START (R381). -/
  | btimeWindowStart
  /-- TLBINV_COMPLETE (R117). -/
  | tlbinvComplete
  /-- WFE_WAKE (R110). -/
  | wfeWake (g : Nat)
  /-- SLEEP_UNTIL_EXPIRY (R111). -/
  | sleepUntilExpiry (g : Nat)
  /-- VWAIT_WAKE (R162). -/
  | vwaitWake (g : Nat)
  /-- VWAIT_DEADLINE (R162). -/
  | vwaitDeadline (g : Nat)
  /-- QUEUE_WAIT_END (R181). -/
  | queueWaitEnd (g : Nat)
  /-- BOUNDED_LOAD_WAIT_END (R166). -/
  | boundedLoadWaitEnd (g : Nat)
  /-- BARRIER_WAKE (R314). -/
  | barrierWake (g : Nat)
  /-- RIVAL_PLACE (R208). -/
  | rivalPlace (core : Nat)
  /-- CHOOSE_RESUME (R211). -/
  | chooseResume (g : Nat)
  /-- VIEW_RECLAIM (R320). -/
  | viewReclaim (view : Nat)
  /-- SELECT_AND_PLACE (R386). -/
  | selectAndPlace (die : Nat)
  /-- STRIP_TAGGING_COMPLETE (R240). -/
  | stripTaggingComplete (g : Nat)
  /-- QUEUE_TAIL_OBSERVED (R384). -/
  | queueTailObserved (die : Nat) (queue : Nat)
  /-- FRAME_AGED (R388). -/
  | frameAged (die : Nat) (queue : Nat)
  /-- RESERVE_PREEMPT_TIMEOUT (R388). -/
  | reservePreemptTimeout (die : Nat)
  /-- FQHEAD_WRITE (R358). -/
  | fqheadWrite (die : Nat) (value : Word)
  /-- FQBASE_WRITE (R358). -/
  | fqbaseWrite (die : Nat) (value : Word)
  /-- FQSTAT_WRITE (R358). -/
  | fqstatWrite (die : Nat) (value : Word)
  /-- FAULT_DOMAIN_RECOVERY (R382). -/
  | faultDomainRecovery (block : Nat)
  /-- RECOVERY_COMPLETE (R382). -/
  | recoveryComplete (block : Nat)
  /-- LLC_FILL (R365). -/
  | llcFill (line : Nat) (vline : Nat) (user : LineUser)
  /-- HOME_READ (R367). -/
  | homeRead (granule : Nat) (uncorrectable : Bool)
  /-- GRINDER_SWEEP (R370), and whether its read of the sector fails (R367). -/
  | grinderSweep (stack : Nat) (sector : Nat) (uncorrectable : Bool)
  /-- GRINDER_RECALL_COMPLETE (R371). -/
  | grinderRecallComplete (stack : Nat) (uncorrectable : Bool)
  /-- ROUND_MIRRORS_COMPLETE (R373). -/
  | roundMirrorsComplete (region : Nat)
  /-- SHADOW_MULTICAST_ARRIVAL (R164). -/
  | shadowMulticastArrival (die : Nat) (region : Nat)
  /-- TOUCHSTONE_GRANT (R375). -/
  | touchstoneGrant (g : Nat)
  /-- RCB_INSTALL (R378). -/
  | rcbInstall (block : Nat)
  /-- RCB_REMOVE (R378). -/
  | rcbRemove (block : Nat)
  /-- RCB_RECOVER (R382). -/
  | rcbRecover (block : Nat)
  /-- RGCNT_WRITE (R372). -/
  | rgcntWrite (region : Nat) (value : Word)
  /-- RGCNT_LAND (R372). -/
  | rgcntLand (region : Nat)
  /-- RGCTL_WRITE (R372). -/
  | rgctlWrite (region : Nat) (value : Word)
  /-- FW_COMMIT (R407). -/
  | fwCommit (value : Word)
  /-- FW_COMMIT_COMPLETE (R407). -/
  | fwCommitComplete
  /-- MGMTST_WRITE (R409). -/
  | mgmtstWrite (value : Word)
  /-- SKEWMAP_WRITE (R409). -/
  | skewmapWrite (half : Bool) (value : Word)
  /-- LLCPART_WRITE (R364). -/
  | llcpartWrite (n : Nat) (value : Word)
  /-- BARISTA_COUNTERS_CLEAR (R405). -/
  | baristaCountersClear (bar : Nat)
  /-- JRNHEAD_WRITE (R404). -/
  | jrnheadWrite (value : Word)
  /-- JRNSIZE_WRITE (R404). -/
  | jrnsizeWrite (value : Word)
  /-- JRNCTL_WRITE (R403). -/
  | jrnctlWrite (value : Word)
  /-- PACKAGE_REGISTER_WRITE (R405). -/
  | packageRegisterWrite (offset : Nat) (value : Word)
  /-- MODULE_RESET (R409). -/
  | moduleReset
  /-- SELF_TEST_COMPLETE (R409). -/
  | selfTestComplete
  /-- FIRMWARE_CHECK_COMPLETE (R407). -/
  | firmwareCheckComplete
  /-- HBM_TRAINING_COMPLETE (R409). -/
  | hbmTrainingComplete
  /-- THERMAL_TRIP (R410). -/
  | thermalTrip
  /-- LINK_TRAINING (R396). -/
  | linkTraining (port : Nat) (partner : BitVec 16)
  /-- HOST_MEMORY_WRITE (R394). -/
  | hostMemoryWrite (pa : Nat) (data : BitVec 512) (enables : BitVec 64)
  /-- HOST_MEMORY_READ (R394). -/
  | hostMemoryRead (pa : Nat)
  /-- CEMEN_TAGGED_WRITE (R395). -/
  | cemenTaggedWrite (msg : CemenMsg)
  /-- CEMEN_TAGGED_READ (R395). -/
  | cemenTaggedRead (msg : CemenMsg)
  /-- CEMEN_READ_RESPONSE (R395). -/
  | cemenReadResponse (msg : CemenMsg)
  /-- CEMEN_ATOMIC (R395). -/
  | cemenAtomic (msg : CemenMsg)
  /-- CEMEN_HOST_MESSAGE (R395). -/
  | cemenHostMessage (msg : CemenMsg)
  /-- CEMEN_COLLECTIVE_FRAGMENT (R395). -/
  | cemenCollectiveFragment (msg : CemenMsg)
  /-- FABRIC_ACK (R397). -/
  | fabricAck (id : Nat)
  /-- COMPLETION_LOST (R398). -/
  | completionLost (id : Nat)
  /-- COLLECTIVE_MATCH (R400). -/
  | collectiveMatch (die : Nat) (gid : Nat)
  /-- COLLECTIVE_COMPLETE (R401). -/
  | collectiveComplete (die : Nat) (gid : Nat)
  /-- COLLECTIVE_TIMEOUT (R401). -/
  | collectiveTimeout (die : Nat) (gid : Nat)
  /-- REPLAY_APPLY (R403). -/
  | replayApply
  /-- ILLEGAL_INSTRUCTION (R76). -/
  | illegalInstruction (word : BitVec 32)
  /-- INSTRUCTION_FETCH_FAULT (R69). -/
  | instructionFetchFault (fault : FetchFault)
  /-- FORCED_SWITCH_REQUEST (R277). -/
  | forcedSwitchRequest (g : Nat) (switchNow : Bool) (fromManagement : Bool)
  /-- BARISTA_UNCORRECTABLE_ERROR (R337). -/
  | baristaUncorrectableError (bar : Nat)
  /-- FABRIC_BIND (R391): of this device itself, or of one that some ports reach (R390). -/
  | fabricBind (device : Nat) (reached : Option (BitVec 12))
  /-- PARTICIPANT_LOST (R401). -/
  | participantLost (die : Nat) (gid : Nat)
deriving DecidableEq, Repr

end Sys2Proof
end

