-- ==== Sys2Proof/WellFormed.lean ====
section
/-! DEFINITION. The limits the spec puts on operands beyond the width of their field: the unsigned and register-field limits
whose breach is an illegal encoding (R76), and for an event the range of the unit it names. -/

namespace Sys2Proof

/-- The operand limits of a word (R80, R88, R91, R101, R105, R109, R110, R120, R162, R249, R261, R307, R400, R73), and the
unit ranges of an event (384 cores of 32 strands, 4 dies of 48 slices, 12 ports, 1,024 regions). -/
def Instr.WF (i : Instr) : Prop :=
  match i with
  | .add _ _ _ => True
  | .sub _ _ _ => True
  | .mul _ _ _ => True
  | .mulh _ _ _ => True
  | .mulhu _ _ _ => True
  | .div _ _ _ => True
  | .divu _ _ _ => True
  | .rem _ _ _ => True
  | .remu _ _ _ => True
  | .and _ _ _ => True
  | .or _ _ _ => True
  | .xor _ _ _ => True
  | .andn _ _ _ => True
  | .sll _ _ _ => True
  | .srl _ _ _ => True
  | .sra _ _ _ => True
  | .min _ _ _ => True
  | .max _ _ _ => True
  | .minu _ _ _ => True
  | .maxu _ _ _ => True
  | .clz _ _ => True
  | .popc _ _ => True
  | .sextB _ _ => True
  | .sextH _ _ => True
  | .sextW _ _ => True
  | .zextB _ _ => True
  | .zextH _ _ => True
  | .zextW _ _ => True
  | .addi _ _ _ => True
  | .andi _ _ _ => True
  | .ori _ _ _ => True
  | .xori _ _ _ => True
  | .slli _ _ imm => imm.toNat < 64
  | .srli _ _ imm => imm.toNat < 64
  | .srai _ _ imm => imm.toNat < 64
  | .cmpEq _ _ _ => True
  | .cmpNe _ _ _ => True
  | .cmpLt _ _ _ => True
  | .cmpGe _ _ _ => True
  | .cmpLtu _ _ _ => True
  | .cmpGeu _ _ _ => True
  | .cmpiEq _ _ _ => True
  | .cmpiNe _ _ _ => True
  | .cmpiLt _ _ _ => True
  | .cmpiGe _ _ _ => True
  | .pand _ _ _ => True
  | .por _ _ _ => True
  | .pxor _ _ _ => True
  | .pandn _ _ _ => True
  | .pnot _ _ => True
  | .pmov _ _ => True
  | .movi _ _ => True
  | .movhi _ _ => True
  | .adr _ _ => True
  | .ldB _ _ _ => True
  | .ldBU _ _ _ => True
  | .ldH _ _ _ => True
  | .ldHU _ _ _ => True
  | .ldW _ _ _ => True
  | .ldWU _ _ _ => True
  | .ldD _ _ _ => True
  | .stB _ _ _ => True
  | .stH _ _ _ => True
  | .stW _ _ _ => True
  | .stD _ _ _ => True
  | .ldeF32 _ _ _ => True
  | .ldeI64 _ _ _ => True
  | .ldeRaw _ _ _ => True
  | .steF32 _ _ _ => True
  | .steI64 _ _ _ => True
  | .steRaw _ _ _ => True
  | .ldAcq _ _ _ _ => True
  | .stRel _ _ _ _ => True
  | .ldBndS _ _ _ _ => True
  | .ldBndF _ _ _ _ => True
  | .amoAdd _ _ _ _ => True
  | .amoAnd _ _ _ _ => True
  | .amoOr _ _ _ _ => True
  | .amoXor _ _ _ _ => True
  | .amoMin _ _ _ _ => True
  | .amoMax _ _ _ _ => True
  | .amoMinu _ _ _ _ => True
  | .amoMaxu _ _ _ _ => True
  | .amoSwap _ _ _ _ => True
  | .amoCas _ _ _ _ => True
  | .bz _ _ => True
  | .bnz _ _ => True
  | .bp _ _ => True
  | .bnp _ _ => True
  | .call _ _ => True
  | .jmp _ => True
  | .callReg d _ _ => d ≠ 0
  | .jmpReg _ _ => True
  | .ret _ => True
  | .loopv _ len => 1 ≤ len.toNat ∧ len.toNat ≤ 32
  | .nop => True
  | .trap _ => True
  | .brk => True
  | .eret => True
  | .wfe a b => a = 0 → b = 0
  | .sev scope => scope = .strand ∨ scope = .core ∨ scope = .cluster ∨ scope = .die
  | .yield => True
  | .modeX => True
  | .modeI => True
  | .icinv => True
  | .mfs _ _ => True
  | .mts _ _ => True
  | .sleepUntil _ => True
  | .blendw _ _ => True
  | .tlbinv _ _ => True
  | .asidSet _ => True
  | .vcfg _ _ wmax _ => wmax ≠ 3
  | .setvl _ _ => True
  | .vadd _ _ _ => True
  | .vsub _ _ _ => True
  | .vmul _ _ _ => True
  | .vfma _ _ _ => True
  | .vfms _ _ _ => True
  | .vmin _ _ _ => True
  | .vmax _ _ _ => True
  | .vabs _ _ => True
  | .vneg _ _ => True
  | .vdiv _ _ _ => True
  | .vexp _ _ => True
  | .vlog _ _ => True
  | .vrcp _ _ => True
  | .vrsqrt _ _ => True
  | .vtanh _ _ => True
  | .vsigm _ _ => True
  | .vsin _ _ => True
  | .vcos _ _ => True
  | .vcmpEq _ _ _ => True
  | .vcmpNe _ _ _ => True
  | .vcmpLt _ _ _ => True
  | .vcmpLe _ _ _ => True
  | .vcmpGt _ _ _ => True
  | .vcmpGe _ _ _ => True
  | .vsel _ _ _ _ => True
  | .vand _ _ _ => True
  | .vor _ _ _ => True
  | .vxor _ _ _ => True
  | .vandn _ _ _ => True
  | .vnot _ _ => True
  | .vsll _ _ _ => True
  | .vsrl _ _ _ => True
  | .vsra _ _ _ => True
  | .vcvt _ _ _ => True
  | .vcvtSat _ _ _ => True
  | .vcvtFit _ _ _ => True
  | .vretag _ _ _ => True
  | .vscale _ _ _ => True
  | .vtag _ _ => True
  | .vtagRd _ _ => True
  | .vbcastF32 _ _ _ => True
  | .vbcastI64 _ _ _ => True
  | .vbcastRaw _ _ _ => True
  | .vbcastEl _ _ _ => True
  | .vredAdd _ _ _ => True
  | .vredMin _ _ _ => True
  | .vredMax _ _ _ => True
  | .vredAnd _ _ _ => True
  | .vredOr _ _ _ => True
  | .vredXor _ _ _ => True
  | .vdot _ _ _ => True
  | .viota _ _ _ => True
  | .vperm _ _ _ => True
  | .vrot _ _ _ => True
  | .vslideup _ _ _ => True
  | .vslidedn _ _ _ => True
  | .vcompress _ _ _ => True
  | .vexpand _ _ _ => True
  | .vld _ _ _ => True
  | .vldQ _ _ _ => True
  | .vst _ _ _ => True
  | .vlds _ _ _ => True
  | .vsts _ _ _ => True
  | .vldx _ _ _ => True
  | .vstx _ _ _ => True
  | .vsctadd _ _ _ _ => True
  | .vldSc _ _ _ => True
  | .vstSc _ _ _ => True
  | .vldBndS _ _ _ _ => True
  | .vldBndF _ _ _ _ => True
  | .stripOpen _ _ _ => True
  | .stripClose _ => True
  | .stripLd _ _ => True
  | .stripLdNa _ _ => True
  | .stripSt _ _ => True
  | .stripStNa _ _ => True
  | .qbind _ _ => True
  | .qpushV _ _ => True
  | .qpushS _ _ => True
  | .qpushB _ _ => True
  | .qpopV _ _ => True
  | .qpopS _ _ => True
  | .qpeekV _ _ => True
  | .qpeekS _ _ => True
  | .qbr _ _ => True
  | .vamoAdd _ _ _ _ => True
  | .vamoMin _ _ _ _ => True
  | .vamoMax _ _ _ _ => True
  | .vamoSwap _ _ _ _ => True
  | .vamoCas _ _ _ _ => True
  | .fenceSv _ => True
  | .fenceVs _ => True
  | .fenceVv _ => True
  | .fenceAll _ => True
  | .vwait d _ _ _ => d ≠ 0
  | .roundAdv _ _ => True
  | .roundRd _ _ => True
  | .tileSet d a => 1 ≤ d.toNat ∧ d.toNat ≤ 61 ∧ a.toNat ≤ 61
  | .mma _ _ _ => True
  | .mmaW _ _ _ => True
  | .mmaZ _ _ _ => True
  | .mmaWz _ _ _ => True
  | .mmaT _ _ _ => True
  | .mmaTW _ _ _ => True
  | .mmaTZ _ _ _ => True
  | .mmaTWz _ _ _ => True
  | .wbLoad _ _ _ => True
  | .wbLoadCb _ _ _ _ => True
  | .cbLoad _ _ _ => True
  | .accZero _ _ => True
  | .accLd _ _ => True
  | .accSt _ _ => True
  | .accRd _ _ _ => True
  | .accRdS _ _ _ => True
  | .cpStart _ a _ => a.toNat ≤ 61
  | .cp2d _ a _ => a.toNat ≤ 59
  | .cpGth _ a _ _ => a.toNat ≤ 61
  | .vxfUvar _ _ _ => True
  | .vxfSvar _ _ _ => True
  | .vxfUnpk _ _ _ => True
  | .vxfEuvar _ _ => True
  | .vxfEsvar _ _ => True
  | .vxfPack _ _ => True
  | .pre _ => True
  | .preN _ => True
  | .preCopy _ cls cd => cls = .p → cd.toNat ≤ 15
  | .preNCopy _ cls cd => cls = .p → cd.toNat ≤ 15
  | .fork _ _ => True
  | .forkS _ _ => True
  | .settle _ => True
  | .abandon => True
  | .abandonAll => True
  | .choose _ _ => True
  | .chooseBest _ => True
  | .vid _ _ => True
  | .spawn _ _ _ => True
  | .spawnT _ _ _ => True
  | .leaseReq least pref => least.toNat ≤ 8 ∧ least.toNat ≤ pref.toNat ∧ pref.toNat ≤ 8
  | .leaseRel => True
  | .leaseRelD => True
  | .taskEnd => True
  | .barCl _ _ => True
  | .ctxSave => True
  | .ctxLoad _ _ => True
  | .collRedAdd _ a => a.toNat ≤ 60
  | .collRedMin _ a => a.toNat ≤ 60
  | .collRedMax _ a => a.toNat ≤ 60
  | .collRedFo _ a => a.toNat ≤ 60
  | .collBcast _ a => a.toNat ≤ 60
  | .hFetch _ _ => True
  | .hPost _ _ => True
  | .hFwd _ => True
  | .hStamp _ _ => True
  | .hStampAdv _ _ => True
  | .hDone => True
  | .hAbort _ => True
  | .bmsg _ _ => True
  | .grantWaitApply g => g < 12288
  | .reshapeComplete g => g < 12288
  | .commitLand g => g < 12288
  | .lateResultReady g => g < 12288
  | .drainComplete g => g < 12288
  | .arbiterHoldTimeout g => g < 12288
  | .preemptionNotice g => g < 12288
  | .gracePeriodExpiry g => g < 12288
  | .stagingDrainComplete core _ => core < 384
  | .stripCopyWaitEnd core _ => core < 384
  | .restoreAtGrant g => g < 12288
  | .resumedReshaped g => g < 12288
  | .copyEventTaken g => g < 12288
  | .copySectorMove core => core < 384
  | .copyRequestComplete core => core < 384
  | .promiseMiss core _ => core < 384
  | .registerFileCorrectedError core lane => core < 384 ∧ lane < 64
  | .registerFileUncorrectableError core lane _ _ _ => core < 384 ∧ lane < 64
  | .stateUncorrectableError g => g < 12288
  | .stripUncorrectableError core _ => core < 384
  | .queueEntryUncorrectableError core _ _ => core < 384
  | .scratchpadUncorrectableError _ => True
  | .sliceUncorrectableError die _ _ _ => die ≤ 4
  | .verticalBusCorrectedError core bus => core < 384 ∧ bus < 64
  | .assayerRun core => core < 384
  | .assayerVectorEnd core _ => core < 384
  | .sliceFill die _ _ _ _ => die < 4
  | .coherenceInvalidate die _ => die < 4
  | .messageArrival bar => bar < 192
  | .invocationStart bar => bar < 192
  | .handlerTimeLimit bar => bar < 192
  | .prefetchFill bar => bar < 192
  | .btimeWindowStart => True
  | .tlbinvComplete => True
  | .wfeWake g => g < 12288
  | .sleepUntilExpiry g => g < 12288
  | .vwaitWake g => g < 12288
  | .vwaitDeadline g => g < 12288
  | .queueWaitEnd g => g < 12288
  | .boundedLoadWaitEnd g => g < 12288
  | .barrierWake g => g < 12288
  | .rivalPlace core => core < 384
  | .chooseResume g => g < 12288
  | .viewReclaim _ => True
  | .selectAndPlace die => die < 4
  | .stripTaggingComplete g => g < 12288
  | .queueTailObserved die _ => die < 4
  | .frameAged die _ => die < 4
  | .reservePreemptTimeout die => die < 4
  | .fqheadWrite die _ => die < 4
  | .fqbaseWrite die _ => die < 4
  | .fqstatWrite die _ => die < 4
  | .faultDomainRecovery _ => True
  | .recoveryComplete _ => True
  | .llcFill _ _ _ => True
  | .homeRead _ _ => True
  | .grinderSweep stack _ _ => stack < 4
  | .grinderRecallComplete stack _ => stack < 4
  | .roundMirrorsComplete region => region < 1024
  | .shadowMulticastArrival die region => die < 4 ∧ region < 1024
  | .touchstoneGrant g => g < 12288
  | .rcbInstall _ => True
  | .rcbRemove _ => True
  | .rcbRecover _ => True
  | .rgcntWrite region _ => region < 1024
  | .rgcntLand region => region < 1024
  | .rgctlWrite region _ => region < 1024
  | .fwCommit _ => True
  | .fwCommitComplete => True
  | .mgmtstWrite _ => True
  | .skewmapWrite _ _ => True
  | .llcpartWrite n _ => n < 16
  | .baristaCountersClear bar => bar < 192
  | .jrnheadWrite _ => True
  | .jrnsizeWrite _ => True
  | .jrnctlWrite _ => True
  | .packageRegisterWrite _ _ => True
  | .moduleReset => True
  | .selfTestComplete => True
  | .firmwareCheckComplete => True
  | .hbmTrainingComplete => True
  | .thermalTrip => True
  | .linkTraining port _ => port < 12
  | .hostMemoryWrite _ _ _ => True
  | .hostMemoryRead _ => True
  | .cemenTaggedWrite _ => True
  | .cemenTaggedRead _ => True
  | .cemenReadResponse _ => True
  | .cemenAtomic _ => True
  | .cemenHostMessage _ => True
  | .cemenCollectiveFragment _ => True
  | .fabricAck _ => True
  | .completionLost _ => True
  | .collectiveMatch die _ => die < 4
  | .collectiveComplete die _ => die < 4
  | .collectiveTimeout die _ => die < 4
  | .replayApply => True
  | .illegalInstruction _ => True
  | .instructionFetchFault _ => True
  | .forcedSwitchRequest g _ _ => g < 12288
  | .baristaUncorrectableError bar => bar < 192
  | .fabricBind _ _ => True
  | .participantLost die _ => die < 4

/-- Well-formedness as a test. -/
def Instr.wf (i : Instr) : Bool :=
  match i with
  | .add _ _ _ => true
  | .sub _ _ _ => true
  | .mul _ _ _ => true
  | .mulh _ _ _ => true
  | .mulhu _ _ _ => true
  | .div _ _ _ => true
  | .divu _ _ _ => true
  | .rem _ _ _ => true
  | .remu _ _ _ => true
  | .and _ _ _ => true
  | .or _ _ _ => true
  | .xor _ _ _ => true
  | .andn _ _ _ => true
  | .sll _ _ _ => true
  | .srl _ _ _ => true
  | .sra _ _ _ => true
  | .min _ _ _ => true
  | .max _ _ _ => true
  | .minu _ _ _ => true
  | .maxu _ _ _ => true
  | .clz _ _ => true
  | .popc _ _ => true
  | .sextB _ _ => true
  | .sextH _ _ => true
  | .sextW _ _ => true
  | .zextB _ _ => true
  | .zextH _ _ => true
  | .zextW _ _ => true
  | .addi _ _ _ => true
  | .andi _ _ _ => true
  | .ori _ _ _ => true
  | .xori _ _ _ => true
  | .slli _ _ imm => decide (imm.toNat < 64)
  | .srli _ _ imm => decide (imm.toNat < 64)
  | .srai _ _ imm => decide (imm.toNat < 64)
  | .cmpEq _ _ _ => true
  | .cmpNe _ _ _ => true
  | .cmpLt _ _ _ => true
  | .cmpGe _ _ _ => true
  | .cmpLtu _ _ _ => true
  | .cmpGeu _ _ _ => true
  | .cmpiEq _ _ _ => true
  | .cmpiNe _ _ _ => true
  | .cmpiLt _ _ _ => true
  | .cmpiGe _ _ _ => true
  | .pand _ _ _ => true
  | .por _ _ _ => true
  | .pxor _ _ _ => true
  | .pandn _ _ _ => true
  | .pnot _ _ => true
  | .pmov _ _ => true
  | .movi _ _ => true
  | .movhi _ _ => true
  | .adr _ _ => true
  | .ldB _ _ _ => true
  | .ldBU _ _ _ => true
  | .ldH _ _ _ => true
  | .ldHU _ _ _ => true
  | .ldW _ _ _ => true
  | .ldWU _ _ _ => true
  | .ldD _ _ _ => true
  | .stB _ _ _ => true
  | .stH _ _ _ => true
  | .stW _ _ _ => true
  | .stD _ _ _ => true
  | .ldeF32 _ _ _ => true
  | .ldeI64 _ _ _ => true
  | .ldeRaw _ _ _ => true
  | .steF32 _ _ _ => true
  | .steI64 _ _ _ => true
  | .steRaw _ _ _ => true
  | .ldAcq _ _ _ _ => true
  | .stRel _ _ _ _ => true
  | .ldBndS _ _ _ _ => true
  | .ldBndF _ _ _ _ => true
  | .amoAdd _ _ _ _ => true
  | .amoAnd _ _ _ _ => true
  | .amoOr _ _ _ _ => true
  | .amoXor _ _ _ _ => true
  | .amoMin _ _ _ _ => true
  | .amoMax _ _ _ _ => true
  | .amoMinu _ _ _ _ => true
  | .amoMaxu _ _ _ _ => true
  | .amoSwap _ _ _ _ => true
  | .amoCas _ _ _ _ => true
  | .bz _ _ => true
  | .bnz _ _ => true
  | .bp _ _ => true
  | .bnp _ _ => true
  | .call _ _ => true
  | .jmp _ => true
  | .callReg d _ _ => decide (d ≠ 0)
  | .jmpReg _ _ => true
  | .ret _ => true
  | .loopv _ len => decide (1 ≤ len.toNat ∧ len.toNat ≤ 32)
  | .nop => true
  | .trap _ => true
  | .brk => true
  | .eret => true
  | .wfe a b => decide (a = 0 → b = 0)
  | .sev scope => decide (scope = .strand ∨ scope = .core ∨ scope = .cluster ∨ scope = .die)
  | .yield => true
  | .modeX => true
  | .modeI => true
  | .icinv => true
  | .mfs _ _ => true
  | .mts _ _ => true
  | .sleepUntil _ => true
  | .blendw _ _ => true
  | .tlbinv _ _ => true
  | .asidSet _ => true
  | .vcfg _ _ wmax _ => decide (wmax ≠ 3)
  | .setvl _ _ => true
  | .vadd _ _ _ => true
  | .vsub _ _ _ => true
  | .vmul _ _ _ => true
  | .vfma _ _ _ => true
  | .vfms _ _ _ => true
  | .vmin _ _ _ => true
  | .vmax _ _ _ => true
  | .vabs _ _ => true
  | .vneg _ _ => true
  | .vdiv _ _ _ => true
  | .vexp _ _ => true
  | .vlog _ _ => true
  | .vrcp _ _ => true
  | .vrsqrt _ _ => true
  | .vtanh _ _ => true
  | .vsigm _ _ => true
  | .vsin _ _ => true
  | .vcos _ _ => true
  | .vcmpEq _ _ _ => true
  | .vcmpNe _ _ _ => true
  | .vcmpLt _ _ _ => true
  | .vcmpLe _ _ _ => true
  | .vcmpGt _ _ _ => true
  | .vcmpGe _ _ _ => true
  | .vsel _ _ _ _ => true
  | .vand _ _ _ => true
  | .vor _ _ _ => true
  | .vxor _ _ _ => true
  | .vandn _ _ _ => true
  | .vnot _ _ => true
  | .vsll _ _ _ => true
  | .vsrl _ _ _ => true
  | .vsra _ _ _ => true
  | .vcvt _ _ _ => true
  | .vcvtSat _ _ _ => true
  | .vcvtFit _ _ _ => true
  | .vretag _ _ _ => true
  | .vscale _ _ _ => true
  | .vtag _ _ => true
  | .vtagRd _ _ => true
  | .vbcastF32 _ _ _ => true
  | .vbcastI64 _ _ _ => true
  | .vbcastRaw _ _ _ => true
  | .vbcastEl _ _ _ => true
  | .vredAdd _ _ _ => true
  | .vredMin _ _ _ => true
  | .vredMax _ _ _ => true
  | .vredAnd _ _ _ => true
  | .vredOr _ _ _ => true
  | .vredXor _ _ _ => true
  | .vdot _ _ _ => true
  | .viota _ _ _ => true
  | .vperm _ _ _ => true
  | .vrot _ _ _ => true
  | .vslideup _ _ _ => true
  | .vslidedn _ _ _ => true
  | .vcompress _ _ _ => true
  | .vexpand _ _ _ => true
  | .vld _ _ _ => true
  | .vldQ _ _ _ => true
  | .vst _ _ _ => true
  | .vlds _ _ _ => true
  | .vsts _ _ _ => true
  | .vldx _ _ _ => true
  | .vstx _ _ _ => true
  | .vsctadd _ _ _ _ => true
  | .vldSc _ _ _ => true
  | .vstSc _ _ _ => true
  | .vldBndS _ _ _ _ => true
  | .vldBndF _ _ _ _ => true
  | .stripOpen _ _ _ => true
  | .stripClose _ => true
  | .stripLd _ _ => true
  | .stripLdNa _ _ => true
  | .stripSt _ _ => true
  | .stripStNa _ _ => true
  | .qbind _ _ => true
  | .qpushV _ _ => true
  | .qpushS _ _ => true
  | .qpushB _ _ => true
  | .qpopV _ _ => true
  | .qpopS _ _ => true
  | .qpeekV _ _ => true
  | .qpeekS _ _ => true
  | .qbr _ _ => true
  | .vamoAdd _ _ _ _ => true
  | .vamoMin _ _ _ _ => true
  | .vamoMax _ _ _ _ => true
  | .vamoSwap _ _ _ _ => true
  | .vamoCas _ _ _ _ => true
  | .fenceSv _ => true
  | .fenceVs _ => true
  | .fenceVv _ => true
  | .fenceAll _ => true
  | .vwait d _ _ _ => decide (d ≠ 0)
  | .roundAdv _ _ => true
  | .roundRd _ _ => true
  | .tileSet d a => decide (1 ≤ d.toNat ∧ d.toNat ≤ 61 ∧ a.toNat ≤ 61)
  | .mma _ _ _ => true
  | .mmaW _ _ _ => true
  | .mmaZ _ _ _ => true
  | .mmaWz _ _ _ => true
  | .mmaT _ _ _ => true
  | .mmaTW _ _ _ => true
  | .mmaTZ _ _ _ => true
  | .mmaTWz _ _ _ => true
  | .wbLoad _ _ _ => true
  | .wbLoadCb _ _ _ _ => true
  | .cbLoad _ _ _ => true
  | .accZero _ _ => true
  | .accLd _ _ => true
  | .accSt _ _ => true
  | .accRd _ _ _ => true
  | .accRdS _ _ _ => true
  | .cpStart _ a _ => decide (a.toNat ≤ 61)
  | .cp2d _ a _ => decide (a.toNat ≤ 59)
  | .cpGth _ a _ _ => decide (a.toNat ≤ 61)
  | .vxfUvar _ _ _ => true
  | .vxfSvar _ _ _ => true
  | .vxfUnpk _ _ _ => true
  | .vxfEuvar _ _ => true
  | .vxfEsvar _ _ => true
  | .vxfPack _ _ => true
  | .pre _ => true
  | .preN _ => true
  | .preCopy _ cls cd => decide (cls = .p → cd.toNat ≤ 15)
  | .preNCopy _ cls cd => decide (cls = .p → cd.toNat ≤ 15)
  | .fork _ _ => true
  | .forkS _ _ => true
  | .settle _ => true
  | .abandon => true
  | .abandonAll => true
  | .choose _ _ => true
  | .chooseBest _ => true
  | .vid _ _ => true
  | .spawn _ _ _ => true
  | .spawnT _ _ _ => true
  | .leaseReq least pref => decide (least.toNat ≤ 8 ∧ least.toNat ≤ pref.toNat ∧ pref.toNat ≤ 8)
  | .leaseRel => true
  | .leaseRelD => true
  | .taskEnd => true
  | .barCl _ _ => true
  | .ctxSave => true
  | .ctxLoad _ _ => true
  | .collRedAdd _ a => decide (a.toNat ≤ 60)
  | .collRedMin _ a => decide (a.toNat ≤ 60)
  | .collRedMax _ a => decide (a.toNat ≤ 60)
  | .collRedFo _ a => decide (a.toNat ≤ 60)
  | .collBcast _ a => decide (a.toNat ≤ 60)
  | .hFetch _ _ => true
  | .hPost _ _ => true
  | .hFwd _ => true
  | .hStamp _ _ => true
  | .hStampAdv _ _ => true
  | .hDone => true
  | .hAbort _ => true
  | .bmsg _ _ => true
  | .grantWaitApply g => decide (g < 12288)
  | .reshapeComplete g => decide (g < 12288)
  | .commitLand g => decide (g < 12288)
  | .lateResultReady g => decide (g < 12288)
  | .drainComplete g => decide (g < 12288)
  | .arbiterHoldTimeout g => decide (g < 12288)
  | .preemptionNotice g => decide (g < 12288)
  | .gracePeriodExpiry g => decide (g < 12288)
  | .stagingDrainComplete core _ => decide (core < 384)
  | .stripCopyWaitEnd core _ => decide (core < 384)
  | .restoreAtGrant g => decide (g < 12288)
  | .resumedReshaped g => decide (g < 12288)
  | .copyEventTaken g => decide (g < 12288)
  | .copySectorMove core => decide (core < 384)
  | .copyRequestComplete core => decide (core < 384)
  | .promiseMiss core _ => decide (core < 384)
  | .registerFileCorrectedError core lane => decide (core < 384 ∧ lane < 64)
  | .registerFileUncorrectableError core lane _ _ _ => decide (core < 384 ∧ lane < 64)
  | .stateUncorrectableError g => decide (g < 12288)
  | .stripUncorrectableError core _ => decide (core < 384)
  | .queueEntryUncorrectableError core _ _ => decide (core < 384)
  | .scratchpadUncorrectableError _ => true
  | .sliceUncorrectableError die _ _ _ => decide (die ≤ 4)
  | .verticalBusCorrectedError core bus => decide (core < 384 ∧ bus < 64)
  | .assayerRun core => decide (core < 384)
  | .assayerVectorEnd core _ => decide (core < 384)
  | .sliceFill die _ _ _ _ => decide (die < 4)
  | .coherenceInvalidate die _ => decide (die < 4)
  | .messageArrival bar => decide (bar < 192)
  | .invocationStart bar => decide (bar < 192)
  | .handlerTimeLimit bar => decide (bar < 192)
  | .prefetchFill bar => decide (bar < 192)
  | .btimeWindowStart => true
  | .tlbinvComplete => true
  | .wfeWake g => decide (g < 12288)
  | .sleepUntilExpiry g => decide (g < 12288)
  | .vwaitWake g => decide (g < 12288)
  | .vwaitDeadline g => decide (g < 12288)
  | .queueWaitEnd g => decide (g < 12288)
  | .boundedLoadWaitEnd g => decide (g < 12288)
  | .barrierWake g => decide (g < 12288)
  | .rivalPlace core => decide (core < 384)
  | .chooseResume g => decide (g < 12288)
  | .viewReclaim _ => true
  | .selectAndPlace die => decide (die < 4)
  | .stripTaggingComplete g => decide (g < 12288)
  | .queueTailObserved die _ => decide (die < 4)
  | .frameAged die _ => decide (die < 4)
  | .reservePreemptTimeout die => decide (die < 4)
  | .fqheadWrite die _ => decide (die < 4)
  | .fqbaseWrite die _ => decide (die < 4)
  | .fqstatWrite die _ => decide (die < 4)
  | .faultDomainRecovery _ => true
  | .recoveryComplete _ => true
  | .llcFill _ _ _ => true
  | .homeRead _ _ => true
  | .grinderSweep stack _ _ => decide (stack < 4)
  | .grinderRecallComplete stack _ => decide (stack < 4)
  | .roundMirrorsComplete region => decide (region < 1024)
  | .shadowMulticastArrival die region => decide (die < 4 ∧ region < 1024)
  | .touchstoneGrant g => decide (g < 12288)
  | .rcbInstall _ => true
  | .rcbRemove _ => true
  | .rcbRecover _ => true
  | .rgcntWrite region _ => decide (region < 1024)
  | .rgcntLand region => decide (region < 1024)
  | .rgctlWrite region _ => decide (region < 1024)
  | .fwCommit _ => true
  | .fwCommitComplete => true
  | .mgmtstWrite _ => true
  | .skewmapWrite _ _ => true
  | .llcpartWrite n _ => decide (n < 16)
  | .baristaCountersClear bar => decide (bar < 192)
  | .jrnheadWrite _ => true
  | .jrnsizeWrite _ => true
  | .jrnctlWrite _ => true
  | .packageRegisterWrite _ _ => true
  | .moduleReset => true
  | .selfTestComplete => true
  | .firmwareCheckComplete => true
  | .hbmTrainingComplete => true
  | .thermalTrip => true
  | .linkTraining port _ => decide (port < 12)
  | .hostMemoryWrite _ _ _ => true
  | .hostMemoryRead _ => true
  | .cemenTaggedWrite _ => true
  | .cemenTaggedRead _ => true
  | .cemenReadResponse _ => true
  | .cemenAtomic _ => true
  | .cemenHostMessage _ => true
  | .cemenCollectiveFragment _ => true
  | .fabricAck _ => true
  | .completionLost _ => true
  | .collectiveMatch die _ => decide (die < 4)
  | .collectiveComplete die _ => decide (die < 4)
  | .collectiveTimeout die _ => decide (die < 4)
  | .replayApply => true
  | .illegalInstruction _ => true
  | .instructionFetchFault _ => true
  | .forcedSwitchRequest g _ _ => decide (g < 12288)
  | .baristaUncorrectableError bar => decide (bar < 192)
  | .fabricBind _ _ => true
  | .participantLost die _ => decide (die < 4)

end Sys2Proof
end

