-- ==== Sys2Proof/Decode.lean ====
section
/-! DEFINITION. Decoding of instruction words, total, with a name for each way a word is not an instruction (R76), and the
encoder, both written from the word formats of R66 and the minor tables. Every format is the same five fields: bits [31:25],
[24:19], [18:13], [12:7] and [6:0]; an immediate, an offset or a mode is cut from the last of them. -/

namespace Sys2Proof

/-- The five fields of a word (R66). -/
structure Fields where
  major : BitVec 7
  d : BitVec 6
  a : BitVec 6
  b : BitVec 6
  minor : BitVec 7
deriving DecidableEq, Repr

/-- The fields of a word. -/
def unpackWord (w : BitVec 32) : Fields :=
  { major := w.extractLsb' 25 7, d := w.extractLsb' 19 6, a := w.extractLsb' 13 6, b := w.extractLsb' 7 6
    minor := w.extractLsb' 0 7 }

/-- The word of five fields. -/
def packWord (f : Fields) : BitVec 32 := f.major ++ (f.d ++ (f.a ++ (f.b ++ f.minor)))

/-- imm13 of format I (R66). -/
def Fields.imm13 (f : Fields) : BitVec 13 := f.b ++ f.minor
/-- imm19 of formats L and B (R66). -/
def Fields.imm19 (f : Fields) : BitVec 19 := f.a ++ (f.b ++ f.minor)
/-- The mode of format M (R66). -/
def Fields.mode (f : Fields) : BitVec 3 := f.b.extractLsb' 3 3
/-- off10 of format M (R66). -/
def Fields.off10 (f : Fields) : BitVec 10 := f.b.extractLsb' 0 3 ++ f.minor

/-- Format A. -/
def Fields.fmtA (major : BitVec 7) (d a b : BitVec 6) (minor : BitVec 7) : Fields := ⟨major, d, a, b, minor⟩
/-- Format I. -/
def Fields.fmtI (major : BitVec 7) (d a : BitVec 6) (imm : BitVec 13) : Fields :=
  ⟨major, d, a, imm.extractLsb' 7 6, imm.extractLsb' 0 7⟩
/-- Formats L and B: the register of a B word stands where d stands. -/
def Fields.fmtL (major : BitVec 7) (d : BitVec 6) (imm : BitVec 19) : Fields :=
  ⟨major, d, imm.extractLsb' 13 6, imm.extractLsb' 7 6, imm.extractLsb' 0 7⟩
/-- Format M. -/
def Fields.fmtM (major : BitVec 7) (d a : BitVec 6) (mode : BitVec 3) (off : BitVec 10) : Fields :=
  ⟨major, d, a, mode ++ off.extractLsb' 7 3, off.extractLsb' 0 7⟩
/-- Format P (R70): p [24:21], neg [20], cd [19:14], ce [13], class [12:10]. -/
def Fields.fmtP (p : BitVec 4) (neg : BitVec 1) (cd : BitVec 6) (ce : BitVec 1) (cls : BitVec 3) : Fields :=
  ⟨0x7E, p ++ (neg ++ cd.extractLsb' 5 1), cd.extractLsb' 0 5 ++ ce, cls ++ (0 : BitVec 3), 0⟩

/-- Why a word is not an instruction (R76). -/
inductive DecodeError where
  | reservedMajor | reservedMinor | reservedMode | reservedField | badRegister | badScope | badLimit | badFormat
  | badSysReg | badPrefix
deriving DecidableEq, Repr

/-- The scope codes (R75). -/
def Scope.code : Scope → BitVec 3
  | .strand => 0 | .core => 1 | .cluster => 2 | .die => 3 | .package => 4 | .fabric => 5

/-- A 3-bit scope code; 110 and 111 are reserved (R75). -/
def scopeField (c : BitVec 3) : Except DecodeError Scope :=
  match c.toNat with
  | 0 => .ok .strand | 1 => .ok .core | 2 => .ok .cluster | 3 => .ok .die | 4 => .ok .package | 5 => .ok .fabric
  | _ => .error .badScope

/-- The class codes of a prefix (R70). -/
def RClass.code : RClass → BitVec 3
  | .s => 0 | .v => 1 | .p => 2

/-- A class code; 011 to 111 are reserved. -/
def classField (c : BitVec 3) : Except DecodeError RClass :=
  match c.toNat with
  | 0 => .ok .s | 1 => .ok .v | 2 => .ok .p
  | _ => .error .badPrefix

/-- The format codes (R32). -/
def Fmt.code : Fmt → BitVec 6
  | .raw => 0x00 | .fp32 => 0x01 | .fp16 => 0x02 | .bf16 => 0x03 | .e4m3 => 0x04 | .e5m2 => 0x05 | .e3m2 => 0x06
  | .e2m3 => 0x07 | .e2m1 => 0x08 | .mxe4m3 => 0x09 | .mxe2m3 => 0x0A | .mxe2m1 => 0x0B
  | .int32 => 0x10 | .int16 => 0x11 | .int8 => 0x12 | .uint8 => 0x13 | .int4 => 0x14 | .uint4 => 0x15 | .trn2 => 0x16
  | .a48 => 0x18 | .i48 => 0x19

/-- The format of a code; none for a reserved code (R32). -/
def Fmt.ofCode (c : BitVec 6) : Option Fmt :=
  match c.toNat with
  | 0x00 => some .raw | 0x01 => some .fp32 | 0x02 => some .fp16 | 0x03 => some .bf16 | 0x04 => some .e4m3
  | 0x05 => some .e5m2 | 0x06 => some .e3m2 | 0x07 => some .e2m3 | 0x08 => some .e2m1 | 0x09 => some .mxe4m3
  | 0x0A => some .mxe2m3 | 0x0B => some .mxe2m1
  | 0x10 => some .int32 | 0x11 => some .int16 | 0x12 => some .int8 | 0x13 => some .uint8 | 0x14 => some .int4
  | 0x15 => some .uint4 | 0x16 => some .trn2
  | 0x18 => some .a48 | 0x19 => some .i48
  | _ => none

/-- The numbers of the special registers (R21). -/
def SysReg.code : SysReg → BitVec 19
  | .status => 0x000 | .cause => 0x001 | .epc => 0x002 | .edata => 0x003 | .tvec => 0x004 | .pfx => 0x005
  | .vcfg => 0x010 | .vstart => 0x011 | .lease => 0x012 | .lanemap => 0x013
  | .seed => 0x020 | .stripbase => 0x021 | .blend => 0x022 | .view => 0x030 | .inldepth => 0x031 | .peer => 0x032
  | .cycle => 0x040

/-- The special register of a number; the others are reserved (R21). -/
def sysField (n : BitVec 19) : Except DecodeError SysReg :=
  match n.toNat with
  | 0x000 => .ok .status | 0x001 => .ok .cause | 0x002 => .ok .epc | 0x003 => .ok .edata | 0x004 => .ok .tvec
  | 0x005 => .ok .pfx | 0x010 => .ok .vcfg | 0x011 => .ok .vstart | 0x012 => .ok .lease | 0x013 => .ok .lanemap
  | 0x020 => .ok .seed | 0x021 => .ok .stripbase | 0x022 => .ok .blend | 0x030 => .ok .view | 0x031 => .ok .inldepth
  | 0x032 => .ok .peer | 0x040 => .ok .cycle
  | _ => .error .badSysReg

/-- A field that must be 0 (R67). -/
def zero {n : Nat} (x : BitVec n) : Except DecodeError Unit := if x = 0 then .ok () else .error .reservedField

/-- A predicate number: 0 to 15 (R67). -/
def pField (x : BitVec 6) : Except DecodeError PReg := if x.toNat < 16 then .ok (x.setWidth 4) else .error .badRegister
/-- An accumulator tile: 0 to 7. -/
def aField (x : BitVec 6) : Except DecodeError AReg := if x.toNat < 8 then .ok (x.setWidth 3) else .error .badRegister
/-- A queue binding: 0 to 7. -/
def qField (x : BitVec 6) : Except DecodeError QReg := if x.toNat < 8 then .ok (x.setWidth 3) else .error .badRegister
/-- A strip handle: 0 to 15. -/
def hField (x : BitVec 6) : Except DecodeError HReg := if x.toNat < 16 then .ok (x.setWidth 4) else .error .badRegister
/-- A weight slot: 0 to 3 (R250, R255). -/
def wField (x : BitVec 6) : Except DecodeError WSlot := if x.toNat < 4 then .ok (x.setWidth 2) else .error .badRegister
/-- A codebook slot: 0 to 7 (R256). -/
def cField (x : BitVec 6) : Except DecodeError CBook := if x.toNat < 8 then .ok (x.setWidth 3) else .error .badRegister
/-- A format code that R32 assigns; a reserved code is an illegal encoding (R136). -/
def fmtField (x : BitVec 6) : Except DecodeError Fmt :=
  match Fmt.ofCode x with
  | some f => .ok f
  | none => .error .badFormat
/-- The scope code in a[2:0] of `sev`, a[5:3] being 0 (R105). -/
def scopeLow (x : BitVec 6) : Except DecodeError Scope :=
  if x.toNat < 8 then scopeField (x.setWidth 3) else .error .reservedField
/-- The tile format of `acc.zero`: code 0x18 or 0x19 (R258). -/
def accFormat (x : BitVec 6) : Except DecodeError (BitVec 1) :=
  if x = 0x18 then .ok 0 else if x = 0x19 then .ok 1 else .error .badFormat
/-- The operand limits of the instruction's entry (R76). -/
def limit (i : Instr) : Except DecodeError Instr := if i.wf then .ok i else .error .badLimit

/-- Major 0x7E: the prefix (R70, R73): bits [9:0] are 0, class 011 to 111 is reserved, and without a copy cd and class
are 0. -/
def decode7E (f : Fields) : Except DecodeError Instr := do
  zero f.minor
  zero (f.b.extractLsb' 0 3)
  let p : BitVec 4 := f.d.extractLsb' 2 4
  let neg : BitVec 1 := f.d.extractLsb' 1 1
  let cd : BitVec 6 := f.d.extractLsb' 0 1 ++ f.a.extractLsb' 1 5
  if f.a.extractLsb' 0 1 = 0 then do
    zero cd
    zero (f.b.extractLsb' 3 3)
    if neg = 0 then .ok (.pre p) else .ok (.preN p)
  else do
    let cls ← classField (f.b.extractLsb' 3 3)
    if neg = 0 then limit (.preCopy p cls cd) else limit (.preNCopy p cls cd)

/-- Major 0x01: ADD, SUB, MUL, MULH, MULHU, DIV, DIVU, REM, REMU, AND, OR, XOR, ANDN, SLL, SRL, SRA, MIN, MAX, MINU, MAXU, CLZ, POPC,
SEXT_B, SEXT_H, SEXT_W, ZEXT_B, ZEXT_H, ZEXT_W (R90). -/
def decode01 (f : Fields) : Except DecodeError Instr :=
  match f.minor.toNat with
  | 0x00 => .ok (.add f.d f.a f.b)
  | 0x01 => .ok (.sub f.d f.a f.b)
  | 0x02 => .ok (.mul f.d f.a f.b)
  | 0x03 => .ok (.mulh f.d f.a f.b)
  | 0x04 => .ok (.mulhu f.d f.a f.b)
  | 0x05 => .ok (.div f.d f.a f.b)
  | 0x06 => .ok (.divu f.d f.a f.b)
  | 0x07 => .ok (.rem f.d f.a f.b)
  | 0x08 => .ok (.remu f.d f.a f.b)
  | 0x09 => .ok (.and f.d f.a f.b)
  | 0x0A => .ok (.or f.d f.a f.b)
  | 0x0B => .ok (.xor f.d f.a f.b)
  | 0x0C => .ok (.andn f.d f.a f.b)
  | 0x0D => .ok (.sll f.d f.a f.b)
  | 0x0E => .ok (.srl f.d f.a f.b)
  | 0x0F => .ok (.sra f.d f.a f.b)
  | 0x10 => .ok (.min f.d f.a f.b)
  | 0x11 => .ok (.max f.d f.a f.b)
  | 0x12 => .ok (.minu f.d f.a f.b)
  | 0x13 => .ok (.maxu f.d f.a f.b)
  | 0x14 => do
      zero f.b
      .ok (.clz f.d f.a)
  | 0x15 => do
      zero f.b
      .ok (.popc f.d f.a)
  | 0x16 => do
      zero f.b
      .ok (.sextB f.d f.a)
  | 0x17 => do
      zero f.b
      .ok (.sextH f.d f.a)
  | 0x18 => do
      zero f.b
      .ok (.sextW f.d f.a)
  | 0x19 => do
      zero f.b
      .ok (.zextB f.d f.a)
  | 0x1A => do
      zero f.b
      .ok (.zextH f.d f.a)
  | 0x1B => do
      zero f.b
      .ok (.zextW f.d f.a)
  | _ => .error .reservedMinor

/-- Major 0x02: ADDI (R91). -/
def decode02 (f : Fields) : Except DecodeError Instr :=
  .ok (.addi f.d f.a f.imm13)

/-- Major 0x03: ANDI (R91). -/
def decode03 (f : Fields) : Except DecodeError Instr :=
  .ok (.andi f.d f.a f.imm13)

/-- Major 0x04: ORI (R91). -/
def decode04 (f : Fields) : Except DecodeError Instr :=
  .ok (.ori f.d f.a f.imm13)

/-- Major 0x05: XORI (R91). -/
def decode05 (f : Fields) : Except DecodeError Instr :=
  .ok (.xori f.d f.a f.imm13)

/-- Major 0x06: SLLI (R91). -/
def decode06 (f : Fields) : Except DecodeError Instr :=
  limit (.slli f.d f.a f.imm13)

/-- Major 0x07: SRLI (R91). -/
def decode07 (f : Fields) : Except DecodeError Instr :=
  limit (.srli f.d f.a f.imm13)

/-- Major 0x08: SRAI (R91). -/
def decode08 (f : Fields) : Except DecodeError Instr :=
  limit (.srai f.d f.a f.imm13)

/-- Major 0x09: CMP_EQ, CMP_NE, CMP_LT, CMP_GE, CMP_LTU, CMP_GEU (R93). -/
def decode09 (f : Fields) : Except DecodeError Instr :=
  match f.minor.toNat with
  | 0x00 => do
      let d ← pField f.d
      .ok (.cmpEq d f.a f.b)
  | 0x01 => do
      let d ← pField f.d
      .ok (.cmpNe d f.a f.b)
  | 0x02 => do
      let d ← pField f.d
      .ok (.cmpLt d f.a f.b)
  | 0x03 => do
      let d ← pField f.d
      .ok (.cmpGe d f.a f.b)
  | 0x04 => do
      let d ← pField f.d
      .ok (.cmpLtu d f.a f.b)
  | 0x05 => do
      let d ← pField f.d
      .ok (.cmpGeu d f.a f.b)
  | _ => .error .reservedMinor

/-- Major 0x0A: CMPI_EQ (R93). -/
def decode0A (f : Fields) : Except DecodeError Instr :=
  do
    let d ← pField f.d
    .ok (.cmpiEq d f.a f.imm13)

/-- Major 0x0B: CMPI_NE (R93). -/
def decode0B (f : Fields) : Except DecodeError Instr :=
  do
    let d ← pField f.d
    .ok (.cmpiNe d f.a f.imm13)

/-- Major 0x0C: CMPI_LT (R93). -/
def decode0C (f : Fields) : Except DecodeError Instr :=
  do
    let d ← pField f.d
    .ok (.cmpiLt d f.a f.imm13)

/-- Major 0x0D: CMPI_GE (R93). -/
def decode0D (f : Fields) : Except DecodeError Instr :=
  do
    let d ← pField f.d
    .ok (.cmpiGe d f.a f.imm13)

/-- Major 0x0E: PAND, POR, PXOR, PANDN, PNOT, PMOV (R94). -/
def decode0E (f : Fields) : Except DecodeError Instr :=
  match f.minor.toNat with
  | 0x00 => do
      let d ← pField f.d
      let a ← pField f.a
      let b ← pField f.b
      .ok (.pand d a b)
  | 0x01 => do
      let d ← pField f.d
      let a ← pField f.a
      let b ← pField f.b
      .ok (.por d a b)
  | 0x02 => do
      let d ← pField f.d
      let a ← pField f.a
      let b ← pField f.b
      .ok (.pxor d a b)
  | 0x03 => do
      let d ← pField f.d
      let a ← pField f.a
      let b ← pField f.b
      .ok (.pandn d a b)
  | 0x04 => do
      let d ← pField f.d
      let a ← pField f.a
      zero f.b
      .ok (.pnot d a)
  | 0x05 => do
      let d ← pField f.d
      let a ← pField f.a
      zero f.b
      .ok (.pmov d a)
  | _ => .error .reservedMinor

/-- Major 0x0F: MOVI (R92). -/
def decode0F (f : Fields) : Except DecodeError Instr :=
  .ok (.movi f.d f.imm19)

/-- Major 0x10: MOVHI (R92). -/
def decode10 (f : Fields) : Except DecodeError Instr :=
  .ok (.movhi f.d f.imm19)

/-- Major 0x11: ADR (R92). -/
def decode11 (f : Fields) : Except DecodeError Instr :=
  .ok (.adr f.d f.imm19)

/-- Major 0x12: LD_B, LD_B_U (R95). -/
def decode12 (f : Fields) : Except DecodeError Instr :=
  match f.mode.toNat with
  | 0 => .ok (.ldB f.d f.a f.off10)
  | 1 => .ok (.ldBU f.d f.a f.off10)
  | _ => .error .reservedMode

/-- Major 0x13: LD_H, LD_H_U (R95). -/
def decode13 (f : Fields) : Except DecodeError Instr :=
  match f.mode.toNat with
  | 0 => .ok (.ldH f.d f.a f.off10)
  | 1 => .ok (.ldHU f.d f.a f.off10)
  | _ => .error .reservedMode

/-- Major 0x14: LD_W, LD_W_U (R95). -/
def decode14 (f : Fields) : Except DecodeError Instr :=
  match f.mode.toNat with
  | 0 => .ok (.ldW f.d f.a f.off10)
  | 1 => .ok (.ldWU f.d f.a f.off10)
  | _ => .error .reservedMode

/-- Major 0x15: LD_D (R95). -/
def decode15 (f : Fields) : Except DecodeError Instr :=
  match f.mode.toNat with
  | 0 => .ok (.ldD f.d f.a f.off10)
  | _ => .error .reservedMode

/-- Major 0x16: ST_B (R96). -/
def decode16 (f : Fields) : Except DecodeError Instr :=
  match f.mode.toNat with
  | 0 => .ok (.stB f.d f.a f.off10)
  | _ => .error .reservedMode

/-- Major 0x17: ST_H (R96). -/
def decode17 (f : Fields) : Except DecodeError Instr :=
  match f.mode.toNat with
  | 0 => .ok (.stH f.d f.a f.off10)
  | _ => .error .reservedMode

/-- Major 0x18: ST_W (R96). -/
def decode18 (f : Fields) : Except DecodeError Instr :=
  match f.mode.toNat with
  | 0 => .ok (.stW f.d f.a f.off10)
  | _ => .error .reservedMode

/-- Major 0x19: ST_D (R96). -/
def decode19 (f : Fields) : Except DecodeError Instr :=
  match f.mode.toNat with
  | 0 => .ok (.stD f.d f.a f.off10)
  | _ => .error .reservedMode

/-- Major 0x1A: LDE_F32, LDE_I64, LDE_RAW (R98). -/
def decode1A (f : Fields) : Except DecodeError Instr :=
  match f.mode.toNat with
  | 0 => .ok (.ldeF32 f.d f.a f.off10)
  | 1 => .ok (.ldeI64 f.d f.a f.off10)
  | 2 => .ok (.ldeRaw f.d f.a f.off10)
  | _ => .error .reservedMode

/-- Major 0x1B: STE_F32, STE_I64, STE_RAW (R99). -/
def decode1B (f : Fields) : Except DecodeError Instr :=
  match f.mode.toNat with
  | 0 => .ok (.steF32 f.d f.a f.off10)
  | 1 => .ok (.steI64 f.d f.a f.off10)
  | 2 => .ok (.steRaw f.d f.a f.off10)
  | _ => .error .reservedMode

/-- Major 0x1C: LD_ACQ (R158). -/
def decode1C (f : Fields) : Except DecodeError Instr :=
  do
    let scope ← scopeField f.mode
    .ok (.ldAcq f.d f.a scope f.off10)

/-- Major 0x1D: ST_REL (R158). -/
def decode1D (f : Fields) : Except DecodeError Instr :=
  do
    let scope ← scopeField f.mode
    .ok (.stRel f.d f.a scope f.off10)

/-- Major 0x1E: LD_BND_S, LD_BND_F (R165). -/
def decode1E (f : Fields) : Except DecodeError Instr :=
  match f.mode.toNat with
  | 0 => .ok (.ldBndS f.d f.a (f.off10.extractLsb' 6 4) (f.off10.extractLsb' 0 6))
  | 4 => .ok (.ldBndF f.d f.a (f.off10.extractLsb' 6 4) (f.off10.extractLsb' 0 6))
  | _ => .error .reservedMode

/-- Major 0x1F: AMO_ADD, AMO_AND, AMO_OR, AMO_XOR, AMO_MIN, AMO_MAX, AMO_MINU, AMO_MAXU, AMO_SWAP, AMO_CAS (R160). -/
def decode1F (f : Fields) : Except DecodeError Instr :=
  match (f.minor.extractLsb' 0 4).toNat with
  | 0 => do
      let scope ← scopeField (f.minor.extractLsb' 4 3)
      .ok (.amoAdd f.d f.a f.b scope)
  | 1 => do
      let scope ← scopeField (f.minor.extractLsb' 4 3)
      .ok (.amoAnd f.d f.a f.b scope)
  | 2 => do
      let scope ← scopeField (f.minor.extractLsb' 4 3)
      .ok (.amoOr f.d f.a f.b scope)
  | 3 => do
      let scope ← scopeField (f.minor.extractLsb' 4 3)
      .ok (.amoXor f.d f.a f.b scope)
  | 4 => do
      let scope ← scopeField (f.minor.extractLsb' 4 3)
      .ok (.amoMin f.d f.a f.b scope)
  | 5 => do
      let scope ← scopeField (f.minor.extractLsb' 4 3)
      .ok (.amoMax f.d f.a f.b scope)
  | 6 => do
      let scope ← scopeField (f.minor.extractLsb' 4 3)
      .ok (.amoMinu f.d f.a f.b scope)
  | 7 => do
      let scope ← scopeField (f.minor.extractLsb' 4 3)
      .ok (.amoMaxu f.d f.a f.b scope)
  | 8 => do
      let scope ← scopeField (f.minor.extractLsb' 4 3)
      .ok (.amoSwap f.d f.a f.b scope)
  | 9 => do
      let scope ← scopeField (f.minor.extractLsb' 4 3)
      .ok (.amoCas f.d f.a f.b scope)
  | _ => .error .reservedMinor

/-- Major 0x20: BZ (R100). -/
def decode20 (f : Fields) : Except DecodeError Instr :=
  .ok (.bz f.d f.imm19)

/-- Major 0x21: BNZ (R100). -/
def decode21 (f : Fields) : Except DecodeError Instr :=
  .ok (.bnz f.d f.imm19)

/-- Major 0x22: BP (R100). -/
def decode22 (f : Fields) : Except DecodeError Instr :=
  do
    let a ← pField f.d
    .ok (.bp a f.imm19)

/-- Major 0x23: BNP (R100). -/
def decode23 (f : Fields) : Except DecodeError Instr :=
  do
    let a ← pField f.d
    .ok (.bnp a f.imm19)

/-- Major 0x24: CALL (R101). -/
def decode24 (f : Fields) : Except DecodeError Instr :=
  .ok (.call f.d f.imm19)

/-- Major 0x25: JMP (R101). -/
def decode25 (f : Fields) : Except DecodeError Instr :=
  do
    zero f.d
    .ok (.jmp f.imm19)

/-- Major 0x26: CALL_REG, and JMP_REG when the link field is 0 (R101). -/
def decode26 (f : Fields) : Except DecodeError Instr :=
  if f.d = 0 then .ok (.jmpReg f.a f.imm13) else .ok (.callReg f.d f.a f.imm13)

/-- Major 0x27: RET (R101). -/
def decode27 (f : Fields) : Except DecodeError Instr :=
  match f.minor.toNat with
  | 0x00 => do
      zero f.d
      zero f.b
      .ok (.ret f.a)
  | _ => .error .reservedMinor

/-- Major 0x28: LOOPV (R102). -/
def decode28 (f : Fields) : Except DecodeError Instr :=
  limit (.loopv f.d f.imm19)

/-- Major 0x30: NOP, TRAP, BRK, ERET, WFE, SEV, YIELD, MODE_X, MODE_I, ICINV (R105, R106, R107, R108, R109, R110, R112, R113). -/
def decode30 (f : Fields) : Except DecodeError Instr :=
  match f.minor.toNat with
  | 0x00 => do
      zero f.d
      zero f.a
      zero f.b
      .ok (.nop)
  | 0x01 => do
      zero f.d
      zero f.a
      .ok (.trap f.b)
  | 0x02 => do
      zero f.d
      zero f.a
      zero f.b
      .ok (.brk)
  | 0x03 => do
      zero f.d
      zero f.a
      zero f.b
      .ok (.eret)
  | 0x04 => do
      zero f.d
      limit (.wfe f.a f.b)
  | 0x05 => do
      zero f.d
      let scope ← scopeLow f.a
      zero f.b
      limit (.sev scope)
  | 0x06 => do
      zero f.d
      zero f.a
      zero f.b
      .ok (.yield)
  | 0x07 => do
      zero f.d
      zero f.a
      zero f.b
      .ok (.modeX)
  | 0x08 => do
      zero f.d
      zero f.a
      zero f.b
      .ok (.modeI)
  | 0x09 => do
      zero f.d
      zero f.a
      zero f.b
      .ok (.icinv)
  | _ => .error .reservedMinor

/-- Major 0x31: MFS (R114). -/
def decode31 (f : Fields) : Except DecodeError Instr :=
  do
    let reg ← sysField f.imm19
    .ok (.mfs f.d reg)

/-- Major 0x32: MTS (R115). -/
def decode32 (f : Fields) : Except DecodeError Instr :=
  do
    let reg ← sysField f.imm19
    .ok (.mts reg f.d)

/-- Major 0x33: SLEEP_UNTIL (R111). -/
def decode33 (f : Fields) : Except DecodeError Instr :=
  match f.minor.toNat with
  | 0x00 => do
      zero f.d
      zero f.b
      .ok (.sleepUntil f.a)
  | _ => .error .reservedMinor

/-- Major 0x34: BLENDW (R116). -/
def decode34 (f : Fields) : Except DecodeError Instr :=
  match f.minor.toNat with
  | 0x00 => do
      zero f.d
      .ok (.blendw f.a f.b)
  | _ => .error .reservedMinor

/-- Major 0x35: TLBINV (R117). -/
def decode35 (f : Fields) : Except DecodeError Instr :=
  match f.minor.toNat with
  | 0x00 => do
      zero f.d
      .ok (.tlbinv f.a f.b)
  | _ => .error .reservedMinor

/-- Major 0x36: ASID_SET (R118). -/
def decode36 (f : Fields) : Except DecodeError Instr :=
  match f.minor.toNat with
  | 0x00 => do
      zero f.d
      zero f.b
      .ok (.asidSet f.a)
  | _ => .error .reservedMinor

/-- Major 0x38: VCFG (R120). -/
def decode38 (f : Fields) : Except DecodeError Instr :=
  do
    zero f.a
    zero (f.imm13.extractLsb' 5 8)
    limit (.vcfg f.d (f.imm13.extractLsb' 0 2) (f.imm13.extractLsb' 2 2) (f.imm13.extractLsb' 4 1))

/-- Major 0x39: SETVL (R121). -/
def decode39 (f : Fields) : Except DecodeError Instr :=
  match f.minor.toNat with
  | 0x00 => do
      zero f.b
      .ok (.setvl f.d f.a)
  | _ => .error .reservedMinor

/-- Major 0x40: VADD, VSUB, VMUL, VFMA, VFMS, VMIN, VMAX, VABS, VNEG, VDIV (R127). -/
def decode40 (f : Fields) : Except DecodeError Instr :=
  match f.minor.toNat with
  | 0x00 => .ok (.vadd f.d f.a f.b)
  | 0x01 => .ok (.vsub f.d f.a f.b)
  | 0x02 => .ok (.vmul f.d f.a f.b)
  | 0x03 => .ok (.vfma f.d f.a f.b)
  | 0x04 => .ok (.vfms f.d f.a f.b)
  | 0x05 => .ok (.vmin f.d f.a f.b)
  | 0x06 => .ok (.vmax f.d f.a f.b)
  | 0x07 => do
      zero f.b
      .ok (.vabs f.d f.a)
  | 0x08 => do
      zero f.b
      .ok (.vneg f.d f.a)
  | 0x09 => .ok (.vdiv f.d f.a f.b)
  | _ => .error .reservedMinor

/-- Major 0x41: VEXP, VLOG, VRCP, VRSQRT, VTANH, VSIGM, VSIN, VCOS (R130). -/
def decode41 (f : Fields) : Except DecodeError Instr :=
  match f.minor.toNat with
  | 0x00 => do
      zero f.b
      .ok (.vexp f.d f.a)
  | 0x01 => do
      zero f.b
      .ok (.vlog f.d f.a)
  | 0x02 => do
      zero f.b
      .ok (.vrcp f.d f.a)
  | 0x03 => do
      zero f.b
      .ok (.vrsqrt f.d f.a)
  | 0x04 => do
      zero f.b
      .ok (.vtanh f.d f.a)
  | 0x05 => do
      zero f.b
      .ok (.vsigm f.d f.a)
  | 0x06 => do
      zero f.b
      .ok (.vsin f.d f.a)
  | 0x07 => do
      zero f.b
      .ok (.vcos f.d f.a)
  | _ => .error .reservedMinor

/-- Major 0x42: VCMP_EQ, VCMP_NE, VCMP_LT, VCMP_LE, VCMP_GT, VCMP_GE (R132). -/
def decode42 (f : Fields) : Except DecodeError Instr :=
  match f.minor.toNat with
  | 0x00 => do
      let d ← pField f.d
      .ok (.vcmpEq d f.a f.b)
  | 0x01 => do
      let d ← pField f.d
      .ok (.vcmpNe d f.a f.b)
  | 0x02 => do
      let d ← pField f.d
      .ok (.vcmpLt d f.a f.b)
  | 0x03 => do
      let d ← pField f.d
      .ok (.vcmpLe d f.a f.b)
  | 0x04 => do
      let d ← pField f.d
      .ok (.vcmpGt d f.a f.b)
  | 0x05 => do
      let d ← pField f.d
      .ok (.vcmpGe d f.a f.b)
  | _ => .error .reservedMinor

/-- Major 0x43: VSEL (R133). -/
def decode43 (f : Fields) : Except DecodeError Instr :=
  do
    zero (f.minor.extractLsb' 4 3)
    .ok (.vsel f.d f.a f.b (f.minor.extractLsb' 0 4))

/-- Major 0x44: VAND, VOR, VXOR, VANDN, VNOT (R134). -/
def decode44 (f : Fields) : Except DecodeError Instr :=
  match f.minor.toNat with
  | 0x00 => .ok (.vand f.d f.a f.b)
  | 0x01 => .ok (.vor f.d f.a f.b)
  | 0x02 => .ok (.vxor f.d f.a f.b)
  | 0x03 => .ok (.vandn f.d f.a f.b)
  | 0x04 => do
      zero f.b
      .ok (.vnot f.d f.a)
  | _ => .error .reservedMinor

/-- Major 0x45: VSLL, VSRL, VSRA (R135). -/
def decode45 (f : Fields) : Except DecodeError Instr :=
  match f.minor.toNat with
  | 0x00 => .ok (.vsll f.d f.a f.b)
  | 0x01 => .ok (.vsrl f.d f.a f.b)
  | 0x02 => .ok (.vsra f.d f.a f.b)
  | _ => .error .reservedMinor

/-- Major 0x46: VCVT, VCVT_SAT, VCVT_FIT, VRETAG, VSCALE, VTAG, VTAG_RD (R137, R138, R139, R140, R141). -/
def decode46 (f : Fields) : Except DecodeError Instr :=
  match f.minor.toNat with
  | 0x00 => do
      let fmt ← fmtField f.b
      .ok (.vcvt f.d f.a fmt)
  | 0x01 => do
      let fmt ← fmtField f.b
      .ok (.vcvtSat f.d f.a fmt)
  | 0x02 => do
      let fmt ← fmtField f.b
      .ok (.vcvtFit f.d f.a fmt)
  | 0x03 => do
      let fmt ← fmtField f.b
      .ok (.vretag f.d f.a fmt)
  | 0x04 => .ok (.vscale f.d f.a f.b)
  | 0x05 => do
      zero f.b
      .ok (.vtag f.d f.a)
  | 0x06 => do
      zero f.b
      .ok (.vtagRd f.d f.a)
  | _ => .error .reservedMinor

/-- Major 0x47: VBCAST_F32, VBCAST_I64, VBCAST_RAW, VBCAST_EL (R142). -/
def decode47 (f : Fields) : Except DecodeError Instr :=
  match f.minor.toNat with
  | 0x00 => do
      let fmt ← fmtField f.b
      .ok (.vbcastF32 f.d f.a fmt)
  | 0x01 => do
      let fmt ← fmtField f.b
      .ok (.vbcastI64 f.d f.a fmt)
  | 0x02 => do
      let fmt ← fmtField f.b
      .ok (.vbcastRaw f.d f.a fmt)
  | 0x03 => .ok (.vbcastEl f.d f.a f.b)
  | _ => .error .reservedMinor

/-- Major 0x48: VRED_ADD, VRED_MIN, VRED_MAX, VRED_AND, VRED_OR, VRED_XOR, VDOT (R144, R145). -/
def decode48 (f : Fields) : Except DecodeError Instr :=
  match f.minor.toNat with
  | 0x00 => .ok (.vredAdd f.d f.a f.b)
  | 0x01 => .ok (.vredMin f.d f.a f.b)
  | 0x02 => .ok (.vredMax f.d f.a f.b)
  | 0x03 => .ok (.vredAnd f.d f.a f.b)
  | 0x04 => .ok (.vredOr f.d f.a f.b)
  | 0x05 => .ok (.vredXor f.d f.a f.b)
  | 0x06 => .ok (.vdot f.d f.a f.b)
  | _ => .error .reservedMinor

/-- Major 0x49: VIOTA (R169). -/
def decode49 (f : Fields) : Except DecodeError Instr :=
  match f.minor.toNat with
  | 0x00 => do
      let a ← pField f.a
      .ok (.viota f.d a f.b)
  | _ => .error .reservedMinor

/-- Major 0x4A: VPERM, VROT, VSLIDEUP, VSLIDEDN (R170). -/
def decode4A (f : Fields) : Except DecodeError Instr :=
  match f.minor.toNat with
  | 0x00 => .ok (.vperm f.d f.a f.b)
  | 0x01 => .ok (.vrot f.d f.a f.b)
  | 0x02 => .ok (.vslideup f.d f.a f.b)
  | 0x03 => .ok (.vslidedn f.d f.a f.b)
  | _ => .error .reservedMinor

/-- Major 0x4B: VCOMPRESS, VEXPAND (R172). -/
def decode4B (f : Fields) : Except DecodeError Instr :=
  match f.minor.toNat with
  | 0x00 => do
      let b ← pField f.b
      .ok (.vcompress f.d f.a b)
  | 0x01 => do
      let b ← pField f.b
      .ok (.vexpand f.d f.a b)
  | _ => .error .reservedMinor

/-- Major 0x4C: VLD, VLD_Q (R151, R178). -/
def decode4C (f : Fields) : Except DecodeError Instr :=
  match f.mode.toNat with
  | 0 => .ok (.vld f.d f.a f.off10)
  | 1 => do
      let d ← qField f.d
      .ok (.vldQ d f.a f.off10)
  | _ => .error .reservedMode

/-- Major 0x4D: VST (R152). -/
def decode4D (f : Fields) : Except DecodeError Instr :=
  match f.mode.toNat with
  | 0 => .ok (.vst f.d f.a f.off10)
  | _ => .error .reservedMode

/-- Major 0x4E: VLDS (R153). -/
def decode4E (f : Fields) : Except DecodeError Instr :=
  match f.minor.toNat with
  | 0x00 => .ok (.vlds f.d f.a f.b)
  | _ => .error .reservedMinor

/-- Major 0x4F: VSTS (R153). -/
def decode4F (f : Fields) : Except DecodeError Instr :=
  match f.minor.toNat with
  | 0x00 => .ok (.vsts f.d f.a f.b)
  | _ => .error .reservedMinor

/-- Major 0x50: VLDX (R154). -/
def decode50 (f : Fields) : Except DecodeError Instr :=
  match f.minor.toNat with
  | 0x00 => .ok (.vldx f.d f.a f.b)
  | _ => .error .reservedMinor

/-- Major 0x51: VSTX (R154). -/
def decode51 (f : Fields) : Except DecodeError Instr :=
  match f.minor.toNat with
  | 0x00 => .ok (.vstx f.d f.a f.b)
  | _ => .error .reservedMinor

/-- Major 0x52: VSCTADD (R156). -/
def decode52 (f : Fields) : Except DecodeError Instr :=
  do
    zero (f.minor.extractLsb' 3 4)
    let scope ← scopeField (f.minor.extractLsb' 0 3)
    .ok (.vsctadd f.d f.a f.b scope)

/-- Major 0x53: VLD_SC (R157). -/
def decode53 (f : Fields) : Except DecodeError Instr :=
  match f.mode.toNat with
  | 0 => .ok (.vldSc f.d f.a f.off10)
  | _ => .error .reservedMode

/-- Major 0x54: VST_SC (R157). -/
def decode54 (f : Fields) : Except DecodeError Instr :=
  match f.mode.toNat with
  | 0 => .ok (.vstSc f.d f.a f.off10)
  | _ => .error .reservedMode

/-- Major 0x55: VLD_BND_S, VLD_BND_F (R165). -/
def decode55 (f : Fields) : Except DecodeError Instr :=
  match f.mode.toNat with
  | 0 => .ok (.vldBndS f.d f.a (f.off10.extractLsb' 6 4) (f.off10.extractLsb' 0 6))
  | 4 => .ok (.vldBndF f.d f.a (f.off10.extractLsb' 6 4) (f.off10.extractLsb' 0 6))
  | _ => .error .reservedMode

/-- Major 0x56: STRIP_OPEN, STRIP_CLOSE (R174). -/
def decode56 (f : Fields) : Except DecodeError Instr :=
  match f.minor.toNat with
  | 0x00 => do
      let d ← hField f.d
      .ok (.stripOpen d f.a f.b)
  | 0x01 => do
      let d ← hField f.d
      zero f.a
      zero f.b
      .ok (.stripClose d)
  | _ => .error .reservedMinor

/-- Major 0x57: STRIP_LD, STRIP_LD_NA (R175). -/
def decode57 (f : Fields) : Except DecodeError Instr :=
  match f.minor.toNat with
  | 0x00 => do
      let a ← hField f.a
      zero f.b
      .ok (.stripLd f.d a)
  | 0x01 => do
      let a ← hField f.a
      zero f.b
      .ok (.stripLdNa f.d a)
  | _ => .error .reservedMinor

/-- Major 0x58: STRIP_ST, STRIP_ST_NA (R175). -/
def decode58 (f : Fields) : Except DecodeError Instr :=
  match f.minor.toNat with
  | 0x00 => do
      let a ← hField f.a
      zero f.b
      .ok (.stripSt f.d a)
  | 0x01 => do
      let a ← hField f.a
      zero f.b
      .ok (.stripStNa f.d a)
  | _ => .error .reservedMinor

/-- Major 0x59: QBIND (R177). -/
def decode59 (f : Fields) : Except DecodeError Instr :=
  match f.minor.toNat with
  | 0x00 => do
      let d ← qField f.d
      zero f.b
      .ok (.qbind d f.a)
  | _ => .error .reservedMinor

/-- Major 0x5A: QPUSH_V, QPUSH_S, QPUSH_B (R178). -/
def decode5A (f : Fields) : Except DecodeError Instr :=
  match f.minor.toNat with
  | 0x00 => do
      let d ← qField f.d
      zero f.b
      .ok (.qpushV d f.a)
  | 0x01 => do
      let d ← qField f.d
      zero f.b
      .ok (.qpushS d f.a)
  | 0x02 => do
      let d ← qField f.d
      zero f.b
      .ok (.qpushB d f.a)
  | _ => .error .reservedMinor

/-- Major 0x5B: QPOP_V, QPOP_S, QPEEK_V, QPEEK_S (R179). -/
def decode5B (f : Fields) : Except DecodeError Instr :=
  match f.minor.toNat with
  | 0x00 => do
      let a ← qField f.a
      zero f.b
      .ok (.qpopV f.d a)
  | 0x01 => do
      let a ← qField f.a
      zero f.b
      .ok (.qpopS f.d a)
  | 0x02 => do
      let a ← qField f.a
      zero f.b
      .ok (.qpeekV f.d a)
  | 0x03 => do
      let a ← qField f.a
      zero f.b
      .ok (.qpeekS f.d a)
  | _ => .error .reservedMinor

/-- Major 0x5C: QBR (R180). -/
def decode5C (f : Fields) : Except DecodeError Instr :=
  do
    let a ← qField f.d
    .ok (.qbr a f.imm19)

/-- Major 0x5D: VAMO_ADD, VAMO_MIN, VAMO_MAX, VAMO_SWAP, VAMO_CAS (R161). -/
def decode5D (f : Fields) : Except DecodeError Instr :=
  match (f.minor.extractLsb' 0 4).toNat with
  | 0 => do
      let scope ← scopeField (f.minor.extractLsb' 4 3)
      .ok (.vamoAdd f.d f.a f.b scope)
  | 1 => do
      let scope ← scopeField (f.minor.extractLsb' 4 3)
      .ok (.vamoMin f.d f.a f.b scope)
  | 2 => do
      let scope ← scopeField (f.minor.extractLsb' 4 3)
      .ok (.vamoMax f.d f.a f.b scope)
  | 3 => do
      let scope ← scopeField (f.minor.extractLsb' 4 3)
      .ok (.vamoSwap f.d f.a f.b scope)
  | 4 => do
      let scope ← scopeField (f.minor.extractLsb' 4 3)
      .ok (.vamoCas f.d f.a f.b scope)
  | _ => .error .reservedMinor

/-- Major 0x5E: FENCE_SV, FENCE_VS, FENCE_VV, FENCE_ALL (R193). -/
def decode5E (f : Fields) : Except DecodeError Instr :=
  match (f.minor.extractLsb' 0 2).toNat with
  | 0 => do
      zero f.d
      zero f.a
      zero f.b
      zero (f.minor.extractLsb' 5 2)
      let scope ← scopeField (f.minor.extractLsb' 2 3)
      .ok (.fenceSv scope)
  | 1 => do
      zero f.d
      zero f.a
      zero f.b
      zero (f.minor.extractLsb' 5 2)
      let scope ← scopeField (f.minor.extractLsb' 2 3)
      .ok (.fenceVs scope)
  | 2 => do
      zero f.d
      zero f.a
      zero f.b
      zero (f.minor.extractLsb' 5 2)
      let scope ← scopeField (f.minor.extractLsb' 2 3)
      .ok (.fenceVv scope)
  | _ => do
      zero f.d
      zero f.a
      zero f.b
      zero (f.minor.extractLsb' 5 2)
      let scope ← scopeField (f.minor.extractLsb' 2 3)
      .ok (.fenceAll scope)

/-- Major 0x5F: VWAIT (R162). -/
def decode5F (f : Fields) : Except DecodeError Instr :=
  do
    let d ← pField f.d
    zero (f.minor.extractLsb' 3 4)
    let scope ← scopeField (f.minor.extractLsb' 0 3)
    limit (.vwait d f.a f.b scope)

/-- Major 0x60: ROUND_ADV (R164). -/
def decode60 (f : Fields) : Except DecodeError Instr :=
  match f.minor.toNat with
  | 0x00 => do
      zero f.b
      .ok (.roundAdv f.d f.a)
  | _ => .error .reservedMinor

/-- Major 0x61: ROUND_RD (R164). -/
def decode61 (f : Fields) : Except DecodeError Instr :=
  match f.minor.toNat with
  | 0x00 => do
      zero f.b
      .ok (.roundRd f.d f.a)
  | _ => .error .reservedMinor

/-- Major 0x62: TILE_SET (R249). -/
def decode62 (f : Fields) : Except DecodeError Instr :=
  match f.minor.toNat with
  | 0x00 => do
      zero f.b
      limit (.tileSet f.d f.a)
  | _ => .error .reservedMinor

/-- Major 0x63: MMA, MMA_W, MMA_Z, MMA_WZ (R252). -/
def decode63 (f : Fields) : Except DecodeError Instr :=
  match f.minor.toNat with
  | 0x00 => do
      let d ← aField f.d
      .ok (.mma d f.a f.b)
  | 0x01 => do
      let d ← aField f.d
      let slot ← wField f.b
      .ok (.mmaW d f.a slot)
  | 0x02 => do
      let d ← aField f.d
      .ok (.mmaZ d f.a f.b)
  | 0x03 => do
      let d ← aField f.d
      let slot ← wField f.b
      .ok (.mmaWz d f.a slot)
  | _ => .error .reservedMinor

/-- Major 0x64: MMA_T, MMA_T_W, MMA_T_Z, MMA_T_WZ (R253). -/
def decode64 (f : Fields) : Except DecodeError Instr :=
  match f.minor.toNat with
  | 0x00 => do
      let d ← aField f.d
      .ok (.mmaT d f.a f.b)
  | 0x01 => do
      let d ← aField f.d
      let slot ← wField f.b
      .ok (.mmaTW d f.a slot)
  | 0x02 => do
      let d ← aField f.d
      .ok (.mmaTZ d f.a f.b)
  | 0x03 => do
      let d ← aField f.d
      let slot ← wField f.b
      .ok (.mmaTWz d f.a slot)
  | _ => .error .reservedMinor

/-- Major 0x65: WB_LOAD and WB_LOAD_CB (R255); minor[3] selects the indexed form, minor[2:0] its codebook slot. -/
def decode65 (f : Fields) : Except DecodeError Instr := do
  zero (f.minor.extractLsb' 4 3)
  let slot ← wField f.d
  if f.minor.extractLsb' 3 1 = 1 then .ok (.wbLoadCb slot f.a f.b (f.minor.extractLsb' 0 3)) else do
    zero (f.minor.extractLsb' 0 3)
    .ok (.wbLoad slot f.a f.b)

/-- Major 0x66: CB_LOAD (R256). -/
def decode66 (f : Fields) : Except DecodeError Instr :=
  match f.minor.toNat with
  | 0x00 => do
      let cb ← cField f.d
      .ok (.cbLoad cb f.a f.b)
  | _ => .error .reservedMinor

/-- Major 0x67: ACC_ZERO, ACC_LD, ACC_ST (R258). -/
def decode67 (f : Fields) : Except DecodeError Instr :=
  match f.minor.toNat with
  | 0x00 => do
      let d ← aField f.d
      zero f.a
      let i48 ← accFormat f.b
      .ok (.accZero d i48)
  | 0x01 => do
      let d ← aField f.d
      zero f.b
      .ok (.accLd d f.a)
  | 0x02 => do
      let d ← aField f.d
      zero f.b
      .ok (.accSt d f.a)
  | _ => .error .reservedMinor

/-- Major 0x68: ACC_RD, ACC_RD_S (R259). -/
def decode68 (f : Fields) : Except DecodeError Instr :=
  match f.minor.toNat with
  | 0x00 => do
      let a ← aField f.a
      .ok (.accRd f.d a f.b)
  | 0x01 => do
      let a ← aField f.a
      .ok (.accRdS f.d a f.b)
  | _ => .error .reservedMinor

/-- Major 0x69: CP_START (R261). -/
def decode69 (f : Fields) : Except DecodeError Instr :=
  do
    zero f.b
    zero (f.minor.extractLsb' 2 5)
    limit (.cpStart f.d f.a (f.minor.extractLsb' 0 2))

/-- Major 0x6A: CP_2D (R261). -/
def decode6A (f : Fields) : Except DecodeError Instr :=
  do
    zero f.b
    zero (f.minor.extractLsb' 2 5)
    limit (.cp2d f.d f.a (f.minor.extractLsb' 0 2))

/-- Major 0x6B: CP_GTH (R262). -/
def decode6B (f : Fields) : Except DecodeError Instr :=
  do
    zero (f.minor.extractLsb' 2 5)
    limit (.cpGth f.d f.a f.b (f.minor.extractLsb' 0 2))

/-- Major 0x6C: VXF_UVAR, VXF_SVAR, VXF_UNPK, VXF_EUVAR, VXF_ESVAR, VXF_PACK (R272). -/
def decode6C (f : Fields) : Except DecodeError Instr :=
  match f.minor.toNat with
  | 0x00 => do
      let a ← hField f.a
      let fmt ← fmtField f.b
      .ok (.vxfUvar f.d a fmt)
  | 0x01 => do
      let a ← hField f.a
      let fmt ← fmtField f.b
      .ok (.vxfSvar f.d a fmt)
  | 0x02 => do
      let a ← hField f.a
      let fmt ← fmtField f.b
      .ok (.vxfUnpk f.d a fmt)
  | 0x03 => do
      let a ← hField f.a
      zero f.b
      .ok (.vxfEuvar f.d a)
  | 0x04 => do
      let a ← hField f.a
      zero f.b
      .ok (.vxfEsvar f.d a)
  | 0x05 => do
      let a ← hField f.a
      zero f.b
      .ok (.vxfPack f.d a)
  | _ => .error .reservedMinor

/-- Major 0x6D: FORK, FORK_S, SETTLE, ABANDON, ABANDON_ALL, CHOOSE, CHOOSE_BEST, VID (R207, R209, R210, R211, R212). -/
noncomputable def decode6D (f : Fields) : Except DecodeError Instr :=
  match f.minor.toNat with
  | 0x00 => do
      zero f.b
      .ok (.fork f.d f.a)
  | 0x01 => do
      zero f.b
      .ok (.forkS f.d f.a)
  | 0x02 => do
      zero f.d
      zero f.b
      .ok (.settle f.a)
  | 0x03 => do
      zero f.d
      zero f.a
      zero f.b
      .ok (.abandon)
  | 0x04 => do
      zero f.d
      zero f.a
      zero f.b
      .ok (.abandonAll)
  | 0x05 => do
      zero f.b
      .ok (.choose f.d f.a)
  | 0x06 => do
      zero f.a
      zero f.b
      .ok (.chooseBest f.d)
  | 0x07 => do
      zero f.b
      .ok (.vid f.d f.a)
  | _ => .error .reservedMinor

/-- Major 0x6E: SPAWN, SPAWN_T, LEASE_REQ, LEASE_REL, LEASE_REL_D, TASK_END, BAR_CL (R308, R310, R312, R313, R314). -/
noncomputable def decode6E (f : Fields) : Except DecodeError Instr :=
  match f.minor.toNat with
  | 0x00 => .ok (.spawn f.d f.a f.b)
  | 0x01 => .ok (.spawnT f.d f.a f.b)
  | 0x02 => do
      zero f.d
      limit (.leaseReq f.a f.b)
  | 0x03 => do
      zero f.d
      zero f.a
      zero f.b
      .ok (.leaseRel)
  | 0x04 => do
      zero f.d
      zero f.a
      zero f.b
      .ok (.leaseRelD)
  | 0x05 => do
      zero f.d
      zero f.a
      zero f.b
      .ok (.taskEnd)
  | 0x06 => do
      zero f.d
      .ok (.barCl f.a f.b)
  | _ => .error .reservedMinor

/-- Major 0x6F: CTX_SAVE, CTX_LOAD (R290, R291). -/
noncomputable def decode6F (f : Fields) : Except DecodeError Instr :=
  match f.minor.toNat with
  | 0x00 => do
      zero f.d
      zero f.a
      zero f.b
      .ok (.ctxSave)
  | 0x01 => do
      zero f.b
      .ok (.ctxLoad f.d f.a)
  | _ => .error .reservedMinor

/-- Major 0x70: COLL_RED_ADD, COLL_RED_MIN, COLL_RED_MAX, COLL_RED_FO, COLL_BCAST (R400). -/
noncomputable def decode70 (f : Fields) : Except DecodeError Instr :=
  match f.minor.toNat with
  | 0x00 => do
      zero f.b
      limit (.collRedAdd f.d f.a)
  | 0x01 => do
      zero f.b
      limit (.collRedMin f.d f.a)
  | 0x02 => do
      zero f.b
      limit (.collRedMax f.d f.a)
  | 0x03 => do
      zero f.b
      limit (.collRedFo f.d f.a)
  | 0x04 => do
      zero f.b
      limit (.collBcast f.d f.a)
  | _ => .error .reservedMinor

/-- Major 0x71: H_FETCH, H_POST, H_FWD, H_STAMP, H_STAMP_ADV, H_DONE, H_ABORT (R332, R333, R334, R335). -/
noncomputable def decode71 (f : Fields) : Except DecodeError Instr :=
  match f.minor.toNat with
  | 0x00 => do
      zero f.d
      .ok (.hFetch f.a f.b)
  | 0x01 => do
      zero f.d
      .ok (.hPost f.a f.b)
  | 0x02 => do
      zero f.d
      zero f.b
      .ok (.hFwd f.a)
  | 0x03 => do
      zero f.b
      .ok (.hStamp f.d f.a)
  | 0x04 => do
      zero f.b
      .ok (.hStampAdv f.d f.a)
  | 0x05 => do
      zero f.d
      zero f.a
      zero f.b
      .ok (.hDone)
  | 0x06 => do
      zero f.d
      zero f.b
      .ok (.hAbort f.a)
  | _ => .error .reservedMinor

/-- Major 0x72: BMSG (R340). -/
noncomputable def decode72 (f : Fields) : Except DecodeError Instr :=
  match f.minor.toNat with
  | 0x00 => do
      zero f.d
      .ok (.bmsg f.a f.b)
  | _ => .error .reservedMinor

/-- The map of major opcodes (R79) without 0x6D to 0x72, the majors that no replay body may hold (R81); every major without
an arm is reserved. -/
def decodeLow (f : Fields) : Except DecodeError Instr :=
  match f.major.toNat with
  | 0x01 => decode01 f
  | 0x02 => decode02 f
  | 0x03 => decode03 f
  | 0x04 => decode04 f
  | 0x05 => decode05 f
  | 0x06 => decode06 f
  | 0x07 => decode07 f
  | 0x08 => decode08 f
  | 0x09 => decode09 f
  | 0x0A => decode0A f
  | 0x0B => decode0B f
  | 0x0C => decode0C f
  | 0x0D => decode0D f
  | 0x0E => decode0E f
  | 0x0F => decode0F f
  | 0x10 => decode10 f
  | 0x11 => decode11 f
  | 0x12 => decode12 f
  | 0x13 => decode13 f
  | 0x14 => decode14 f
  | 0x15 => decode15 f
  | 0x16 => decode16 f
  | 0x17 => decode17 f
  | 0x18 => decode18 f
  | 0x19 => decode19 f
  | 0x1A => decode1A f
  | 0x1B => decode1B f
  | 0x1C => decode1C f
  | 0x1D => decode1D f
  | 0x1E => decode1E f
  | 0x1F => decode1F f
  | 0x20 => decode20 f
  | 0x21 => decode21 f
  | 0x22 => decode22 f
  | 0x23 => decode23 f
  | 0x24 => decode24 f
  | 0x25 => decode25 f
  | 0x26 => decode26 f
  | 0x27 => decode27 f
  | 0x28 => decode28 f
  | 0x30 => decode30 f
  | 0x31 => decode31 f
  | 0x32 => decode32 f
  | 0x33 => decode33 f
  | 0x34 => decode34 f
  | 0x35 => decode35 f
  | 0x36 => decode36 f
  | 0x38 => decode38 f
  | 0x39 => decode39 f
  | 0x40 => decode40 f
  | 0x41 => decode41 f
  | 0x42 => decode42 f
  | 0x43 => decode43 f
  | 0x44 => decode44 f
  | 0x45 => decode45 f
  | 0x46 => decode46 f
  | 0x47 => decode47 f
  | 0x48 => decode48 f
  | 0x49 => decode49 f
  | 0x4A => decode4A f
  | 0x4B => decode4B f
  | 0x4C => decode4C f
  | 0x4D => decode4D f
  | 0x4E => decode4E f
  | 0x4F => decode4F f
  | 0x50 => decode50 f
  | 0x51 => decode51 f
  | 0x52 => decode52 f
  | 0x53 => decode53 f
  | 0x54 => decode54 f
  | 0x55 => decode55 f
  | 0x56 => decode56 f
  | 0x57 => decode57 f
  | 0x58 => decode58 f
  | 0x59 => decode59 f
  | 0x5A => decode5A f
  | 0x5B => decode5B f
  | 0x5C => decode5C f
  | 0x5D => decode5D f
  | 0x5E => decode5E f
  | 0x5F => decode5F f
  | 0x60 => decode60 f
  | 0x61 => decode61 f
  | 0x62 => decode62 f
  | 0x63 => decode63 f
  | 0x64 => decode64 f
  | 0x65 => decode65 f
  | 0x66 => decode66 f
  | 0x67 => decode67 f
  | 0x68 => decode68 f
  | 0x69 => decode69 f
  | 0x6A => decode6A f
  | 0x6B => decode6B f
  | 0x6C => decode6C f
  | 0x7E => decode7E f
  | _ => .error .reservedMajor

/-- The map of major opcodes (R79). `noncomputable` here and below is for Lean's code generator alone, which has no more than
245 constructors with fields in a type: the kernel evaluates these definitions.
DEDUCED (unsafe, log 65). -/
noncomputable def decodeFields (f : Fields) : Except DecodeError Instr :=
  match f.major.toNat with
  | 0x6D => decode6D f
  | 0x6E => decode6E f
  | 0x6F => decode6F f
  | 0x70 => decode70 f
  | 0x71 => decode71 f
  | 0x72 => decode72 f
  | _ => decodeLow f

/-- A word decoded (R66): its instruction, or why it is none (R76). -/
noncomputable def decodeWord (w : BitVec 32) : Except DecodeError Instr := decodeFields (unpackWord w)

/-- Four bytes in the order memory holds them, the least significant first (R5, R66). -/
def wordOfBytes (b0 b1 b2 b3 : Byte) : BitVec 32 := b3 ++ (b2 ++ (b1 ++ b0))

/-- The bytes of a word, lowest address first (R5). -/
def bytesOfWord (w : BitVec 32) : List Byte :=
  [w.extractLsb' 0 8, w.extractLsb' 8 8, w.extractLsb' 16 8, w.extractLsb' 24 8]

/-- The first instruction of a string of bytes, and the bytes after it. -/
noncomputable def decodeBytes : List Byte → Except DecodeError (Instr × List Byte)
  | b0 :: b1 :: b2 :: b3 :: l => do
    let i ← decodeWord (wordOfBytes b0 b1 b2 b3)
    .ok (i, l)
  | _ => .error .reservedMajor

/-- The instruction the decoder reads from a word numbered as spec/opcode_table.json numbers it: one little-endian word, so
its first byte is bits 7..0. A row without bits (a device event) has no word.
DESIGN CHOICE (safe, log 12). -/
noncomputable def decodeTableWord (nbits w : Nat) : Option Instr :=
  if nbits = 0 then none else
  match decodeBytes (bytesOfWord (BitVec.ofNat 32 w)) with
  | .ok (i, _) => some i
  | .error _ => none

/-- The fields of an instruction's word; none for a device event. -/
def encodeFields (i : Instr) : Option Fields :=
  match i with
  | .add d a b => some (Fields.fmtA 0x01 (d) (a) (b) (0x00))
  | .sub d a b => some (Fields.fmtA 0x01 (d) (a) (b) (0x01))
  | .mul d a b => some (Fields.fmtA 0x01 (d) (a) (b) (0x02))
  | .mulh d a b => some (Fields.fmtA 0x01 (d) (a) (b) (0x03))
  | .mulhu d a b => some (Fields.fmtA 0x01 (d) (a) (b) (0x04))
  | .div d a b => some (Fields.fmtA 0x01 (d) (a) (b) (0x05))
  | .divu d a b => some (Fields.fmtA 0x01 (d) (a) (b) (0x06))
  | .rem d a b => some (Fields.fmtA 0x01 (d) (a) (b) (0x07))
  | .remu d a b => some (Fields.fmtA 0x01 (d) (a) (b) (0x08))
  | .and d a b => some (Fields.fmtA 0x01 (d) (a) (b) (0x09))
  | .or d a b => some (Fields.fmtA 0x01 (d) (a) (b) (0x0A))
  | .xor d a b => some (Fields.fmtA 0x01 (d) (a) (b) (0x0B))
  | .andn d a b => some (Fields.fmtA 0x01 (d) (a) (b) (0x0C))
  | .sll d a b => some (Fields.fmtA 0x01 (d) (a) (b) (0x0D))
  | .srl d a b => some (Fields.fmtA 0x01 (d) (a) (b) (0x0E))
  | .sra d a b => some (Fields.fmtA 0x01 (d) (a) (b) (0x0F))
  | .min d a b => some (Fields.fmtA 0x01 (d) (a) (b) (0x10))
  | .max d a b => some (Fields.fmtA 0x01 (d) (a) (b) (0x11))
  | .minu d a b => some (Fields.fmtA 0x01 (d) (a) (b) (0x12))
  | .maxu d a b => some (Fields.fmtA 0x01 (d) (a) (b) (0x13))
  | .clz d a => some (Fields.fmtA 0x01 (d) (a) 0 (0x14))
  | .popc d a => some (Fields.fmtA 0x01 (d) (a) 0 (0x15))
  | .sextB d a => some (Fields.fmtA 0x01 (d) (a) 0 (0x16))
  | .sextH d a => some (Fields.fmtA 0x01 (d) (a) 0 (0x17))
  | .sextW d a => some (Fields.fmtA 0x01 (d) (a) 0 (0x18))
  | .zextB d a => some (Fields.fmtA 0x01 (d) (a) 0 (0x19))
  | .zextH d a => some (Fields.fmtA 0x01 (d) (a) 0 (0x1A))
  | .zextW d a => some (Fields.fmtA 0x01 (d) (a) 0 (0x1B))
  | .addi d a imm => some (Fields.fmtI 0x02 (d) (a) imm)
  | .andi d a imm => some (Fields.fmtI 0x03 (d) (a) imm)
  | .ori d a imm => some (Fields.fmtI 0x04 (d) (a) imm)
  | .xori d a imm => some (Fields.fmtI 0x05 (d) (a) imm)
  | .slli d a imm => some (Fields.fmtI 0x06 (d) (a) imm)
  | .srli d a imm => some (Fields.fmtI 0x07 (d) (a) imm)
  | .srai d a imm => some (Fields.fmtI 0x08 (d) (a) imm)
  | .cmpEq d a b => some (Fields.fmtA 0x09 (d.setWidth 6) (a) (b) (0x00))
  | .cmpNe d a b => some (Fields.fmtA 0x09 (d.setWidth 6) (a) (b) (0x01))
  | .cmpLt d a b => some (Fields.fmtA 0x09 (d.setWidth 6) (a) (b) (0x02))
  | .cmpGe d a b => some (Fields.fmtA 0x09 (d.setWidth 6) (a) (b) (0x03))
  | .cmpLtu d a b => some (Fields.fmtA 0x09 (d.setWidth 6) (a) (b) (0x04))
  | .cmpGeu d a b => some (Fields.fmtA 0x09 (d.setWidth 6) (a) (b) (0x05))
  | .cmpiEq d a imm => some (Fields.fmtI 0x0A (d.setWidth 6) (a) imm)
  | .cmpiNe d a imm => some (Fields.fmtI 0x0B (d.setWidth 6) (a) imm)
  | .cmpiLt d a imm => some (Fields.fmtI 0x0C (d.setWidth 6) (a) imm)
  | .cmpiGe d a imm => some (Fields.fmtI 0x0D (d.setWidth 6) (a) imm)
  | .pand d a b => some (Fields.fmtA 0x0E (d.setWidth 6) (a.setWidth 6) (b.setWidth 6) (0x00))
  | .por d a b => some (Fields.fmtA 0x0E (d.setWidth 6) (a.setWidth 6) (b.setWidth 6) (0x01))
  | .pxor d a b => some (Fields.fmtA 0x0E (d.setWidth 6) (a.setWidth 6) (b.setWidth 6) (0x02))
  | .pandn d a b => some (Fields.fmtA 0x0E (d.setWidth 6) (a.setWidth 6) (b.setWidth 6) (0x03))
  | .pnot d a => some (Fields.fmtA 0x0E (d.setWidth 6) (a.setWidth 6) 0 (0x04))
  | .pmov d a => some (Fields.fmtA 0x0E (d.setWidth 6) (a.setWidth 6) 0 (0x05))
  | .movi d imm => some (Fields.fmtL 0x0F (d) imm)
  | .movhi d imm => some (Fields.fmtL 0x10 (d) imm)
  | .adr d imm => some (Fields.fmtL 0x11 (d) imm)
  | .ldB d base off => some (Fields.fmtM 0x12 (d) (base) 0 off)
  | .ldBU d base off => some (Fields.fmtM 0x12 (d) (base) 1 off)
  | .ldH d base off => some (Fields.fmtM 0x13 (d) (base) 0 off)
  | .ldHU d base off => some (Fields.fmtM 0x13 (d) (base) 1 off)
  | .ldW d base off => some (Fields.fmtM 0x14 (d) (base) 0 off)
  | .ldWU d base off => some (Fields.fmtM 0x14 (d) (base) 1 off)
  | .ldD d base off => some (Fields.fmtM 0x15 (d) (base) 0 off)
  | .stB d base off => some (Fields.fmtM 0x16 (d) (base) 0 off)
  | .stH d base off => some (Fields.fmtM 0x17 (d) (base) 0 off)
  | .stW d base off => some (Fields.fmtM 0x18 (d) (base) 0 off)
  | .stD d base off => some (Fields.fmtM 0x19 (d) (base) 0 off)
  | .ldeF32 d base off => some (Fields.fmtM 0x1A (d) (base) 0 off)
  | .ldeI64 d base off => some (Fields.fmtM 0x1A (d) (base) 1 off)
  | .ldeRaw d base off => some (Fields.fmtM 0x1A (d) (base) 2 off)
  | .steF32 d base off => some (Fields.fmtM 0x1B (d) (base) 0 off)
  | .steI64 d base off => some (Fields.fmtM 0x1B (d) (base) 1 off)
  | .steRaw d base off => some (Fields.fmtM 0x1B (d) (base) 2 off)
  | .ldAcq d base scope off => some (Fields.fmtM 0x1C (d) (base) scope.code off)
  | .stRel d base scope off => some (Fields.fmtM 0x1D (d) (base) scope.code off)
  | .ldBndS d base bound t => some (Fields.fmtM 0x1E (d) (base) 0 (bound ++ t))
  | .ldBndF d base bound t => some (Fields.fmtM 0x1E (d) (base) 4 (bound ++ t))
  | .amoAdd d a b scope => some (Fields.fmtA 0x1F (d) (a) (b) (scope.code ++ (0x0 : BitVec 4)))
  | .amoAnd d a b scope => some (Fields.fmtA 0x1F (d) (a) (b) (scope.code ++ (0x1 : BitVec 4)))
  | .amoOr d a b scope => some (Fields.fmtA 0x1F (d) (a) (b) (scope.code ++ (0x2 : BitVec 4)))
  | .amoXor d a b scope => some (Fields.fmtA 0x1F (d) (a) (b) (scope.code ++ (0x3 : BitVec 4)))
  | .amoMin d a b scope => some (Fields.fmtA 0x1F (d) (a) (b) (scope.code ++ (0x4 : BitVec 4)))
  | .amoMax d a b scope => some (Fields.fmtA 0x1F (d) (a) (b) (scope.code ++ (0x5 : BitVec 4)))
  | .amoMinu d a b scope => some (Fields.fmtA 0x1F (d) (a) (b) (scope.code ++ (0x6 : BitVec 4)))
  | .amoMaxu d a b scope => some (Fields.fmtA 0x1F (d) (a) (b) (scope.code ++ (0x7 : BitVec 4)))
  | .amoSwap d a b scope => some (Fields.fmtA 0x1F (d) (a) (b) (scope.code ++ (0x8 : BitVec 4)))
  | .amoCas d a b scope => some (Fields.fmtA 0x1F (d) (a) (b) (scope.code ++ (0x9 : BitVec 4)))
  | .bz a off => some (Fields.fmtL 0x20 (a) off)
  | .bnz a off => some (Fields.fmtL 0x21 (a) off)
  | .bp a off => some (Fields.fmtL 0x22 (a.setWidth 6) off)
  | .bnp a off => some (Fields.fmtL 0x23 (a.setWidth 6) off)
  | .call d imm => some (Fields.fmtL 0x24 (d) imm)
  | .jmp imm => some (Fields.fmtL 0x25 0 imm)
  | .callReg d a imm => some (Fields.fmtI 0x26 (d) (a) imm)
  | .jmpReg a imm => some (Fields.fmtI 0x26 0 (a) imm)
  | .ret a => some (Fields.fmtA 0x27 0 (a) 0 (0x00))
  | .loopv a len => some (Fields.fmtL 0x28 (a) len)
  | .nop => some (Fields.fmtA 0x30 0 0 0 (0x00))
  | .trap code => some (Fields.fmtA 0x30 0 0 (code) (0x01))
  | .brk => some (Fields.fmtA 0x30 0 0 0 (0x02))
  | .eret => some (Fields.fmtA 0x30 0 0 0 (0x03))
  | .wfe a b => some (Fields.fmtA 0x30 0 (a) (b) (0x04))
  | .sev scope => some (Fields.fmtA 0x30 0 (scope.code.setWidth 6) 0 (0x05))
  | .yield => some (Fields.fmtA 0x30 0 0 0 (0x06))
  | .modeX => some (Fields.fmtA 0x30 0 0 0 (0x07))
  | .modeI => some (Fields.fmtA 0x30 0 0 0 (0x08))
  | .icinv => some (Fields.fmtA 0x30 0 0 0 (0x09))
  | .mfs d reg => some (Fields.fmtL 0x31 (d) reg.code)
  | .mts reg src => some (Fields.fmtL 0x32 (src) reg.code)
  | .sleepUntil a => some (Fields.fmtA 0x33 0 (a) 0 (0x00))
  | .blendw a b => some (Fields.fmtA 0x34 0 (a) (b) (0x00))
  | .tlbinv a b => some (Fields.fmtA 0x35 0 (a) (b) (0x00))
  | .asidSet a => some (Fields.fmtA 0x36 0 (a) 0 (0x00))
  | .vcfg d nreg wmax mz => some (Fields.fmtI 0x38 (d) 0 ((0 : BitVec 8) ++ (mz ++ (wmax ++ nreg))))
  | .setvl d a => some (Fields.fmtA 0x39 (d) (a) 0 (0x00))
  | .vadd d a b => some (Fields.fmtA 0x40 (d) (a) (b) (0x00))
  | .vsub d a b => some (Fields.fmtA 0x40 (d) (a) (b) (0x01))
  | .vmul d a b => some (Fields.fmtA 0x40 (d) (a) (b) (0x02))
  | .vfma d a b => some (Fields.fmtA 0x40 (d) (a) (b) (0x03))
  | .vfms d a b => some (Fields.fmtA 0x40 (d) (a) (b) (0x04))
  | .vmin d a b => some (Fields.fmtA 0x40 (d) (a) (b) (0x05))
  | .vmax d a b => some (Fields.fmtA 0x40 (d) (a) (b) (0x06))
  | .vabs d a => some (Fields.fmtA 0x40 (d) (a) 0 (0x07))
  | .vneg d a => some (Fields.fmtA 0x40 (d) (a) 0 (0x08))
  | .vdiv d a b => some (Fields.fmtA 0x40 (d) (a) (b) (0x09))
  | .vexp d a => some (Fields.fmtA 0x41 (d) (a) 0 (0x00))
  | .vlog d a => some (Fields.fmtA 0x41 (d) (a) 0 (0x01))
  | .vrcp d a => some (Fields.fmtA 0x41 (d) (a) 0 (0x02))
  | .vrsqrt d a => some (Fields.fmtA 0x41 (d) (a) 0 (0x03))
  | .vtanh d a => some (Fields.fmtA 0x41 (d) (a) 0 (0x04))
  | .vsigm d a => some (Fields.fmtA 0x41 (d) (a) 0 (0x05))
  | .vsin d a => some (Fields.fmtA 0x41 (d) (a) 0 (0x06))
  | .vcos d a => some (Fields.fmtA 0x41 (d) (a) 0 (0x07))
  | .vcmpEq d a b => some (Fields.fmtA 0x42 (d.setWidth 6) (a) (b) (0x00))
  | .vcmpNe d a b => some (Fields.fmtA 0x42 (d.setWidth 6) (a) (b) (0x01))
  | .vcmpLt d a b => some (Fields.fmtA 0x42 (d.setWidth 6) (a) (b) (0x02))
  | .vcmpLe d a b => some (Fields.fmtA 0x42 (d.setWidth 6) (a) (b) (0x03))
  | .vcmpGt d a b => some (Fields.fmtA 0x42 (d.setWidth 6) (a) (b) (0x04))
  | .vcmpGe d a b => some (Fields.fmtA 0x42 (d.setWidth 6) (a) (b) (0x05))
  | .vsel d a b c => some (Fields.fmtA 0x43 (d) (a) (b) ((0 : BitVec 3) ++ c))
  | .vand d a b => some (Fields.fmtA 0x44 (d) (a) (b) (0x00))
  | .vor d a b => some (Fields.fmtA 0x44 (d) (a) (b) (0x01))
  | .vxor d a b => some (Fields.fmtA 0x44 (d) (a) (b) (0x02))
  | .vandn d a b => some (Fields.fmtA 0x44 (d) (a) (b) (0x03))
  | .vnot d a => some (Fields.fmtA 0x44 (d) (a) 0 (0x04))
  | .vsll d a b => some (Fields.fmtA 0x45 (d) (a) (b) (0x00))
  | .vsrl d a b => some (Fields.fmtA 0x45 (d) (a) (b) (0x01))
  | .vsra d a b => some (Fields.fmtA 0x45 (d) (a) (b) (0x02))
  | .vcvt d a fmt => some (Fields.fmtA 0x46 (d) (a) (fmt.code) (0x00))
  | .vcvtSat d a fmt => some (Fields.fmtA 0x46 (d) (a) (fmt.code) (0x01))
  | .vcvtFit d a fmt => some (Fields.fmtA 0x46 (d) (a) (fmt.code) (0x02))
  | .vretag d a fmt => some (Fields.fmtA 0x46 (d) (a) (fmt.code) (0x03))
  | .vscale d a b => some (Fields.fmtA 0x46 (d) (a) (b) (0x04))
  | .vtag d a => some (Fields.fmtA 0x46 (d) (a) 0 (0x05))
  | .vtagRd d a => some (Fields.fmtA 0x46 (d) (a) 0 (0x06))
  | .vbcastF32 d a fmt => some (Fields.fmtA 0x47 (d) (a) (fmt.code) (0x00))
  | .vbcastI64 d a fmt => some (Fields.fmtA 0x47 (d) (a) (fmt.code) (0x01))
  | .vbcastRaw d a fmt => some (Fields.fmtA 0x47 (d) (a) (fmt.code) (0x02))
  | .vbcastEl d a b => some (Fields.fmtA 0x47 (d) (a) (b) (0x03))
  | .vredAdd d a b => some (Fields.fmtA 0x48 (d) (a) (b) (0x00))
  | .vredMin d a b => some (Fields.fmtA 0x48 (d) (a) (b) (0x01))
  | .vredMax d a b => some (Fields.fmtA 0x48 (d) (a) (b) (0x02))
  | .vredAnd d a b => some (Fields.fmtA 0x48 (d) (a) (b) (0x03))
  | .vredOr d a b => some (Fields.fmtA 0x48 (d) (a) (b) (0x04))
  | .vredXor d a b => some (Fields.fmtA 0x48 (d) (a) (b) (0x05))
  | .vdot d a b => some (Fields.fmtA 0x48 (d) (a) (b) (0x06))
  | .viota d a fmt => some (Fields.fmtA 0x49 (d) (a.setWidth 6) (fmt) (0x00))
  | .vperm d a b => some (Fields.fmtA 0x4A (d) (a) (b) (0x00))
  | .vrot d a b => some (Fields.fmtA 0x4A (d) (a) (b) (0x01))
  | .vslideup d a b => some (Fields.fmtA 0x4A (d) (a) (b) (0x02))
  | .vslidedn d a b => some (Fields.fmtA 0x4A (d) (a) (b) (0x03))
  | .vcompress d a b => some (Fields.fmtA 0x4B (d) (a) (b.setWidth 6) (0x00))
  | .vexpand d a b => some (Fields.fmtA 0x4B (d) (a) (b.setWidth 6) (0x01))
  | .vld d base off => some (Fields.fmtM 0x4C (d) (base) 0 off)
  | .vldQ d base off => some (Fields.fmtM 0x4C (d.setWidth 6) (base) 1 off)
  | .vst d base off => some (Fields.fmtM 0x4D (d) (base) 0 off)
  | .vlds d a b => some (Fields.fmtA 0x4E (d) (a) (b) (0x00))
  | .vsts d a b => some (Fields.fmtA 0x4F (d) (a) (b) (0x00))
  | .vldx d a b => some (Fields.fmtA 0x50 (d) (a) (b) (0x00))
  | .vstx d a b => some (Fields.fmtA 0x51 (d) (a) (b) (0x00))
  | .vsctadd d a b scope => some (Fields.fmtA 0x52 (d) (a) (b) ((0 : BitVec 4) ++ scope.code))
  | .vldSc d base off => some (Fields.fmtM 0x53 (d) (base) 0 off)
  | .vstSc d base off => some (Fields.fmtM 0x54 (d) (base) 0 off)
  | .vldBndS d base bound t => some (Fields.fmtM 0x55 (d) (base) 0 (bound ++ t))
  | .vldBndF d base bound t => some (Fields.fmtM 0x55 (d) (base) 4 (bound ++ t))
  | .stripOpen d a b => some (Fields.fmtA 0x56 (d.setWidth 6) (a) (b) (0x00))
  | .stripClose d => some (Fields.fmtA 0x56 (d.setWidth 6) 0 0 (0x01))
  | .stripLd d a => some (Fields.fmtA 0x57 (d) (a.setWidth 6) 0 (0x00))
  | .stripLdNa d a => some (Fields.fmtA 0x57 (d) (a.setWidth 6) 0 (0x01))
  | .stripSt d a => some (Fields.fmtA 0x58 (d) (a.setWidth 6) 0 (0x00))
  | .stripStNa d a => some (Fields.fmtA 0x58 (d) (a.setWidth 6) 0 (0x01))
  | .qbind d a => some (Fields.fmtA 0x59 (d.setWidth 6) (a) 0 (0x00))
  | .qpushV d a => some (Fields.fmtA 0x5A (d.setWidth 6) (a) 0 (0x00))
  | .qpushS d a => some (Fields.fmtA 0x5A (d.setWidth 6) (a) 0 (0x01))
  | .qpushB d a => some (Fields.fmtA 0x5A (d.setWidth 6) (a) 0 (0x02))
  | .qpopV d a => some (Fields.fmtA 0x5B (d) (a.setWidth 6) 0 (0x00))
  | .qpopS d a => some (Fields.fmtA 0x5B (d) (a.setWidth 6) 0 (0x01))
  | .qpeekV d a => some (Fields.fmtA 0x5B (d) (a.setWidth 6) 0 (0x02))
  | .qpeekS d a => some (Fields.fmtA 0x5B (d) (a.setWidth 6) 0 (0x03))
  | .qbr a off => some (Fields.fmtL 0x5C (a.setWidth 6) off)
  | .vamoAdd d a b scope => some (Fields.fmtA 0x5D (d) (a) (b) (scope.code ++ (0x0 : BitVec 4)))
  | .vamoMin d a b scope => some (Fields.fmtA 0x5D (d) (a) (b) (scope.code ++ (0x1 : BitVec 4)))
  | .vamoMax d a b scope => some (Fields.fmtA 0x5D (d) (a) (b) (scope.code ++ (0x2 : BitVec 4)))
  | .vamoSwap d a b scope => some (Fields.fmtA 0x5D (d) (a) (b) (scope.code ++ (0x3 : BitVec 4)))
  | .vamoCas d a b scope => some (Fields.fmtA 0x5D (d) (a) (b) (scope.code ++ (0x4 : BitVec 4)))
  | .fenceSv scope => some (Fields.fmtA 0x5E 0 0 0 ((0 : BitVec 2) ++ (scope.code ++ (0x0 : BitVec 2))))
  | .fenceVs scope => some (Fields.fmtA 0x5E 0 0 0 ((0 : BitVec 2) ++ (scope.code ++ (0x1 : BitVec 2))))
  | .fenceVv scope => some (Fields.fmtA 0x5E 0 0 0 ((0 : BitVec 2) ++ (scope.code ++ (0x2 : BitVec 2))))
  | .fenceAll scope => some (Fields.fmtA 0x5E 0 0 0 ((0 : BitVec 2) ++ (scope.code ++ (0x3 : BitVec 2))))
  | .vwait d a b scope => some (Fields.fmtA 0x5F (d.setWidth 6) (a) (b) ((0 : BitVec 4) ++ scope.code))
  | .roundAdv d a => some (Fields.fmtA 0x60 (d) (a) 0 (0x00))
  | .roundRd d a => some (Fields.fmtA 0x61 (d) (a) 0 (0x00))
  | .tileSet d a => some (Fields.fmtA 0x62 (d) (a) 0 (0x00))
  | .mma d a b => some (Fields.fmtA 0x63 (d.setWidth 6) (a) (b) (0x00))
  | .mmaW d a slot => some (Fields.fmtA 0x63 (d.setWidth 6) (a) (slot.setWidth 6) (0x01))
  | .mmaZ d a b => some (Fields.fmtA 0x63 (d.setWidth 6) (a) (b) (0x02))
  | .mmaWz d a slot => some (Fields.fmtA 0x63 (d.setWidth 6) (a) (slot.setWidth 6) (0x03))
  | .mmaT d a b => some (Fields.fmtA 0x64 (d.setWidth 6) (a) (b) (0x00))
  | .mmaTW d a slot => some (Fields.fmtA 0x64 (d.setWidth 6) (a) (slot.setWidth 6) (0x01))
  | .mmaTZ d a b => some (Fields.fmtA 0x64 (d.setWidth 6) (a) (b) (0x02))
  | .mmaTWz d a slot => some (Fields.fmtA 0x64 (d.setWidth 6) (a) (slot.setWidth 6) (0x03))
  | .wbLoad slot a b => some (Fields.fmtA 0x65 (slot.setWidth 6) (a) (b) (0x00))
  | .wbLoadCb slot a b cb => some (Fields.fmtA 0x65 (slot.setWidth 6) (a) (b) ((1 : BitVec 4) ++ cb))
  | .cbLoad cb a b => some (Fields.fmtA 0x66 (cb.setWidth 6) (a) (b) (0x00))
  | .accZero d i48 => some (Fields.fmtA 0x67 (d.setWidth 6) 0 ((0x18 : BitVec 6) + i48.setWidth 6) (0x00))
  | .accLd d a => some (Fields.fmtA 0x67 (d.setWidth 6) (a) 0 (0x01))
  | .accSt d a => some (Fields.fmtA 0x67 (d.setWidth 6) (a) 0 (0x02))
  | .accRd d a b => some (Fields.fmtA 0x68 (d) (a.setWidth 6) (b) (0x00))
  | .accRdS d a b => some (Fields.fmtA 0x68 (d) (a.setWidth 6) (b) (0x01))
  | .cpStart d a ends => some (Fields.fmtA 0x69 (d) (a) 0 ((0 : BitVec 5) ++ ends))
  | .cp2d d a ends => some (Fields.fmtA 0x6A (d) (a) 0 ((0 : BitVec 5) ++ ends))
  | .cpGth d a b ends => some (Fields.fmtA 0x6B (d) (a) (b) ((0 : BitVec 5) ++ ends))
  | .vxfUvar d a fmt => some (Fields.fmtA 0x6C (d) (a.setWidth 6) (fmt.code) (0x00))
  | .vxfSvar d a fmt => some (Fields.fmtA 0x6C (d) (a.setWidth 6) (fmt.code) (0x01))
  | .vxfUnpk d a fmt => some (Fields.fmtA 0x6C (d) (a.setWidth 6) (fmt.code) (0x02))
  | .vxfEuvar d a => some (Fields.fmtA 0x6C (d) (a.setWidth 6) 0 (0x03))
  | .vxfEsvar d a => some (Fields.fmtA 0x6C (d) (a.setWidth 6) 0 (0x04))
  | .vxfPack d a => some (Fields.fmtA 0x6C (d) (a.setWidth 6) 0 (0x05))
  | .pre p => some (Fields.fmtP p 0 0 0 0)
  | .preN p => some (Fields.fmtP p 1 0 0 0)
  | .preCopy p cls cd => some (Fields.fmtP p 0 cd 1 cls.code)
  | .preNCopy p cls cd => some (Fields.fmtP p 1 cd 1 cls.code)
  | .fork d a => some (Fields.fmtA 0x6D (d) (a) 0 (0x00))
  | .forkS d a => some (Fields.fmtA 0x6D (d) (a) 0 (0x01))
  | .settle a => some (Fields.fmtA 0x6D 0 (a) 0 (0x02))
  | .abandon => some (Fields.fmtA 0x6D 0 0 0 (0x03))
  | .abandonAll => some (Fields.fmtA 0x6D 0 0 0 (0x04))
  | .choose d a => some (Fields.fmtA 0x6D (d) (a) 0 (0x05))
  | .chooseBest d => some (Fields.fmtA 0x6D (d) 0 0 (0x06))
  | .vid d a => some (Fields.fmtA 0x6D (d) (a) 0 (0x07))
  | .spawn d a b => some (Fields.fmtA 0x6E (d) (a) (b) (0x00))
  | .spawnT d a b => some (Fields.fmtA 0x6E (d) (a) (b) (0x01))
  | .leaseReq least pref => some (Fields.fmtA 0x6E 0 (least) (pref) (0x02))
  | .leaseRel => some (Fields.fmtA 0x6E 0 0 0 (0x03))
  | .leaseRelD => some (Fields.fmtA 0x6E 0 0 0 (0x04))
  | .taskEnd => some (Fields.fmtA 0x6E 0 0 0 (0x05))
  | .barCl a b => some (Fields.fmtA 0x6E 0 (a) (b) (0x06))
  | .ctxSave => some (Fields.fmtA 0x6F 0 0 0 (0x00))
  | .ctxLoad d a => some (Fields.fmtA 0x6F (d) (a) 0 (0x01))
  | .collRedAdd d a => some (Fields.fmtA 0x70 (d) (a) 0 (0x00))
  | .collRedMin d a => some (Fields.fmtA 0x70 (d) (a) 0 (0x01))
  | .collRedMax d a => some (Fields.fmtA 0x70 (d) (a) 0 (0x02))
  | .collRedFo d a => some (Fields.fmtA 0x70 (d) (a) 0 (0x03))
  | .collBcast d a => some (Fields.fmtA 0x70 (d) (a) 0 (0x04))
  | .hFetch a b => some (Fields.fmtA 0x71 0 (a) (b) (0x00))
  | .hPost a b => some (Fields.fmtA 0x71 0 (a) (b) (0x01))
  | .hFwd a => some (Fields.fmtA 0x71 0 (a) 0 (0x02))
  | .hStamp d a => some (Fields.fmtA 0x71 (d) (a) 0 (0x03))
  | .hStampAdv d a => some (Fields.fmtA 0x71 (d) (a) 0 (0x04))
  | .hDone => some (Fields.fmtA 0x71 0 0 0 (0x05))
  | .hAbort a => some (Fields.fmtA 0x71 0 (a) 0 (0x06))
  | .bmsg a b => some (Fields.fmtA 0x72 0 (a) (b) (0x00))
  | .grantWaitApply _ => none
  | .reshapeComplete _ => none
  | .commitLand _ => none
  | .lateResultReady _ => none
  | .drainComplete _ => none
  | .arbiterHoldTimeout _ => none
  | .preemptionNotice _ => none
  | .gracePeriodExpiry _ => none
  | .stagingDrainComplete _ _ => none
  | .stripCopyWaitEnd _ _ => none
  | .restoreAtGrant _ => none
  | .resumedReshaped _ => none
  | .copyEventTaken _ => none
  | .copySectorMove _ => none
  | .copyRequestComplete _ => none
  | .promiseMiss _ _ => none
  | .registerFileCorrectedError _ _ => none
  | .registerFileUncorrectableError _ _ _ _ _ => none
  | .stateUncorrectableError _ => none
  | .stripUncorrectableError _ _ => none
  | .queueEntryUncorrectableError _ _ _ => none
  | .scratchpadUncorrectableError _ => none
  | .sliceUncorrectableError _ _ _ _ => none
  | .verticalBusCorrectedError _ _ => none
  | .assayerRun _ => none
  | .assayerVectorEnd _ _ => none
  | .sliceFill _ _ _ _ _ => none
  | .coherenceInvalidate _ _ => none
  | .messageArrival _ => none
  | .invocationStart _ => none
  | .handlerTimeLimit _ => none
  | .prefetchFill _ => none
  | .btimeWindowStart => none
  | .tlbinvComplete => none
  | .wfeWake _ => none
  | .sleepUntilExpiry _ => none
  | .vwaitWake _ => none
  | .vwaitDeadline _ => none
  | .queueWaitEnd _ => none
  | .boundedLoadWaitEnd _ => none
  | .barrierWake _ => none
  | .rivalPlace _ => none
  | .chooseResume _ => none
  | .viewReclaim _ => none
  | .selectAndPlace _ => none
  | .stripTaggingComplete _ => none
  | .queueTailObserved _ _ => none
  | .frameAged _ _ => none
  | .reservePreemptTimeout _ => none
  | .fqheadWrite _ _ => none
  | .fqbaseWrite _ _ => none
  | .fqstatWrite _ _ => none
  | .faultDomainRecovery _ => none
  | .recoveryComplete _ => none
  | .llcFill _ _ _ => none
  | .homeRead _ _ => none
  | .grinderSweep _ _ _ => none
  | .grinderRecallComplete _ _ => none
  | .roundMirrorsComplete _ => none
  | .shadowMulticastArrival _ _ => none
  | .touchstoneGrant _ => none
  | .rcbInstall _ => none
  | .rcbRemove _ => none
  | .rcbRecover _ => none
  | .rgcntWrite _ _ => none
  | .rgcntLand _ => none
  | .rgctlWrite _ _ => none
  | .fwCommit _ => none
  | .fwCommitComplete => none
  | .mgmtstWrite _ => none
  | .skewmapWrite _ _ => none
  | .llcpartWrite _ _ => none
  | .baristaCountersClear _ => none
  | .jrnheadWrite _ => none
  | .jrnsizeWrite _ => none
  | .jrnctlWrite _ => none
  | .packageRegisterWrite _ _ => none
  | .moduleReset => none
  | .selfTestComplete => none
  | .firmwareCheckComplete => none
  | .hbmTrainingComplete => none
  | .thermalTrip => none
  | .linkTraining _ _ => none
  | .hostMemoryWrite _ _ _ => none
  | .hostMemoryRead _ => none
  | .cemenTaggedWrite _ => none
  | .cemenTaggedRead _ => none
  | .cemenReadResponse _ => none
  | .cemenAtomic _ => none
  | .cemenHostMessage _ => none
  | .cemenCollectiveFragment _ => none
  | .fabricAck _ => none
  | .completionLost _ => none
  | .collectiveMatch _ _ => none
  | .collectiveComplete _ _ => none
  | .collectiveTimeout _ _ => none
  | .replayApply => none
  | .illegalInstruction _ => none
  | .instructionFetchFault _ => none
  | .forcedSwitchRequest _ _ _ => none
  | .baristaUncorrectableError _ => none
  | .fabricBind _ _ => none
  | .participantLost _ _ => none

/-- The word of an instruction; none for a device event.
DESIGN CHOICE (safe, log 12). -/
def encode (i : Instr) : Option (BitVec 32) := (encodeFields i).map packWord

end Sys2Proof
end

