-- ==== Sys2Proof/Machine/Num.lean ====
section
/-! DEFINITION. Numbers: exact values, the formats of R32 and R37 to R40, decoding (R41), rounding (R52, R53) and encoding
(R49) of one element. Values are computed exactly; rounding happens once, in `encodeEl`. -/

namespace Sys2Proof.Machine

/-- An exact value (R41): a NaN, an infinity, or a signed quotient with a positive denominator; both zeros exist. -/
inductive Val where
  | nan
  | inf (neg : Bool)
  | fin (neg : Bool) (num den : Nat)
deriving DecidableEq, Repr

/-- The sticky flags [4:0] of sys.status: NV, OF, UF, NX, FS (R22). -/
abbrev Sticky := BitVec 5
def flagNV : Sticky := 1
def flagOF : Sticky := 2
def flagUF : Sticky := 4
def flagNX : Sticky := 8
def flagFS : Sticky := 16

namespace Val

/-- An integer as a value. -/
def ofInt (z : Int) : Val := .fin (decide (z < 0)) z.natAbs 1

def isNan : Val → Bool
  | .nan => true
  | _ => false

def isInf : Val → Bool
  | .inf _ => true
  | _ => false

def isZero : Val → Bool
  | .fin _ n _ => n == 0
  | _ => false

/-- The sign bit; false for a NaN. -/
def sign : Val → Bool
  | .nan => false
  | .inf s => s
  | .fin s _ _ => s

/-- The value with its sign changed (R127 `vneg`). -/
def neg : Val → Val
  | .nan => .nan
  | .inf s => .inf (!s)
  | .fin s n d => .fin (!s) n d

/-- The value without its sign (R127 `vabs`). -/
def abs : Val → Val
  | .nan => .nan
  | .inf _ => .inf false
  | .fin _ n d => .fin false n d

/-- The value times 2^k. -/
def scale (k : Int) : Val → Val
  | .fin s n d => if 0 ≤ k then .fin s (n * 2 ^ k.toNat) d else .fin s n (d * 2 ^ (-k).toNat)
  | v => v

/-- Magnitudes over one denominator. -/
def common (n1 d1 n2 d2 : Nat) : Nat × Nat × Nat :=
  if d1 = d2 then (n1, n2, d1)
  else if d1 % d2 = 0 then (n1, n2 * (d1 / d2), d1)
  else if d2 % d1 = 0 then (n1 * (d2 / d1), n2, d2)
  else (n1 * d2, n2 * d1, d1 * d2)

/-- The exact sum; `down` is rounding toward minus infinity, under which an exact zero sum of opposite signs is -0 (R38).
Infinities of opposite sign give a NaN. -/
def add (down : Bool) : Val → Val → Val
  | .nan, _ => .nan
  | _, .nan => .nan
  | .inf s, .inf t => if s = t then .inf s else .nan
  | .inf s, .fin _ _ _ => .inf s
  | .fin _ _ _, .inf t => .inf t
  | .fin s n1 d1, .fin t n2 d2 =>
    let c := common n1 d1 n2 d2
    if s = t then .fin s (c.1 + c.2.1) c.2.2
    else if c.1 = c.2.1 then .fin down 0 1
    else if c.2.1 < c.1 then .fin s (c.1 - c.2.1) c.2.2
    else .fin t (c.2.1 - c.1) c.2.2

/-- The exact product; zero times infinity gives a NaN. -/
def mul : Val → Val → Val
  | .nan, _ => .nan
  | _, .nan => .nan
  | .inf s, .inf t => .inf (s != t)
  | .inf s, .fin t n _ => if n = 0 then .nan else .inf (s != t)
  | .fin s n _, .inf t => if n = 0 then .nan else .inf (s != t)
  | .fin s n1 d1, .fin t n2 d2 => .fin (s != t) (n1 * n2) (d1 * d2)

/-- The exact quotient, for a divisor that is not zero; infinity by infinity gives a NaN. -/
def div : Val → Val → Val
  | .nan, _ => .nan
  | _, .nan => .nan
  | .inf _, .inf _ => .nan
  | .inf s, .fin t _ _ => .inf (s != t)
  | .fin s _ _, .inf t => .fin (s != t) 0 1
  | .fin s n1 d1, .fin t n2 d2 => .fin (s != t) (n1 * d2) (d1 * n2)

/-- The order of two values that are no NaN, both zeros being equal. -/
def lt : Val → Val → Bool
  | .nan, _ => false
  | _, .nan => false
  | .inf s, .inf t => s && !t
  | .inf s, .fin _ _ _ => s
  | .fin _ _ _, .inf t => !t
  | .fin s n1 d1, .fin t n2 d2 =>
    let c := common n1 d1 n2 d2
    if c.1 = 0 ∧ c.2.1 = 0 then false
    else match s, t with
      | true, false => true
      | false, true => false
      | false, false => decide (c.1 < c.2.1)
      | true, true => decide (c.2.1 < c.1)

/-- Equality of two values that are no NaN, -0 equalling +0 (R132). -/
def eq (a b : Val) : Bool := !a.isNan && !b.isNan && !lt a b && !lt b a

end Val

/-- The rounding modes of sys.status.RM (R22, R52). -/
inductive Rounding where
  | nearest | zero | up | down
  | stochastic (bits : BitVec 32)
deriving DecidableEq, Repr

/-- The integer part of n / d, rounded: `neg` is the sign of the value whose magnitude n / d is. In the stochastic mode the
neighbour toward minus infinity is the reference (R52). -/
def roundMag (rm : Rounding) (neg : Bool) (n d : Nat) : Nat :=
  let lo := n / d
  let r := n % d
  if r = 0 then lo else
  match rm with
  | .nearest => if d < 2 * r then lo + 1 else if 2 * r < d then lo else if lo % 2 = 0 then lo else lo + 1
  | .zero => lo
  | .up => if neg then lo else lo + 1
  | .down => if neg then lo + 1 else lo
  | .stochastic b =>
    let t := (if neg then (d - r) else r) * 2 ^ 32 / d
    if b.toNat < t then (if neg then lo else lo + 1) else (if neg then lo + 1 else lo)

/-- Directed toward the finite bound (R49): TowardFinite. -/
def towardFinite (rm : Rounding) (neg : Bool) : Bool :=
  match rm with
  | .zero => true
  | .up => neg
  | .down => !neg
  | _ => false

/-- StochBits (R53): four rounds keyed by sys.seed over the index plus sys.stripbase. -/
def stochBits (seed base : Word) (idx : Nat) : BitVec 32 :=
  let round (xk : Word × Word) : Word × Word :=
    let x := (xk.1 ^^^ xk.2) * 0xD6E8FEB86659FD93
    (x ^^^ (x >>> 32), xk.2 + 0x9E3779B97F4A7C15)
  (round (round (round (round (BitVec.ofNat 64 idx + base, seed))))).1.setWidth 32

/-- The parameters of a float format (R37): fraction bits, bias, the code of the largest finite magnitude, the codes of
infinity and of the canonical NaN where the format has them. -/
structure FloatInfo where
  m : Nat
  bias : Nat
  maxCode : Nat
  infCode : Option Nat
  nanCode : Option Nat
  width : Nat
deriving DecidableEq, Repr

/-- R37; a microscaled format has the parameters of its elements (R42). -/
def Fmt.float : Fmt → Option FloatInfo
  | .fp32 => some ⟨23, 127, 0x7F7FFFFF, some 0x7F800000, some 0x7FC00000, 32⟩
  | .fp16 => some ⟨10, 15, 0x7BFF, some 0x7C00, some 0x7E00, 16⟩
  | .bf16 => some ⟨7, 127, 0x7F7F, some 0x7F80, some 0x7FC0, 16⟩
  | .e5m2 => some ⟨2, 15, 0x7B, some 0x7C, some 0x7E, 8⟩
  | .e4m3 | .mxe4m3 => some ⟨3, 7, 0x7E, none, some 0x7F, 8⟩
  | .e3m2 => some ⟨2, 3, 0x1F, none, none, 6⟩
  | .e2m3 | .mxe2m3 => some ⟨3, 1, 0x1F, none, none, 6⟩
  | .e2m1 | .mxe2m1 => some ⟨1, 1, 0x7, none, none, 4⟩
  | .a48 => some ⟨37, 511, 0x7FDFFFFFFFFF, some 0x7FE000000000, some 0x7FF000000000, 48⟩
  | _ => none

/-- The least and the greatest value of an integer format (R39, R40). -/
def Fmt.range : Fmt → Option (Int × Int)
  | .int32 => some (-2147483648, 2147483647)
  | .int16 => some (-32768, 32767)
  | .int8 => some (-128, 127)
  | .uint8 => some (0, 255)
  | .int4 => some (-8, 7)
  | .uint4 => some (0, 15)
  | .trn2 => some (-1, 1)
  | .i48 => some (-140737488355328, 140737488355327)
  | _ => none

/-- A float format, A48 and the microscaled ones included (R32). -/
def Fmt.isFloat (f : Fmt) : Bool := (Fmt.float f).isSome
/-- An integer format, TRN2 and I48 included (R32). -/
def Fmt.isInt (f : Fmt) : Bool := (Fmt.range f).isSome
/-- The microscaled formats (R42). -/
def Fmt.isMicro : Fmt → Bool
  | .mxe4m3 | .mxe2m3 | .mxe2m1 => true
  | _ => false
/-- The folding formats (R32). -/
def Fmt.isFolding : Fmt → Bool
  | .fp32 | .bf16 | .mxe4m3 | .mxe2m3 | .mxe2m1 | .a48 => true
  | _ => false
/-- The two formats with 64-bit slots (R44). -/
def Fmt.isWide : Fmt → Bool
  | .a48 | .i48 => true
  | _ => false

/-- The element width in bits (R32); for RAW the slot or grid width `slot`. -/
def Fmt.width (slot : Nat) : Fmt → Nat
  | .raw => slot
  | .fp32 | .int32 => 32
  | .fp16 | .bf16 | .int16 => 16
  | .e4m3 | .e5m2 | .mxe4m3 | .int8 | .uint8 => 8
  | .e3m2 | .e2m3 | .mxe2m3 => 6
  | .e2m1 | .mxe2m1 | .int4 | .uint4 => 4
  | .trn2 => 2
  | .a48 | .i48 => 48

/-- The exponent 2 to which the largest element of a microscaled block is brought (R51: emax). -/
def Fmt.emax : Fmt → Nat
  | .mxe4m3 => 8
  | _ => 2

/-- The value of a magnitude code of a float format (R37): normal and subnormal numbers. -/
def magnitudeOf (f : FloatInfo) (c : Nat) : Nat × Nat :=
  let e := c / 2 ^ f.m
  let frac := c % 2 ^ f.m
  let sig := if e = 0 then frac else 2 ^ f.m + frac
  let ex : Int := (if e = 0 then 1 else (e : Int)) - (f.bias : Int) - (f.m : Int)
  if 0 ≤ ex then (sig * 2 ^ ex.toNat, 1) else (sig, 2 ^ (-ex).toNat)

/-- ElementValue (R37, R39, R40): the value of the element bits `e` of format `f`, without scales. RAW has no value (R41); where a
bank entry lets a RAW operand into an arithmetic form, its bits read as a two's complement integer of 64 bits.
DESIGN CHOICE (unsafe, log 73): the spec gives a RAW operand no value. -/
def elementValue (f : Fmt) (e : Word) : Val :=
  match Fmt.float f with
  | some fi =>
    let c := e.toNat % 2 ^ (fi.width - 1)
    let s := e.toNat / 2 ^ (fi.width - 1) % 2 = 1
    if fi.maxCode < c then (if fi.infCode = some c then .inf s else .nan)
    else
      let v := magnitudeOf fi c
      .fin s v.1 v.2
  | none =>
    let w := Fmt.width 64 f
    let u := e.toNat % 2 ^ w
    match f with
    | .uint8 | .uint4 => .fin false u 1
    | .trn2 => if u = 1 then .fin false 1 1 else if u = 3 then .fin true 1 1 else .fin false 0 1
    | _ => .ofInt (if u < 2 ^ (w - 1) then (u : Int) else (u : Int) - (2 : Int) ^ w)

/-- Decode (R41): the value of element bits under a SCALE code and a micro-scale code; RAW has no value and reads as 0. -/
def decodeEl (f : Fmt) (s u : Byte) (e : Word) : Val :=
  if Fmt.isFloat f && (s == 0xFF || u == 0xFF) then .nan
  else Val.scale ((u.toNat : Int) - 127 + ((s.toNat : Int) - 127)) (elementValue f e)

/-- The flags of reading an active element: NV for the TRN2 code 0b10 (R39). -/
def readFlags (f : Fmt) (e : Word) : Sticky := if f = .trn2 ∧ e.toNat % 4 = 2 then flagNV else 0

/-- floor(log2 (n / d)) for a positive n / d. -/
def floorLog2 (n d : Nat) : Int :=
  let k : Int := (n.log2 : Int) - (d.log2 : Int)
  -- n / d lies from 2^(k-1) up to 2^(k+1), the latter excluded
  if 0 ≤ k then (if d * 2 ^ k.toNat ≤ n then k else k - 1)
  else (if d ≤ n * 2 ^ (-k).toNat then k else k - 1)

/-- ceil(log2 (n / d)) for a positive n / d. -/
def ceilLog2 (n d : Nat) : Int :=
  let k := floorLog2 n d
  if (if 0 ≤ k then n = d * 2 ^ k.toNat else n * 2 ^ (-k).toNat = d) then k else k + 1

/-- The sign bit of a float element above its magnitude code. -/
def signed (fi : FloatInfo) (neg : Bool) (c : Nat) : Word :=
  BitVec.ofNat 64 (if neg then 2 ^ (fi.width - 1) + c else c)

/-- EncodeFloat (R49) into a float format, with its flags: `k` is the exponent of the combined scale, s - 127 and for a
microscaled element u - 127 beside it. A NaN in a format without NaN gives +0 and NV (R51). -/
def encodeFloat (fi : FloatInfo) (k : Int) (rm : Rounding) (sat : Bool) (x : Val) : Word × Sticky :=
  match x with
  | .nan => match fi.nanCode with
    | some c => (BitVec.ofNat 64 c, 0)
    | none => (0, flagNV)
  | .inf s => match fi.infCode, sat with
    | some c, false => (signed fi s c, 0)
    | _, _ => (signed fi s fi.maxCode, flagOF)
  | .fin s n0 d0 =>
    if n0 = 0 then (signed fi s 0, 0) else
    let nd : Nat × Nat := if 0 ≤ k then (n0, d0 * 2 ^ k.toNat) else (n0 * 2 ^ (-k).toNat, d0)
    let e := floorLog2 nd.1 nd.2
    let emin : Int := 1 - (fi.bias : Int)
    let q : Int := (if e < emin then emin else e) - (fi.m : Int)
    let td : Nat × Nat := if 0 ≤ q then (nd.1, nd.2 * 2 ^ q.toNat) else (nd.1 * 2 ^ (-q).toNat, nd.2)
    let r := roundMag rm s td.1 td.2
    let code : Nat := (q + (fi.m : Int) + (fi.bias : Int) - 1).toNat * 2 ^ fi.m + r
    if fi.maxCode < code then
      match fi.infCode, (sat || towardFinite rm s) with
      | some c, false => (signed fi s c, flagOF ||| flagNX)
      | _, _ => (signed fi s fi.maxCode, flagOF ||| flagNX)
    else
      let inexact := td.1 % td.2 ≠ 0
      let fl := if inexact then (if e < emin then flagNX ||| flagUF else flagNX) else 0
      (signed fi s code, fl)

/-- EncodeInt (R49), with its flags. -/
def encodeInt (lo hi : Int) (w : Nat) (k : Int) (rm : Rounding) (x : Val) : Word × Sticky :=
  let bits (z : Int) : Word := BitVec.ofNat 64 (if 0 ≤ z then z.toNat else (z + (2 : Int) ^ w).toNat)
  match x with
  | .nan => (0, flagNV)
  | .inf s => (bits (if s then lo else hi), flagNV)
  | .fin s n0 d0 =>
    let nd : Nat × Nat := if 0 ≤ k then (n0, d0 * 2 ^ k.toNat) else (n0 * 2 ^ (-k).toNat, d0)
    let r := roundMag rm s nd.1 nd.2
    let z : Int := if s then -(r : Int) else r
    let nx := if nd.1 % nd.2 ≠ 0 then flagNX else 0
    if hi < z then (bits hi, nx ||| flagOF) else if z < lo then (bits lo, nx ||| flagOF) else (bits z, nx)

/-- Conversions that always saturate: to a format of 8 bits or fewer, the microscaled ones included (R50). -/
def Fmt.saturates (f : Fmt) : Bool := decide (Fmt.width 64 f ≤ 8)

/-- Encode one element under SCALE `s` and micro-scale `u` (R49, R50); RAW takes no value and gives 0. -/
def encodeEl (f : Fmt) (s u : Byte) (rm : Rounding) (sat : Bool) (x : Val) : Word × Sticky :=
  match Fmt.float f with
  | some fi => encodeFloat fi ((s.toNat : Int) - 127 + ((u.toNat : Int) - 127)) rm (sat || Fmt.saturates f) x
  | none => match Fmt.range f with
    | some r => encodeInt r.1 r.2 (Fmt.width 64 f) ((s.toNat : Int) - 127) rm x
    | none => (0, 0)

/-- The canonical NaN of a float format; +0 where the format has none (R37, R51). -/
def canonicalNan (f : Fmt) : Word :=
  match Fmt.float f with
  | some fi => BitVec.ofNat 64 (fi.nanCode.getD 0)
  | none => 0

/-- The largest finite magnitude of a format: MaxFinite, or Max of an integer format (R138). -/
def maxFinite (f : Fmt) : Nat × Nat :=
  match Fmt.float f with
  | some fi => magnitudeOf fi fi.maxCode
  | none => match Fmt.range f with
    | some r => (r.2.toNat, 1)
    | none => (1, 1)

/-- The micro-scale of a block whose largest magnitude, over 2^(s - 127), is n / d (R51). -/
def microScaleOf (f : Fmt) (n d : Nat) : Byte :=
  if n = 0 then 127
  else
    let e : Int := floorLog2 n d - (Fmt.emax f : Int) + 127
    if e < 0 then 0 else if 254 < e then 254 else BitVec.ofNat 8 e.toNat

/-! ### Sums, products, minima and maxima (R128) -/

/-- NV where infinities cancel (R128). -/
def sumFlags (x y : Val) : Sticky := match x, y with
  | .inf p, .inf q => if p = q then 0 else flagNV
  | _, _ => 0

/-- NV where zero meets infinity (R128). -/
def productFlags (x y : Val) : Sticky :=
  if (x.isZero && y.isInf) || (x.isInf && y.isZero) then flagNV else 0

def addOp (down : Bool) (_ : Fmt) (x y : Val) : Val × Sticky := (x.add down y, sumFlags x y)
def subOp (down : Bool) (_ : Fmt) (x y : Val) : Val × Sticky := (x.add down y.neg, sumFlags x y.neg)
def mulOp (_ : Fmt) (x y : Val) : Val × Sticky := (x.mul y, productFlags x y)

/-- Order with -0 below +0 (R128). -/
def below (x y : Val) : Bool := if x.isZero && y.isZero then x.sign && !y.sign else Val.lt x y

def minOp (_ : Fmt) (x y : Val) : Val × Sticky := (if x.isNan || y.isNan then .nan else if below y x then y else x, 0)
def maxOp (_ : Fmt) (x y : Val) : Val × Sticky := (if x.isNan || y.isNan then .nan else if below x y then y else x, 0)

end Sys2Proof.Machine
end

