-- ==== Sys2Proof/Machine/State.lean ====
section
/-! DEFINITION. The state of the device as plain data: the strand and the barista whose turn it is and all the others, cores,
clusters, dies, memory with its tags, views, package and management state. A unit that a keyed list does not name is as after
reset. -/

namespace Sys2Proof.Machine

/-- One bit for each element position: 131,072 is the largest VLMAX (R23 with LIVE = 64, n = 8, Wmax = 8). -/
abbrev PosBits := BitVec 131072

/-- A 128-byte sector: its storage as one little-endian string of 1,024 bits, and its tag (R31, R45). -/
structure Sector where
  bits : BitVec 1024
  tag : Tag
deriving DecidableEq, Repr

/-- A vector register (R19, R36, R42, R44, R282). `slots` lists element slots from position 0, a missing one being 0;
`micro` the micro-scales of blocks of 32 positions, a missing one being 127. `entry` is the directory entry of its last save
(R285), or of a register that nothing has written; none while its dirty bit is set. -/
structure VReg where
  tag : Tag
  slots : List Word
  marks : PosBits
  micro : List Byte
  hw : Nat
  entry : Option (BitVec 128)
deriving DecidableEq, Repr

/-- A `v` register at task entry (R20, R282): zero bits under the tag 0x5FC0, clean. -/
def VReg.reset : VReg := { tag := 0x5FC0, slots := [], marks := 0, micro := [], hw := 0, entry := some 0x5FC0 }

/-- An accumulator tile (R245): 64 x 64 elements of 48 bits in flat order, a missing one being 0, and its format. -/
structure Tile where
  i48 : Bool
  elems : List (BitVec 48)
deriving DecidableEq, Repr

/-- The tile state (R246). -/
structure TileState where
  valid : Bool
  m : Nat
  n : Nat
  k : Nat
  grantAt : BitVec 8
  vlmaxAt : Nat
deriving DecidableEq, Repr

/-- A filled weight slot (R247, R255): K x N elements column by column under one tag, a micro-scale for each of them where the
format is microscaled, poison marks by flat index, and for the indexed form its codebook. -/
structure WeightSlot where
  k : Nat
  n : Nat
  tag : Tag
  elems : List Word
  micro : List Byte
  marks : List Nat
  codebook : Option CBook
deriving DecidableEq, Repr

/-- A filled codebook slot (R248). -/
structure Codebook where
  tag : Tag
  elems : List Word
  marks : List Nat
deriving DecidableEq, Repr

/-- A strip handle (R173). -/
structure Handle where
  valid : Bool
  base : BitVec 32
  len : BitVec 32
  grid : BitVec 2
  wrap : Bool
  pos : BitVec 32
deriving DecidableEq, Repr

/-- The special registers of a strand that hold their own value (R21); `sys.lanemap`, `sys.peer` and `sys.cycle` stand
with the core and the package. -/
structure SysRegs where
  status : Word
  cause : Word
  epc : Word
  edata : Word
  tvec : Word
  pfx : Word
  vcfg : Word
  vstart : Word
  lease : Word
  seed : Word
  stripbase : Word
  blend : Word
  view : Word
  inldepth : Word
deriving DecidableEq, Repr

/-- What `pre` lends to its successor (R70); `bits` are the low 15 bits of sys.pfx (R23). -/
abbrev Lent := BitVec 15

/-- The loop context (R102, R103) with the captured words (R234). `running` is false while a handler runs. -/
structure LoopContext where
  pc : Word
  len : Nat
  count : SReg
  body : List (BitVec 32)
  running : Bool
deriving DecidableEq, Repr

/-- An entry of a tagged queue (R176, R241): a vector entry in slot or sector layout, or a scalar entry of a kind. -/
inductive QEntry where
  | slots (tag : Tag) (width : Nat) (elems : List Word) (marks : List Nat)
  | sector (sec : Sector) (grid : BitVec 2) (taken : Nat)
  | scalar (branch : Bool) (v : Word) (bad : Bool)
deriving DecidableEq, Repr

/-- Where a pending result lands (R235), with its value. A strip range carries none: the engine has written the bytes, and the entry
guards them until its commit (R268, R285); `h` is the handle that named them, 0 for a copy. -/
inductive Dest where
  | s (r : SReg) (v : Word)
  | p (r : PReg) (v : PosBits)
  | v (r : VIdx) (v : VReg)
  | tile (r : AReg) (v : Tile)
  | tileState (v : TileState)
  | weight (r : WSlot) (v : WeightSlot)
  | codebook (r : CBook) (v : Codebook)
  | range (h off len : Nat)
  | queue (q : Nat) (v : QEntry)
  | pos (h : HReg) (v : BitVec 32)
deriving DecidableEq, Repr

/-- One entry of the commit buffer (R235): the schedule clock at which it lands, its destinations with their values, and the
sticky flags [4:0] that become visible with it (R55), whether a vector, matrix or transform instruction gives it (R120, R313), and whether a
queue instruction does (R177). `issued` is the schedule clock of its instruction: the commits of one instruction are one entry. -/
structure Commit where
  due : Nat
  dests : List Dest
  flags : BitVec 5
  vec : Bool
  queue : Bool := false
  issued : Option Nat := none
deriving DecidableEq, Repr

/-- The classes of R126, R182 and R260 that an exposed region schedules. -/
inductive Cls where
  | add | mul | xf | cv | red | ld | st | strip | perm | q | mma | wb | xfm
deriving DecidableEq, Repr

/-- The schedule of a region (R24, R25): its clock, the commits pending in it and the times of R126 and R260. Keys of `tileReady` are
tiles, of `slotReady` weight slots, of `cbReady` and `cbInUse` codebook slots. -/
structure Sched where
  clock : Nat
  commits : List Commit
  free : List (Cls × Nat)
  tileReady : List (Nat × Nat)
  slotReady : List (Nat × Nat)
  cbReady : List (Nat × Nat)
  cbInUse : List (Nat × Nat)
deriving DecidableEq, Repr

/-- A schedule with nothing pending. -/
def Sched.reset : Sched :=
  { clock := 0, commits := [], free := [], tileReady := [], slotReady := [], cbReady := [], cbInUse := [] }

/-- A record of the die fault queue (R359), 64 bytes as one little-endian string. -/
abbrev FaultRecord := BitVec 512

/-- A valid entry of a translation table as a walk read it (R347, R353): the address space, its level, the bits of the virtual address
above what its level maps, and its two words. -/
structure Translation where
  asid : BitVec 12
  level : Nat
  part : Nat
  w0 : Word
  w1 : Word
deriving DecidableEq, Repr

/-- The element grids of a page (R45): 8, 16, 32 or RAW. -/
inductive Grid where
  | g8 | g16 | g32 | raw
deriving DecidableEq, Repr

/-- A translated access: the physical address, the size of its page and the attributes of the page (R346, R348), and the entries that gave
it (R353). -/
structure Page where
  pa : Nat
  size : Nat
  grid : Grid
  dfmt : BitVec 6
  dpol : BitVec 2
  pack : Bool
  grind : Bool
  res : BitVec 2
  rgv : Bool
  rgn : Nat
  wsh : Bool
  hen : Bool
  walked : List Translation := []
deriving DecidableEq, Repr

/-- A synchronous trap as TakeTrap needs it (R29), with what its fault record holds (R359): SUB and the physical address. `walked` are the
entries that a walk read which a permission then stopped (R353), `filled` the sectors that the access had requested (R327), through the
page-sorting unit where it is `sorted`, `reason` the code that the record gives where the cause does not (R354). -/
structure TrapInfo where
  code : BitVec 8
  data : Word
  vec : Bool
  sub : BitVec 8
  pa : Word
  walked : List Translation := []
  filled : List (Page × Word) := []
  sorted : Bool := false
  reason : Option (BitVec 8) := none
deriving DecidableEq, Repr

/-- What a stalled strand waits for.
DESIGN CHOICE (safe, log 39). -/
inductive Wait where
  | event
  | sleep (until_ : Word)
  | vwait (deadline : Word)
  | queue (q len : Nat)
  | engine
  | grant
  | drain
  | barrier (b gen : Nat)
  | choose
  | bounded (region : Nat) (required : Word)
  | message (slice : Nat)
  | copyEntry
  | copy (core id : Nat)
  | busy (sector : Nat)
  | held (trap : TrapInfo)
  | acknowledge (id : Nat)
  | response (dev addr key : Nat)
  | touchstone (since : Nat) (pas : List Nat)
  | tlbinv (kind asid : Nat) (va : Word)
  | roundMirrors (region : Nat)
  | prefetch
  | requeue
  | tagging (until_ : Nat)
  | restore
  | commits
  | older
  | pushes
  | copies
  | finish
  | resumed
  | late
  | filling (until_ : Nat)
deriving DecidableEq, Repr

/-- What a waiting instruction has done so far, lost when an event interrupts it: Touchstone tickets taken (R157, R375), the
fold of a vector pop (R179), the unmet counters of a `vwait` (R162), the new count of a `round.adv` (R164), the end of the wait of a
strip boundary (R121).
DESIGN CHOICE (safe, log 39). -/
inductive Progress where
  | tickets (n : Nat)
  | fold (seen : List Fmt) (f : Fmt) (scale : Option Int)
  | unmet (left : PosBits)
  | round (n : Word)
  | granted
deriving DecidableEq, Repr

/-- Where a strand is in its life (R14, R29, R280). -/
inductive Phase where
  | free | running | halted
deriving DecidableEq, Repr

/-- The states of a view (R205). -/
inductive ViewState where
  | fresh | running | spilled | settled | chosen | discarded | faulted
deriving DecidableEq, Repr

/-- One rival in a fork record (R204). -/
structure Rival where
  id : Nat
  state : ViewState
  verdict : BitVec 48
deriving DecidableEq, Repr

/-- A fork record (R204). `seq` numbers the fork; while it is open the device keeps the record under that number, and the strand's
own copy is the one that `vid` reads once it is closed. -/
structure Fork where
  seq : Nat
  rivals : List Rival
deriving DecidableEq, Repr

/-- The sources of a pre-emption notice (R277). -/
inductive NoticeSource where
  | arbiter | distributor | supervisor | management
deriving DecidableEq, Repr

/-- A notice (R278, R279, R290): the deadline D that the last posting fixed, the earliest deadline that is outstanding, and the source:
the distributor where it has posted one that is outstanding, otherwise that of the first.
DEDUCED (unsafe, log 14). -/
structure Notice where
  deadline : Word
  source : NoticeSource
  due : Word
deriving DecidableEq, Repr

/-- A copy event held for a strand (R266): the cause code, the edata and the clock of arrival order. -/
structure CopyEvent where
  code : BitVec 8
  data : Word
deriving DecidableEq, Repr

/-- The vector state a grant of 0 saves (R231), and whether the save area holds it. It comes back with the next grant, predicates
included; until then scalar instructions go on reading and writing the strand's own (R91, log 52). -/
structure SavedVectors where
  v : Vector VReg 64
  p : Vector PosBits 16
  tiles : Vector Tile 8
  vlmax : Nat
  stored : Bool
deriving DecidableEq, Repr

/-- What the device keeps of a placed task beside its registers (R302, R310, R378, R387, R388): the frame, the launch queue that
placed it, its block, its save area (0: none yet) or the slot reserved for it, the view of a rival, when it was placed, and the bank that it
holds with its image. -/
structure TaskInfo where
  frame : Word
  queue : Word
  block : Nat
  save : Word
  slot : Option Word
  rival : Option Nat
  placedAt : Nat
  bank : Option (Nat × Nat) := none
deriving DecidableEq, Repr

/-- A strand (R14, R19). `predRecord` (PL and byte offset), `tdir` and `cbh` are what the last save wrote of predicates, tiles and codebooks
into its header (R284); `pWritten`, `tileWritten` and `cbWritten` say what has been written since (R282). `ticked`: its schedule clock has
advanced in this clock (R7). -/
structure Strand where
  phase : Phase
  pc : Word
  s : Vector Word 64
  v : Vector VReg 64
  p : Vector PosBits 16
  tiles : Vector Tile 8
  q : Vector (Option (BitVec 6)) 8
  h : Vector Handle 16
  sys : SysRegs
  asid : BitVec 12
  eventFlag : Bool
  monitors : List Nat
  watchHit : Bool
  lent : Option Lent
  loop : Option LoopContext
  sched : Sched
  heldRegion : List Sched
  tileState : TileState
  weights : Vector (Option WeightSlot) 4
  codebooks : Vector (Option Codebook) 8
  pWritten : BitVec 16
  tileWritten : BitVec 8
  cbWritten : BitVec 8
  predRecord : Nat × Nat
  tdir : BitVec 64
  cbh : BitVec 512
  wait : Option Wait
  fork : Option Fork
  notice : Option Notice
  copyEvents : List CopyEvent
  resumedReshaped : Option Word
  progress : Option Progress
  age : Nat
  leaseZero : Option SavedVectors
  strip : List Nat
  lastBoundary : Nat
  aboveTargetSince : Option Nat
  switchAsked : Bool
  task : Option TaskInfo
  ticked : Bool
deriving DecidableEq, Repr

/-- DESIGN CHOICE (unsafe, log 6). -/
def SysRegs.reset : SysRegs :=
  { status := 0x4000, cause := 0, epc := 0, edata := 0, tvec := 0, pfx := 0, vcfg := 0, vstart := 0, lease := 0, seed := 0
    stripbase := 0, blend := 0x100, view := 0, inldepth := 8 }

def Tile.reset : Tile := { i48 := false, elems := [] }
def TileState.reset : TileState := { valid := false, m := 0, n := 0, k := 0, grantAt := 0, vlmaxAt := 0 }
def Handle.reset : Handle := { valid := false, base := 0, len := 0, grid := 0, wrap := false, pos := 0 }

/-- The codebook words of a header whose slots are all empty (R284: bit 26 of each). -/
def emptyCodebooks : BitVec 512 :=
  0x40000000000000004000000000000000400000000000000040000000000000004000000000000000400000000000000040000000000000004000000

/-- A strand that no task occupies, with the register values of R20 and the reset values of R21 to R23.
DESIGN CHOICE (unsafe, log 6). -/
def Strand.reset : Strand :=
  { phase := .free, pc := 0
    s := Vector.replicate 64 0, v := Vector.replicate 64 VReg.reset, p := Vector.replicate 16 0
    tiles := Vector.replicate 8 Tile.reset, q := Vector.replicate 8 none, h := Vector.replicate 16 Handle.reset
    sys := SysRegs.reset, asid := 0, eventFlag := false, monitors := [], watchHit := false, lent := none, loop := none
    sched := Sched.reset, heldRegion := [], tileState := TileState.reset
    weights := Vector.replicate 4 none, codebooks := Vector.replicate 8 none
    pWritten := 0, tileWritten := 0, cbWritten := 0, predRecord := (0, 0), tdir := 0, cbh := emptyCodebooks
    wait := none, fork := none, notice := none, copyEvents := [], resumedReshaped := none, progress := none, age := 0
    leaseZero := none, strip := [], lastBoundary := 0, aboveTargetSince := none, switchAsked := false, task := none
    ticked := false }

/-- An event of a barista's queue (R327, R329). -/
structure HandlerEvent where
  kind : BitVec 2
  sect : BitVec 4
  dirty : BitVec 4
  hop : BitVec 4
  write : Bool
  view : Nat
  asid : BitVec 12
  addr : Word
  payload : Word
  source : Word
deriving DecidableEq, Repr

/-- A queued prefetch (R332). -/
structure Prefetch where
  page : Page
  mask : BitVec 4
  view : Nat
  asid : BitVec 12
  vline : Word
  hop : Option (BitVec 4)
deriving DecidableEq, Repr

/-- A running invocation (R329, R336). `lost`: its view has ended, and it aborts at its next instruction (R339). -/
structure Invocation where
  event : HandlerEvent
  start : Word
  limit : Nat
  lost : Bool
deriving DecidableEq, Repr

/-- The counter block of a slice (R342). -/
structure SliceCounters where
  dropq : BitVec 32
  dropb : BitVec 32
  aborts : BitVec 32
  tlim : BitVec 32
  last : BitVec 8
  pfdrop : BitVec 32
deriving DecidableEq, Repr

/-- A sector of a barista's code cache (R324), keyed by address space and virtual sector. -/
structure CodeSector where
  asid : BitVec 12
  vsec : Nat
  page : Page
  sector : Sector
deriving DecidableEq, Repr

/-- A barista (R324). `code` is its code cache; `counts` names the address spaces whose abort counters it has still to add 1 to, since the
sector is BUSY (R336). -/
structure Barista where
  s : Vector Word 64
  p : BitVec 16
  pc : Word
  lent : Option Lent
  invocation : Option Invocation
  queue : List HandlerEvent
  inFlight : List HandlerEvent
  prefetches : List Prefetch
  counters : SliceCounters
  wait : Option Wait
  progress : Option Progress
  code : List CodeSector
  counts : List (BitVec 12)
deriving DecidableEq, Repr

def SliceCounters.reset : SliceCounters := { dropq := 0, dropb := 0, aborts := 0, tlim := 0, last := 0, pfdrop := 0 }

def Barista.reset : Barista :=
  { s := Vector.replicate 64 0, p := 0, pc := 0, lent := none, invocation := none, queue := [], inFlight := []
    prefetches := [], counters := SliceCounters.reset, wait := none, progress := none, code := [], counts := [] }

/-- A tagged queue that is bound (R177, R241): its address space, how many bindings name it, saved ones included, and its
entries, oldest first; the last `fresh` of them were pushed in clock `at_` (R176). -/
structure Queue where
  owner : BitVec 12
  bindings : Nat
  entries : List QEntry
  at_ : Word
  fresh : Nat
deriving DecidableEq, Repr

/-- One endpoint of a sector move (R261): an address of memory with its translation at issue (R263), or an offset of an
allocation. -/
inductive CopyEnd where
  | mem (va : Word) (page : Page)
  | strip (off : Nat)
deriving DecidableEq, Repr

/-- One sector move of a copy request. `kept` is a source sector of strip memory as it stood before a younger write that R268 lets
proceed. -/
structure CopyMove where
  src : CopyEnd
  dst : CopyEnd
  kept : Option Sector
deriving DecidableEq, Repr

/-- A range of a copy request (R268): the bounding bytes [lo, hi) of its source or of its destination. -/
structure CopyRange where
  strip : Bool
  lo : Nat
  hi : Nat
deriving DecidableEq, Repr

/-- A copy request (R261 to R268). `gid` is the strand of its task, none while the task is on no strand; `origin` the strand that issued
it; `save` and `frame` name the task. `commitAt` is the schedule clock of its strip writes in the exposed region, `region` regions deep,
that issued it (R267); `inHandler` says that it was issued at TIP = 1 since the last trap entry (R26). `asking` is the peer's sector that
the engine has asked for, with the target, and `answer` what came back (R393); `orphan` the block of a task that has been removed, whose
copies run to their end (R382). -/
structure CopyReq where
  id : Nat
  gid : Option Nat
  origin : Nat
  save : Word
  frame : Word
  asid : BitVec 12
  user : Bool
  view : Nat
  granules : List Nat
  moves : List CopyMove
  moved : Nat
  rowSectors : Nat
  memEnd : Bool
  src : CopyRange
  dst : CopyRange
  issued : Nat
  promise : Word
  missed : Bool
  commitAt : Option Nat
  region : Nat
  inHandler : Bool
  asking : Option (Nat × Nat) := none
  answer : Option CemenMsg := none
  orphan : Option Nat := none
deriving DecidableEq, Repr

/-- A task that has left its strand with its image (R282 to R285, R289): its save area, the copy in the staging reserve until it has
drained, and the strip granules that stay on the core. `parked`: its STATE is parked, otherwise queued; `migrate`: the strip image is to
be written too. -/
structure StagedImage where
  asid : BitVec 12
  save : Word
  task : TaskInfo
  staged : Option Strand
  granules : List Nat
  parked : Bool
  migrate : Bool
deriving DecidableEq, Repr

/-- A vertical bus (R294). `due`: its last corrected error passed the threshold as it stood then (R408). -/
structure Bus where
  corrected : Nat
  failing : Nat
  reported : Bool
  due : Bool
deriving DecidableEq, Repr

/-- A core (R222). Keyed lists: `laneErrors` by lane, `banks` by bank 1 to 3 and byte, `queues` by number, `strip` by sector of the 8 MiB,
`buses` by number. `freed` says that a lane cluster has become free in this clock (R230); `assayDemand` that an access waits for the bus
that the Assayer has quiesced, and `assayHeld` that the Assayer is suspended for one (R295). -/
structure CoreSt where
  lanemap : Word
  retiring : Word
  laneErrors : List (Nat × Nat)
  wordErrors : List Nat
  blend : List (Nat × Byte)
  bankHolders : List (Nat × Nat)
  queues : List (Nat × Queue)
  strip : List (Nat × Sector)
  granulesUsed : List Nat
  pendingFree : List (Nat × Nat)
  freed : Bool
  copyTail : Nat
  copies : List CopyReq
  copySeq : Nat
  images : List StagedImage
  buses : List (Nat × Bus)
  assayer : Option (Nat × Nat)
  assayNow : Bool
  assayDemand : Bool
  assayHeld : Bool
  closed : Bool
deriving DecidableEq, Repr

/-- A core after reset: every lane live (log 5), every store empty.
DESIGN CHOICE (unsafe, log 5), DESIGN CHOICE (unsafe, log 7). -/
def CoreSt.reset : CoreSt :=
  { lanemap := 0xFFFFFFFFFFFFFFFF, retiring := 0, laneErrors := [], wordErrors := [], blend := [], bankHolders := []
    queues := [], strip := [], granulesUsed := [], pendingFree := [], freed := false, copyTail := 0, copies := []
    copySeq := 0, images := [], buses := [], assayer := none, assayNow := false, assayDemand := false
    assayHeld := false, closed := false }

/-- A cluster barrier (R314). -/
structure Barrier where
  target : Nat
  arrived : Nat
  gen : BitVec 16
  owner : Option (BitVec 12)
deriving DecidableEq, Repr

def Barrier.reset : Barrier := { target := 0, arrived := 0, gen := 0, owner := none }

/-- A slot of an L2 slice (R319). `gen` is the generation of its view's id; `region` the round region that its page names; `data` is what a
STALE copy still holds, and `writers` names the tasks, by address space and frame, that have written the sector since (R166); `arrives` is
the clock at which its fill brings the data (R330). -/
structure Slot where
  dirty : Bool
  stale : Bool
  gen : BitVec 4
  stamp : Word
  asid : BitVec 12
  vline : Word
  hen : Bool
  region : Option Nat
  data : Option Sector
  writers : List (BitVec 12 × Word)
  arrives : Nat
deriving DecidableEq, Repr

/-- An entry of the handler directory (R326). -/
structure DirEntry where
  miss : Word
  fill : Word
  evict : Word
  msg : Word
  limit : Nat
  harg : Word
  acnt : Word
  block : Nat
deriving DecidableEq, Repr

/-- A posting held for the die's fault queue (R360): the record, and what stalls on it: a strand by its number, barista b as 12,288 + b,
the distributor of die d as 13,000 + d, the save engine of core c as 14,000 + c. -/
structure Posting where
  record : FaultRecord
  source : Option Nat
deriving DecidableEq, Repr

/-- A frame in a die's hold list (R388): the frame, its queue and its block. -/
structure HeldFrame where
  frame : Word
  queue : Word
  block : Nat
  since : Nat
deriving DecidableEq, Repr

/-- A launch queue as a die's distributor tracks it (R384, R386, R388): the deficit, the TAIL and HEAD it has seen, when the frame at
the head appeared, and whether that frame is aged. -/
structure QueueTrack where
  deficit : Int
  tail : Word
  head : Word
  headSince : Option Nat
  aged : Bool
deriving DecidableEq, Repr

/-- A die (R318, R326, R346, R358, R386). Keyed lists: `roots` and `directory` by ASID, `slots` by sector and view (R319: `slotKey`),
`shadows` by region, `tracks` by the physical address of a launch queue, `lastByPriority` by priority. `multicasts` are the counts on
their way to its shadows, in order (R164). `nextCore` is the core of the last placement, `placeFrom` the clock from which the next
may be made, `reserved` the queues of reserved frames, each with the clock it was reserved at until its notices are sent (R386 to R388).
`records` are the records of the fault ring that wait at their home for a BUSY sector, by address (R371). -/
structure DieSt where
  roots : List (Nat × Nat)
  directory : List (Nat × DirEntry)
  slots : List (Nat × Slot)
  shadows : List (Nat × Word)
  multicasts : List (Nat × Word)
  fqbase : Word
  fqhead : BitVec 13
  fqtail : BitVec 13
  ovf : Bool
  ovfcnt : BitVec 32
  heldPostings : List Posting
  recordSeq : BitVec 19
  tracks : List (Nat × QueueTrack)
  lastByPriority : List (Nat × Nat)
  holdList : List HeldFrame
  nextCore : Option Nat
  placeFrom : Nat
  reserved : List (Nat × Option Nat)
  records : List (Nat × FaultRecord)
deriving DecidableEq, Repr

def DieSt.reset : DieSt :=
  { roots := [], directory := [], slots := [], shadows := [], multicasts := [], fqbase := 0, fqhead := 0, fqtail := 0, ovf := false
    ovfcnt := 0, heldPostings := [], recordSeq := 0, tracks := [], lastByPriority := [], holdList := [], nextCore := none
    placeFrom := 0, reserved := [], records := [] }

/-- The scalar side of an element access (R97). -/
inductive Side where
  | f32 | i64 | raw
deriving DecidableEq, Repr

/-- What fixes the rounding of an element (R22, R52, R53): sys.status.RM, sys.seed and sys.stripbase. -/
structure RoundState where
  mode : BitVec 3
  seed : Word
  base : Word
deriving DecidableEq, Repr

/-- The operations of R160. -/
inductive AmoOp where
  | add | and | or | xor | min | max | minu | maxu | swap | cas
deriving DecidableEq, Repr

/-- The operations of R161. -/
inductive VamoOp where
  | add | min | max | swap | cas
deriving DecidableEq, Repr

/-- What a write does to one sector, as data, so that an outbox can keep it (R216): nothing at all; bytes under the tag rules of R96; the
whole sector; an element with conversion (R99); the 8 bytes of an atomic (R160); an element of a vector atomic or of a scatter-add, whose
operand comes from position i of a register with tag `t` (R156, R161); elements of a register (R152), `l` giving pairs of an element and the
position it comes from; a store that stands before the write of the bytes of a mask (R187). -/
inductive StoreOp where
  | probe
  | bytes (off n v : Nat)
  | whole (x : Sector)
  | element (grid : Grid) (dfmt : BitVec 6) (j : Nat) (v : Word) (side : Side) (rs : RoundState)
  | amo (op : AmoOp) (off : Nat) (b c : Word)
  | atomic (op : VamoOp) (slot j : Nat) (t : Tag) (b c : Word) (rs : RoundState) (i : Nat)
  | scatter (slot j : Nat) (sum : Val) (fl : Sticky) (rs : RoundState) (i : Nat)
  | vector (r : VReg) (grid : Grid) (f : Fmt) (sc : Byte) (wmax : Nat) (rs : RoundState) (l : List (Nat × Nat))
  | under (mask : BitVec 128) (op : StoreOp)
deriving DecidableEq, Repr

/-- An operation deferred to a view's outbox (R216). A store keeps what it does to its sector, with the bytes and the elements that a
message to a peer names.
DEDUCED (unsafe, log 49). -/
inductive Deferred where
  | hostMessage (slot : Nat) (pa : Nat) (va : Word) (data : BitVec 1024) (mask : BitVec 128) (tag : Tag)
  | message (bar : Nat) (m : HandlerEvent)
  | hostStore (pa : Nat) (va : Word) (mask : BitVec 128) (elems : Option (BitVec 128)) (op : StoreOp)
deriving DecidableEq, Repr

/-- A live view of the pool (R203 to R216): its place in fork `fork` on core `core`, the strand its rival runs on, the rival's image
while it is fresh or spilled, its copies with the round stamp each was made under, the copies that stand in its spill pages (R214), and the
granules of a strip copy. -/
structure View where
  parent : Nat
  depth : Nat
  state : ViewState
  generation : BitVec 4
  fork : Nat
  index : Nat
  core : Nat
  gid : Option Nat
  block : Nat
  copies : List (Nat × (Sector × Word))
  spilled : List Nat
  outbox : List Deferred
  image : Option Strand
  strip : Option (List Nat)
deriving DecidableEq, Repr

/-- A judge that waits in `choose` and whose strand a rival of its fork took (R208). -/
structure Parked where
  fork : Nat
  core : Nat
  strand : Strand
deriving DecidableEq, Repr

/-- A host write of RGCTL or of RGCNT (R372). -/
inductive RegionWrite where
  | control (w : Word)
  | count (w : Word)
deriving DecidableEq, Repr

/-- A round region's home (R163, R372, R373): RGCTL, the home count, the mirrors of the four home stacks, an RGCNT write that
has not landed, and host writes that wait, in order, for what is in flight; VALID as it stood before the clock `at_` of the last RGCTL
write. -/
structure Region where
  valid : Bool
  was : Bool
  at_ : Word
  owner : BitVec 12
  count : Word
  mirrors : Vector Word 4
  landing : Option Word
  pending : List RegionWrite
deriving DecidableEq, Repr

/-- A sector slot of an LLC line (R319, R363), with the round region that its page names; its view and its tag stand with the line's key and
with the copy itself. -/
structure LlcSlot where
  dirty : Bool
  gen : BitVec 4
  stamp : Word
  region : Option Nat
deriving DecidableEq, Repr

/-- A line that an LLC slice holds (R363 to R365): its way, the partition that filled it, its residency class now (1 preferred, 2 pinned, 3
streaming), the attributes of its page, its place in the order of use of its set, its sector slots by their number in the line, and the
dies whose presence bit is set. -/
structure LlcLine where
  way : Nat
  part : Nat
  res : BitVec 2
  page : PageAttr
  used : Int
  slots : List (Nat × LlcSlot)
  present : List Nat
deriving DecidableEq, Repr

/-- A write of a strand that its other memory agent, or a walk, need not see yet (R186, R352): the strand and the agent that wrote, the
view and the sector, what it held before, the bytes written, who may still find the old contents, and whether a release of the strand came
after it (R198). -/
structure Unordered where
  gid : Nat
  vec : Bool
  view : Nat
  sec : Nat
  old : Sector
  mask : BitVec 128
  agent : Bool
  walk : Bool
  released : Bool
deriving DecidableEq, Repr

/-- How far the recovery of a domain has come (R382); `removing` is a block that goes with its subtree (R378). -/
inductive Recovery where
  | idle | requested | draining | removing
deriving DecidableEq, Repr

/-- A region control block as installed (R378, R379): the order of install, the device's copy of its 512 bytes, the physical addresses of
LQ0 to LQ3 and of BLIMG that it keeps, and what is in use of its budgets that tasks do not show: views, spill pages, barista
clocks of the window. `tookAsid` is the order of the install that took its address-space identifier (R380). -/
structure Block where
  order : Nat
  tookAsid : Nat
  image : BitVec 4096
  lqPa : List (Option Nat)
  blimgPa : Option Nat
  viewsUsed : Nat
  spillUsed : Nat
  btimeUsed : Nat
  recovery : Recovery
deriving DecidableEq, Repr

/-- A collective submitted on this device (R399, R400): its descriptor's fields, the address space and the die, the source sectors as
the units read them at submission with their grid, and the destination sectors with their pages; `slot` is the element width that
a RAW grid takes, `off` and `dstOff` the first byte in the first sector. `status` is set once its outcome
is known (R401). -/
structure Collective where
  die : Nat
  asid : BitVec 12
  gid : Word
  gen : BitVec 32
  op : Nat
  p : Nat
  rank : Nat
  root : Nat
  ofmt : BitVec 6
  cpl : Word
  count : Nat
  issue : Nat
  tmo : Nat
  slot : Nat
  grid : Grid
  off : Nat
  own : List Sector
  dstGrid : Grid
  dstOff : Nat
  dst : List (Word × Page)
  status : Option (BitVec 4)
  flags : BitVec 5
deriving DecidableEq, Repr

/-- A record of the journal (R404) without its cycle and its sequence number. -/
structure JrnRecord where
  kind : Nat
  src : Nat
  fields : BitVec 384
  blocks : List (BitVec 1024)
deriving DecidableEq, Repr

/-- A transfer that the package has not let in yet: host accesses to memory and to the register block, Cemen transfers (R394, R395, R403,
R405). -/
inductive Ingress where
  | hostWrite (pa : Nat) (data : BitVec 512) (enables : BitVec 64)
  | hostRead (pa : Nat)
  | register (offset : Nat) (value : Word)
  | cemen (m : CemenMsg)
deriving DecidableEq, Repr

/-- A transfer the device sent over the fabric (R393, R395): a Cemen message or a host message. -/
inductive Sent where
  | cemen (m : CemenMsg)
  | hostMessage (toHost : Bool) (m : CemenMsg)
  | hostWrite (pa : Nat) (data : BitVec 1024) (mask : BitVec 128)
deriving DecidableEq, Repr

/-- What may know of a write (R196): a memory agent (R185) of a strand, or of barista b as 12,288 + b; the same agent of a task that is
on no strand; whoever reads a sector (keyed as slots are), or the count of a round region (R374), or takes a message from a slice's queue
(R343). -/
inductive Knower where
  | agent (key : Nat) (vec : Bool)
  | task (asid : BitVec 12) (frame : Word) (view : Nat) (vec : Bool)
  | sector (key : Nat)
  | region (rg : Nat)
  | slice (b : Nat)
  | queue (core q : Nat)
  | barrier (cluster b : Nat)
deriving DecidableEq, Repr

/-- A fabric write awaiting its acknowledgement (R397, R398), its virtual address and address space, and what it is ordered before when
that releases or fences (R196). -/
structure Unacked where
  addr : Word
  asid : BitVec 12
  since : Nat
  known : List Knower
deriving DecidableEq, Repr

/-- The package and management registers (R391, R392, R404 to R410, R423). Keyed lists: `fwmap` and `fwmapForce` by slot
(the entry in use and the entry written), `llcpart` by partition, `grctl` by stack, `jrnRange` by range, `ports` by port
(trained rate up, version), `bound` by device: the ports by which the fabric reaches it, `retired` by core. `jrnwait` are the records that
wait for room, each with the clock of its effect (R404). -/
structure Mgmt where
  mgmtst : BitVec 4
  fwmap : List (Nat × (Word × Word))
  fwmapForce : List (Nat × (Word × Word))
  llcpart : List (Nat × Word)
  grctl : List (Nat × Word)
  skewmap : BitVec 128
  hpatbase : Word
  jrnctl : Word
  jrnbase : Word
  jrnsize : Word
  jrntail : Word
  jrnhead : Word
  jrnrange : List (Nat × Word)
  jrnseq : BitVec 32
  jrnwait : List (Word × JrnRecord)
  recording : Bool
  replaying : Bool
  fwaddr : Word
  fwlen : Word
  fwresult : BitVec 2
  fwbusy : Bool
  fwstored : List (Nat × Byte)
  fwstoredLen : Nat
  runver : BitVec 16
  storever : BitVec 16
  lrthr : Word
  asthr : Word
  retired : List (Nat × Word)
  rcbcmd : Word
  rcbres : Word
  fab : Bool
  bound : List (Nat × BitVec 12)
  ports : List (Nat × (Bool × BitVec 16))
  reports : List (Nat × Nat)
deriving DecidableEq, Repr

/-- The management state at module reset (R404, R407 to R409).
DESIGN CHOICE (unsafe, log 5). -/
def Mgmt.reset : Mgmt :=
  { mgmtst := 0, fwmap := [], fwmapForce := [], llcpart := [], grctl := [], skewmap := 0, hpatbase := 0, jrnctl := 0
    jrnbase := 0, jrnsize := 16, jrntail := 0, jrnhead := 0, jrnrange := [], jrnseq := 0, jrnwait := [], recording := false
    replaying := false, fwaddr := 0, fwlen := 0, fwresult := 0, fwbusy := false, fwstored := [], fwstoredLen := 0
    runver := Config.firmwareVersion, storever := Config.firmwareVersion, lrthr := 256, asthr := 16, retired := []
    rcbcmd := 0, rcbres := 0, fab := false, bound := [], ports := [], reports := [] }

/-- Memory in canonical form: bytes that are not 0 in rising order of addresses, and tags that are not 0x5FC0 in rising
order of sectors (R299, R366 give both values for memory nothing has written). -/
structure Memory where
  cells : List Host.Cell
  tags : List (Nat × Tag)
deriving DecidableEq, Repr

def Memory.empty : Memory := { cells := [], tags := [] }

/-- The device. `strand` is the strand `strandId` (core * 32 + strand); `others` the other strands that are not free; `turn` names the
barista that issues next, or none for the strand. `freeTick` counts the free values taken (log 9); `inputs` are device events still to
come in, in order. `forks` holds the records of open forks; `reclaims` the view ids and generations whose slots are still to be reclaimed
(R320), `saveSlots` the save-pool slots that tasks hold, by address space (R387), `generations` the last generation each id was given.
`busy` holds the sectors that a Grinder recodes with their pages, `frames` the used bytes of the sectors of each line that is stored
packed (R368), `llc` the lines of the LLC slices, `ingress` the transfers held at the ports (R403), `mailbox` the host messages of peers,
`fragments` the fragments of collectives that came in (R395). `pages` are the attributes of the pages of the lines that the LLC has filled
(R348, R370), `unordered` the writes of strands that no fence has ordered yet (R186), `translations` what the translation caches may hold
(R353). -/
structure State where
  turn : Option Nat
  strandId : Nat
  strand : Strand
  others : List (Nat × Strand)
  parked : List Parked
  baristas : List (Nat × Barista)
  cores : List (Nat × CoreSt)
  clusters : List (Nat × List (Nat × Barrier))
  dies : List (Nat × DieSt)
  mem : Memory
  hostMem : List Host.Cell
  hostTags : List (Nat × Tag)
  busy : List (Nat × PageAttr)
  frames : List (Nat × List Nat)
  llc : List (Nat × LlcLine)
  pages : List (Nat × PageAttr)
  unordered : List Unordered
  translations : List Translation
  views : List (Nat × View)
  forks : List (Nat × List Rival)
  forkSeq : Nat
  reclaims : List (Nat × BitVec 4)
  generations : List (Nat × BitVec 4)
  regions : List (Nat × Region)
  touchstone : Word
  blocks : List (Nat × Block)
  blockSeq : Nat
  mgmt : Mgmt
  cycle : Word
  freeTick : Nat
  collectives : List Collective
  fragments : List CemenMsg
  mailbox : List CemenMsg
  ingress : List Ingress
  sent : List Sent
  hostReads : List (Nat × (BitVec 512 × Bool))
  unacked : List (Nat × Unacked)
  saveSlots : List (Nat × Word)
  replies : List (Nat × List (Nat × CemenMsg))
  sentSeq : Nat
  inputs : List Instr
deriving DecidableEq, Repr

/-- The machine after module reset: management state 0, no strand occupied, memory as R299 and R366 give it.
DESIGN CHOICE (unsafe, log 10). -/
def State.reset : State :=
  { turn := none, strandId := 0, strand := Strand.reset, others := [], parked := [], baristas := [], cores := []
    clusters := [], dies := [], mem := Memory.empty, hostMem := [], hostTags := [], busy := [], frames := [], llc := []
    pages := [], unordered := [], translations := [], views := []
    forks := [], forkSeq := 0, reclaims := [], generations := [], regions := [], touchstone := 0, blocks := [], blockSeq := 0, mgmt := Mgmt.reset, cycle := 0, freeTick := 0
    collectives := [], fragments := [], mailbox := [], ingress := [], sent := [], hostReads := [], unacked := [], saveSlots := [], replies := [], sentSeq := 0, inputs := [] }

/-- Why the machine stops with a fault: there is no such reason. The device never stops as a whole: a trap is a next state,
a strand that cannot go on waits or halts, and time goes on. -/
inductive Fault where
deriving DecidableEq, Repr

/-- Why the machine refuses an instruction. -/
inductive Refusal where
  /-- Raised by an arm of `exec` whose instruction has no meaning yet. Safe: nothing is proved of it. -/
  | notModelled (mnemonic : String)
deriving DecidableEq, Repr

end Sys2Proof.Machine
end

