-- ==== Sys2Proof/Machine/Formats.lean ====
section
/-! DEFINITION. Tags, the blend table, and elements in registers and sectors (R31 to R36, R42 to R47, R51, R56 to R62). -/

namespace Sys2Proof.Machine

/-- FMT, SCALE and VCLS of a tag (R31). -/
def tagFmt (t : Tag) : BitVec 6 := t.extractLsb' 0 6
def tagScale (t : Tag) : Byte := t.extractLsb' 6 8
def tagVcls (t : Tag) : BitVec 2 := t.extractLsb' 14 2
def mkTag (vcls : BitVec 2) (scale : Byte) (fmt : BitVec 6) : Tag := vcls ++ (scale ++ fmt)

/-- The validity classes (R34). -/
def clsValid : BitVec 2 := 0
def clsUndef : BitVec 2 := 1
def clsPoison : BitVec 2 := 2
def clsBusy : BitVec 2 := 3

/-- The tag of a VALID RAW sector, and the tag of memory never written (R33, R366). -/
def tagRaw : Tag := 0x1FC0
/-- DEDUCED (safe, log 64). -/
def tagUndef : Tag := 0x5FC0

/-- The format of a tag; a reserved code reads as RAW (no such tag is well-formed, R33). -/
def tagFormat (t : Tag) : Fmt := (Fmt.ofCode (tagFmt t)).getD .raw

def Grid.ofBits (b : BitVec 2) : Grid :=
  match b.toNat with
  | 0 => .g8
  | 1 => .g16
  | 2 => .g32
  | _ => .raw

/-- The code of a grid (R348). -/
def Grid.code : Grid → BitVec 2
  | .g8 => 0
  | .g16 => 1
  | .g32 => 2
  | .raw => 3

/-- The grid width in bits; `slot` for the RAW grid, whose elements have slot width (R45). -/
def Grid.width (slot : Nat) : Grid → Nat
  | .g8 => 8
  | .g16 => 16
  | .g32 => 32
  | .raw => slot

/-- Whether a format fits a grid (R32, the column Fits grids). -/
def Fmt.fits (f : Fmt) (g : Grid) : Bool :=
  match g with
  | .raw => decide (f = .raw)
  | .g32 => !Fmt.isWide f
  | .g16 => decide (Fmt.width 8 f ≤ 16) && !Fmt.isWide f
  | .g8 => decide (Fmt.width 8 f ≤ 8) && decide (f ≠ .mxe4m3)

/-- A malformed tag of a sector in a page of grid `g` (R33). -/
def malformedSector (g : Grid) (t : Tag) : Bool :=
  match Fmt.ofCode (tagFmt t) with
  | none => true
  | some f => (Fmt.isInt f && tagScale t == 0xFF) || !Fmt.fits f g

/-- A malformed tag of a register (R33). -/
def malformedReg (t : Tag) : Bool :=
  match Fmt.ofCode (tagFmt t) with
  | none => true
  | some f => (Fmt.isInt f && tagScale t == 0xFF) || tagVcls t == clsBusy

/-! ### The blend table -/

/-- The actions of an entry (R57). -/
inductive Act where
  | use | sat | trap | conv
deriving DecidableEq, Repr

def Act.ofBits (b : BitVec 2) : Act :=
  match b.toNat with
  | 0 => .use
  | 1 => .sat
  | 2 => .trap
  | _ => .conv

/-- The order of float formats below FP32 that R60's table follows; the pairs in which neither format holds the other are
named first. -/
def blendFloat (a b : Fmt) : Fmt :=
  let rank : Fmt → Nat
    | .e2m1 => 0 | .e2m3 => 1 | .e3m2 => 2 | .e4m3 => 3 | .e5m2 => 4 | .fp16 => 5 | .bf16 => 6 | _ => 7
  let lo := if rank a ≤ rank b then a else b
  let hi := if rank a ≤ rank b then b else a
  match lo, hi with
  | .e2m3, .e3m2 => .e4m3
  | .e2m3, .e5m2 => .fp16
  | .e4m3, .e5m2 => .fp16
  | .fp16, .bf16 => .fp32
  | _, h => h

/-- R61. -/
def blendInt (a b : Fmt) : Fmt :=
  let rank : Fmt → Nat
    | .int4 => 0 | .uint4 => 1 | .int8 => 2 | .uint8 => 3 | .int16 => 4 | _ => 5
  let lo := if rank a ≤ rank b then a else b
  let hi := if rank a ≤ rank b then b else a
  match lo, hi with
  | .int4, .uint4 => .int8
  | .int4, .uint8 => .int16
  | .int8, .uint8 => .int16
  | _, h => h

/-- One of the six formats of R61. -/
def Fmt.isPlainInt : Fmt → Bool
  | .int32 | .int16 | .int8 | .uint8 | .int4 | .uint4 => true
  | _ => false

/-- A non-microscaled float below A48 (R59). -/
def Fmt.isPlainFloat (f : Fmt) : Bool := Fmt.isFloat f && !Fmt.isMicro f && decide (f ≠ .a48)

/-- An integer from INT4 to INT32 with a plain float (R62). -/
def blendIntFloat (i f : Fmt) : Option Fmt :=
  match i, f with
  | .int4, .fp16 | .uint4, .fp16 => none
  | .int16, .fp16 | .int16, .bf16 | .int16, .fp32 => some f
  | .int16, _ => none
  | .int32, .fp32 => some .fp32
  | .int32, _ => none
  | _, _ => some f

/-- TRN2 or I48 with an integer format (R62). -/
def blendWideInt (a b : Fmt) : Option Fmt :=
  match a, b with
  | .trn2, .int4 | .trn2, .uint4 => some .int8
  | .trn2, .int16 => some .int16
  | .trn2, .int32 => some .int32
  | .trn2, _ => some .i48
  | _, _ => some .i48

/-- The default entry of two assigned formats (R59 to R62); none for TRAP. -/
def defaultBlend (a b : Fmt) : Option Fmt :=
  if a = b then some a
  else if a = .raw ∨ b = .raw then none
  else if Fmt.isPlainFloat a && Fmt.isPlainFloat b then some (blendFloat a b)
  else if Fmt.isPlainInt a && Fmt.isPlainInt b then some (blendInt a b)
  else if Fmt.isPlainInt a && Fmt.isPlainFloat b then blendIntFloat a b
  else if Fmt.isPlainInt b && Fmt.isPlainFloat a then blendIntFloat b a
  else if a = .a48 then (if Fmt.isFloat b || Fmt.isPlainInt b then some .a48 else none)
  else if b = .a48 then (if Fmt.isFloat a || Fmt.isPlainInt a then some .a48 else none)
  else if Fmt.isMicro a then (if Fmt.isFloat b || Fmt.isPlainInt b then some .fp32 else none)
  else if Fmt.isMicro b then (if Fmt.isFloat a || Fmt.isPlainInt a then some .fp32 else none)
  else if a = .trn2 then (if Fmt.isInt b then blendWideInt a b else none)
  else if b = .trn2 then (if Fmt.isInt a then blendWideInt b a else none)
  else if Fmt.isInt a && Fmt.isInt b then some .i48
  else none

/-- The byte of the default table at (row, column) (R57, R59): TRAP entries have FMT 0x00. -/
def defaultEntry (row col : BitVec 6) : Byte :=
  match Fmt.ofCode row, Fmt.ofCode col with
  | some a, some b => match defaultBlend a b with
    | some f => (0 : BitVec 2) ++ Fmt.code f
    | none => 0x80
  | _, _ => 0x80

/-- The entry of a bank of a core (R58): bank 0 is the default table, and banks 1 to 3 hold it until they are written. -/
def blendEntry (c : CoreSt) (bank : BitVec 2) (row col : BitVec 6) : Byte :=
  if bank = 0 then defaultEntry row col
  else (lookupNat (bank.toNat * 4096 + row.toNat * 64 + col.toNat) c.blend).getD (defaultEntry row col)

/-- An entry that `blendw` refuses (R57): an action other than TRAP with a reserved FMT, or with RAW where an operand is not
RAW. -/
def malformedEntry (row col : BitVec 6) (e : Byte) : Bool :=
  Act.ofBits (e.extractLsb' 6 2) != .trap &&
    match Fmt.ofCode (e.extractLsb' 0 6) with
    | none => true
    | some f => f == .raw && (row != 0 || col != 0)

/-- The result format and the action of a lookup. -/
def blend (c : CoreSt) (bank : BitVec 2) (a b : Fmt) : Fmt × Act :=
  let e := blendEntry c bank (Fmt.code a) (Fmt.code b)
  match Fmt.ofCode (e.extractLsb' 0 6) with
  | some f => (f, Act.ofBits (e.extractLsb' 6 2))
  | none => (.raw, .trap)

/-- Actions combine by priority TRAP, SAT, CONV, USE (R56). -/
def Act.join (a b : Act) : Act :=
  if a = .trap ∨ b = .trap then .trap else if a = .sat ∨ b = .sat then .sat
  else if a = .conv ∨ b = .conv then .conv else .use

/-! ### Result scales -/

/-- A scale that is left out of R43's formulas. -/
def leftOut (s : Byte) : Bool := s == 0xFF

/-- A difference or sum of scales, where a left-out operand counts as 127 (R43): none when both are left out. -/
def scaleProduct (a b : Byte) : Option Int :=
  if leftOut a && leftOut b then none
  else some ((if leftOut a then 127 else (a.toNat : Int)) + (if leftOut b then 127 else (b.toNat : Int)) - 127)

def scaleQuotient (a b : Byte) : Option Int :=
  if leftOut a && leftOut b then none
  else some ((if leftOut a then 127 else (a.toNat : Int)) - (if leftOut b then 127 else (b.toNat : Int)) + 127)

/-- A maximum of terms in which a left-out term is omitted. -/
def scaleMax (a b : Option Int) : Option Int :=
  match a, b with
  | some x, some y => some (if x ≤ y then y else x)
  | some x, none => some x
  | none, y => y

def scaleTerm (a : Byte) : Option Int := if leftOut a then none else some (a.toNat : Int)

/-- The second and third steps of R43: clamp, and the adjustment by the format of the result. -/
def finishScale (f : Fmt) (s : Option Int) : Byte :=
  let c : Byte := match s with
    | none => 0xFF
    | some x => if x < 0 then 0 else if 254 < x then 254 else BitVec.ofNat 8 x.toNat
  if Fmt.isFolding f then 127 else if Fmt.isInt f && c == 0xFF then 127 else c

/-! ### Elements in registers -/

/-- The slot width of a format under a widest declared width (R44). -/
def slotWidth (wmax : Nat) (f : Fmt) : Nat := if Fmt.isWide f then 64 else wmax

/-- The slot at a position. -/
def VReg.slot (r : VReg) (i : Nat) : Word := r.slots.getD i 0
/-- The micro-scale of a position (R42). -/
def VReg.microAt (r : VReg) (i : Nat) : Byte := r.micro.getD (i / 32) 127
/-- The format of a register. -/
def VReg.fmt (r : VReg) : Fmt := tagFormat r.tag
/-- The exact value at a position (R41). -/
def VReg.val (r : VReg) (i : Nat) : Val :=
  decodeEl r.fmt (tagScale r.tag) (if Fmt.isMicro r.fmt then r.microAt i else 127) (r.slot i)
/-- A poison mark at a position (R36). -/
def VReg.marked (r : VReg) (i : Nat) : Bool := r.marks.getLsbD i
/-- UNDEF: at least one source of the last write was UNDEF; a register with marks shows POISON and keeps what it was under
`slots` (R35, R36). -/
def VReg.isUndef (r : VReg) : Bool := tagVcls r.tag == clsUndef

/-- Drop the zeros at the end of a list of slots: the canonical form of `slots`. -/
def trimSlots (l : List Word) : List Word := (l.reverse.dropWhile (· == 0)).reverse
/-- Drop the 127s at the end of a list of micro-scales. -/
def trimMicro (l : List Byte) : List Byte := (l.reverse.dropWhile (· == 127)).reverse

/-- Cut bits to a width. -/
def cutBits (w : Nat) (x : Word) : Word := BitVec.ofNat 64 (x.toNat % 2 ^ w)

/-- What an instruction puts at a position: a value to encode, bits as they are, bits already encoded with their flags, or
nothing. -/
inductive Elem where
  | val (v : Val) (fl : Sticky)
  | bits (b : Word)
  | coded (b : Word) (fl : Sticky)
  | keep
deriving DecidableEq, Repr

def Elem.isKeep : Elem → Bool
  | .keep => true
  | _ => false

/-- A kept element under a new tag (R47), for a new format that is not microscaled. `undef`: the container was UNDEF. -/
def convertKept (oldTag : Tag) (micro : Byte) (undef : Bool) (f : Fmt) (sc : Byte) (w : Nat) (b : Word) : Word :=
  if tagFmt oldTag = Fmt.code f ∧ tagScale oldTag = sc then b
  else if undef then 0
  else
    let g := tagFormat oldTag
    if g = .raw ∨ f = .raw then cutBits (Nat.min w (Fmt.width w g)) b
    else (encodeEl f sc 127 .nearest true (decodeEl g (tagScale oldTag) (if Fmt.isMicro g then micro else 127) b)).1

/-- The largest magnitude of values over 2^k, as a quotient; none when one is a NaN or an infinity (R51). -/
def blockMax (k : Int) : List Val → Option (Nat × Nat)
  | [] => some (0, 1)
  | v :: l => match v, blockMax k l with
    | .fin _ n d, some (m, e) =>
      let x : Nat × Nat := if 0 ≤ k then (n, d * 2 ^ k.toNat) else (n * 2 ^ (-k).toNat, d)
      if x.1 * e ≤ m * x.2 then some (m, e) else some x
    | _, _ => none

/-- A block of 32 positions written in a microscaled format (R47, R51): the new element bits, the micro-scale, the flags.
`old` are the kept values (none where bits are kept as bits), `el` what the instruction puts. In a block that R51 makes NaN the flags of the
operations themselves stay (R128); the quotient of a non-zero value by zero counts as the infinity of R128 and makes such a block.
DESIGN CHOICE (unsafe, log 73): R51 before R128's largest finite value. -/
def encodeBlock (f : Fmt) (sc : Byte) (rm : Nat → Rounding) (base : Nat) (rawKeep : Bool) (old : Nat → Val)
    (oldBits : Nat → Word) (el : Nat → Elem) (len : Nat) : List Word × Byte × Sticky :=
  let idx := List.range len
  let written := idx.filter (fun j => !(el (base + j)).isKeep)
  let valOf (j : Nat) : Val := match el (base + j) with
    | .val v _ => v
    | .bits b => elementValue f b
    | .coded b _ => elementValue f b
    | .keep => old (base + j)
  let src := if written.isEmpty then idx else written
  let k : Int := (sc.toNat : Int) - 127
  let w := Fmt.width 8 f
  if written.isEmpty && rawKeep then (idx.map (fun j => cutBits w (oldBits (base + j))), 127, 0)
  else match blockMax k (src.map valOf) with
    | none =>
      let fl := written.foldl (fun a j => match el (base + j) with
        | .val (.inf _) fl => a ||| fl ||| flagOF
        | .val _ fl => a ||| fl
        | .coded _ fl => a ||| fl
        | _ => a) 0
      (idx.map (fun _ => 0), 0xFF, fl)
    | some (n, d) =>
      let u := microScaleOf f n d
      let out := idx.map (fun j => match el (base + j) with
        | .val v fl => let e := encodeEl f sc u (rm (base + j)) true v; (e.1, e.2 ||| fl)
        | .bits b => (cutBits w b, 0)
        | .coded b fl => (cutBits w b, fl)
        | .keep => if rawKeep then (cutBits w (oldBits (base + j)), 0)
          else ((encodeEl f sc u .nearest true (old (base + j))).1, 0))
      (out.map (·.1), u, out.foldl (fun a e => a ||| e.2) 0)

/-- The high-water mark after a write (R282): above the last position written, and all positions when a kept one above it is no
longer zero bits under micro-scale 127. -/
def raiseHw (old n bound : Nat) (el : Nat → Elem) (slots : List Word) (micro : List Byte) : Nat :=
  let h := (List.range (Nat.min n bound)).foldl (fun h i => if (el i).isKeep then h else Nat.max h (i + 1)) old
  if h < slots.length ∨ h < 32 * micro.length - 31 then n else h

/-- Write a register under a tag (R47, R51, R124): `oldN` positions existed before it and `n` exist after it, `bound` bounds the positions
the instruction may put something at, and every other position is kept. Marks clear where something is put. -/
def writeReg (wmax oldN n bound : Nat) (old : VReg) (vcls : BitVec 2) (f : Fmt) (sc : Byte) (sat : Bool)
    (rm : Nat → Rounding) (el : Nat → Elem) : VReg × Sticky :=
  let same := decide (tagFmt old.tag = Fmt.code f ∧ tagScale old.tag = sc)
  let undef := old.isUndef
  let nanOld := !same && Fmt.isFloat old.fmt && leftOut (tagScale old.tag) && !undef
  let span := if nanOld then n else
    Nat.min n (Nat.max bound (Nat.max old.slots.length (32 * old.micro.length)))
  let w := Fmt.width wmax f
  let cls (m : PosBits) : BitVec 2 := if m = 0 then vcls else clsPoison
  let newMarks : PosBits := (List.range (Nat.min n bound)).foldl
    (fun m i => if (el i).isKeep then m else m &&& ~~~(BitVec.twoPow 131072 i)) old.marks
  let newMarks := newMarks &&& (BitVec.allOnes 131072 >>> (131072 - n))
  if Fmt.isMicro f then
    let rawKeep := decide (old.fmt = .raw) || undef
    let oldBits (i : Nat) : Word := if undef || decide (oldN ≤ i) then 0 else old.slot i
    let oldVal (i : Nat) : Val := if oldN ≤ i then .fin false 0 1 else old.val i
    let blocks := (List.range ((span + 31) / 32)).map (fun b =>
      let len := Nat.min 32 (n - 32 * b)
      if same && (List.range len).all (fun j => (el (32 * b + j)).isKeep) then
        ((List.range len).map (fun j => old.slot (32 * b + j)), old.micro.getD b 127, (0 : Sticky))
      else encodeBlock f sc rm (32 * b) rawKeep oldVal oldBits el len)
    let slots := trimSlots (blocks.flatMap (·.1))
    let micro := trimMicro (blocks.map (·.2.1))
    ({ old with
        tag := mkTag (cls newMarks) sc (Fmt.code f), slots := slots, micro := micro, marks := newMarks, entry := none
        hw := raiseHw old.hw n bound el slots micro },
      blocks.foldl (fun a b => a ||| b.2.2) 0)
  else
    let out := (List.range span).map (fun i => match el i with
      | .val v fl => let e := encodeEl f sc 127 (rm i) sat v; (e.1, e.2 ||| fl)
      | .bits b => (cutBits w b, 0)
      | .coded b fl => (cutBits w b, fl)
      | .keep => (if oldN ≤ i then 0 else convertKept old.tag (old.microAt i) undef f sc w (old.slot i), 0))
    let slots := trimSlots (out.map (·.1))
    ({ old with
        tag := mkTag (cls newMarks) sc (Fmt.code f), slots := slots, micro := [], marks := newMarks, entry := none
        hw := raiseHw old.hw n bound el slots [] },
      out.foldl (fun a e => a ||| e.2) 0)

/-! ### Elements in sectors -/

/-- The bits [i, i + w) of a sector. -/
def sectorField (b : BitVec 1024) (i w : Nat) : Nat := b.toNat / 2 ^ i % 2 ^ w

/-- Replace the bits [i, i + w) of a sector. -/
def setSectorField (b : BitVec 1024) (i w v : Nat) : BitVec 1024 :=
  BitVec.ofNat 1024 (b.toNat - sectorField b i w * 2 ^ i + v % 2 ^ w * 2 ^ i)

/-- The number of elements of a sector under a grid (R45); the RAW grid has elements of slot width. -/
def sectorCount (slot : Nat) (g : Grid) : Nat := 1024 / g.width slot

/-- The element bits of element j (R45). -/
def sectorElem (slot : Nat) (b : BitVec 1024) (f : Fmt) (j : Nat) : Word :=
  let w := Fmt.width slot f
  BitVec.ofNat 64 (sectorField b (j * w) w)

/-- The bit position of the micro-scale of block k (R45). -/
def microPos (slot : Nat) (g : Grid) (f : Fmt) (k : Nat) : Nat :=
  8 * ((sectorCount slot g * Fmt.width slot f + 7) / 8 + k)

/-- The micro-scale of element j; 127 for a format that is not microscaled. -/
def sectorMicro (slot : Nat) (g : Grid) (b : BitVec 1024) (f : Fmt) (j : Nat) : Byte :=
  if Fmt.isMicro f then BitVec.ofNat 8 (sectorField b (microPos slot g f (j / 32)) 8) else 127

/-- The value of element j of a sector (R41). -/
def sectorVal (slot : Nat) (g : Grid) (x : Sector) (j : Nat) : Val :=
  let f := tagFormat x.tag
  decodeEl f (tagScale x.tag) (sectorMicro slot g x.bits f j) (sectorElem slot x.bits f j)

/-- Write elements into a sector under a tag (R45, R47, R51): element j takes what `el j` puts, every other element is kept.
The bits above the data and the micro-scales are zero. `full`: no element is kept. -/
def writeSectorElems (slot : Nat) (g : Grid) (old : Sector) (vcls : BitVec 2) (f : Fmt) (sc : Byte) (sat : Bool)
    (rm : Nat → Rounding) (el : Nat → Elem) : Sector × Sticky :=
  let n := sectorCount slot g
  let undef := tagVcls old.tag == clsUndef
  let of := tagFormat old.tag
  let oldBits (j : Nat) : Word := if undef then 0 else sectorElem slot old.bits of j
  let asReg : VReg :=
    { VReg.reset with
      tag := old.tag, slots := (List.range n).map (fun j => sectorElem slot old.bits of j)
      micro := if Fmt.isMicro of then (List.range ((n + 31) / 32)).map (fun k => sectorMicro slot g old.bits of (32 * k))
        else [] }
  let same := decide (tagFmt old.tag = Fmt.code f ∧ tagScale old.tag = sc)
  let base : VReg := if same && undef then { asReg with slots := (List.range n).map oldBits, micro := [] } else asReg
  let r := writeReg slot n n n base vcls f sc sat rm el
  let w := Fmt.width slot f
  let data := (List.range n).foldl (fun a j => a + (r.1.slot j).toNat % 2 ^ w * 2 ^ (j * w)) 0
  let all := if Fmt.isMicro f then
      (List.range ((n + 31) / 32)).foldl (fun a k => a + (r.1.micro.getD k 127).toNat * 2 ^ (microPos slot g f k)) data
    else data
  ({ bits := BitVec.ofNat 1024 all, tag := mkTag vcls sc (Fmt.code f) }, r.2)

/-- FitScale (R138) over a list of values: the largest finite magnitude fits. -/
def fitScaleOf (f : Fmt) (l : List Val) : Byte :=
  if Fmt.isFolding f then 127 else
  let top := l.foldl (fun (m : Nat × Nat) v => match v with
    | .fin _ n d => if m.1 * d < n * m.2 then (n, d) else m
    | _ => m) (0, 1)
  if top.1 = 0 then 127 else
  let m := maxFinite f
  let z := 127 + ceilLog2 (top.1 * m.2) (top.2 * m.1)
  if z < 0 then 0 else if 254 < z then 254 else BitVec.ofNat 8 z.toNat

end Sys2Proof.Machine
end

