-- ==== Sys2Proof/Machine/Mem.lean ====
section
/-! DEFINITION. Memory as canonical lists: bytes, tags and sectors by physical address (R5, R31, R45, R299, R366). What an
unlisted address reads as is 0 under the tag 0x5FC0, stated by R299 for scratchpads and by R366 for device HBM4. -/

namespace Sys2Proof.Machine

/-! ### Bit fields -/

/-- The bits [lo, lo + n) of a word as a number. -/
def field (w : Word) (lo n : Nat) : Nat := w.toNat / 2 ^ lo % 2 ^ n

/-- Replace the bits [lo, lo + n) of a word. -/
def setField (w : Word) (lo n v : Nat) : Word :=
  BitVec.ofNat 64 (w.toNat - field w lo n * 2 ^ lo + v % 2 ^ n * 2 ^ lo)

/-- A bit of a word. -/
def bit (w : Word) (i : Nat) : Bool := w.getLsbD i
/-- Set or clear a bit of a word. -/
def setBit (w : Word) (i : Nat) (v : Bool) : Word :=
  if v then w ||| BitVec.twoPow 64 i else w &&& ~~~(BitVec.twoPow 64 i)

/-- Fields, lowest first, each with its width. -/
def packFields : List (Nat × Nat) → Nat
  | [] => 0
  | (w, v) :: l => v % 2 ^ w + 2 ^ w * packFields l

/-- The bits [lo, lo + w) of a number. -/
def cut (n lo w : Nat) : Nat := n / 2 ^ lo % 2 ^ w

/-- What a byte that is not listed reads as (R299, R366). -/
def defaultByte : Byte := 0

/-- The byte at a physical address.
DEDUCED (safe, log 64). -/
def Memory.byte (m : Memory) (a : Nat) : Byte := (lookupNat a m.cells).getD defaultByte

/-- Write one byte; a byte equal to what an unlisted address reads as is not listed. -/
def Memory.setByte (m : Memory) (a : Nat) (b : Byte) : Memory :=
  { m with cells := if b = defaultByte then eraseNat a m.cells else insertNat a b m.cells }

/-- The tag of a sector, numbered by its address over 128.
DEDUCED (safe, log 64). -/
def Memory.tag (m : Memory) (sec : Nat) : Tag := (lookupNat sec m.tags).getD tagUndef

/-- Write a sector's tag. -/
def Memory.setTag (m : Memory) (sec : Nat) (t : Tag) : Memory :=
  { m with tags := if t = tagUndef then eraseNat sec m.tags else insertNat sec t m.tags }

/-- Keys strictly rising, from above `lo` where one is given. -/
def risingFrom {α : Type} : Option Nat → List (Nat × α) → Bool
  | _, [] => true
  | none, (k, _) :: l => risingFrom (some k) l
  | some j, (k, _) :: l => decide (j < k) && risingFrom (some k) l

/-- The canonical form: keys strictly rising, and no entry equal to what an unlisted one reads as. -/
def Memory.wf (m : Memory) : Bool :=
  risingFrom none m.cells && m.cells.all (fun c => c.2 != defaultByte) &&
    (risingFrom none m.tags && m.tags.all (fun c => c.2 != tagUndef))

/-- The little-endian number of `n` bytes from address `a` (R5). -/
def Memory.bytes (m : Memory) (a : Nat) : Nat → Nat
  | 0 => 0
  | n + 1 => (m.byte a).toNat + 256 * m.bytes (a + 1) n

/-- Write `n` bytes, lowest first. -/
def Memory.setBytes (m : Memory) (a : Nat) : Nat → Nat → Memory
  | 0, _ => m
  | n + 1, v => (m.setByte a (BitVec.ofNat 8 v)).setBytes (a + 1) n (v / 256)

/-- The 128 bytes of a sector: the listed bytes of its range, read in one pass. -/
def cellsIn (base len : Nat) : List Host.Cell → Nat
  | [] => 0
  | (a, b) :: l =>
    if a < base then cellsIn base len l
    else if a < base + len then b.toNat * 256 ^ (a - base) + cellsIn base len l
    else 0

/-- A sector as memory holds it. -/
def Memory.sector (m : Memory) (sec : Nat) : Sector :=
  { bits := BitVec.ofNat 1024 (cellsIn (128 * sec) 128 m.cells), tag := m.tag sec }

/-- Write a whole sector with its tag. -/
def Memory.setSector (m : Memory) (sec : Nat) (x : Sector) : Memory :=
  (m.setBytes (128 * sec) 128 x.bits.toNat).setTag sec x.tag

/-- Bytes [off, off + n) of a sector. -/
def Sector.bytes (x : Sector) (off n : Nat) : Nat := sectorField x.bits (8 * off) (8 * n)

/-- The sector with bytes [off, off + n) replaced. -/
def Sector.setBytes (x : Sector) (off n v : Nat) : Sector := { x with bits := setSectorField x.bits (8 * off) (8 * n) v }

/-- A plain store of bytes under the tag rules of R96: an UNDEF sector becomes VALID and its other bytes zero; FMT, SCALE and
POISON stay. -/
def Sector.storeBytes (x : Sector) (off n v : Nat) : Sector :=
  if tagVcls x.tag = clsUndef then
    { bits := setSectorField 0 (8 * off) (8 * n) v, tag := mkTag clsValid (tagScale x.tag) (tagFmt x.tag) }
  else x.setBytes off n v

/-! ### Physical classes (R297, R350) -/

/-- The classes of physical addresses. -/
inductive PhysClass where
  | hbm
  | window (slot : Nat)
  | scratch (cluster : Nat)
  | none
deriving DecidableEq, Repr

def windowBase : Nat := 0x4000000000000
def scratchBase : Nat := 0xFF00000000000

def physClass (pa : Nat) : PhysClass :=
  if pa < 0x8000000000 then .hbm
  else if windowBase ≤ pa ∧ pa < 0x8000000000000 then .window ((pa - windowBase) / 2 ^ 40)
  else if scratchBase ≤ pa ∧ pa < scratchBase + 48 * 0x200000 then .scratch ((pa - scratchBase) / 0x200000)
  else .none

/-- The mode of an HBM4 zone in the skew map (R351): 0 linear, 1 XOR-fold, 2 prime modulus. -/
def skewMode (s : State) (zone : Nat) : BitVec 2 := s.mgmt.skewmap.extractLsb' (2 * zone) 2

/-- A line that a prime-modulus zone does not store (R351). -/
def pastPrimeZone (s : State) (pa : Nat) : Bool :=
  decide (pa < 0x8000000000) && skewMode s (pa / 2 ^ 33) == 2 && decide (509 * 32768 ≤ pa % 2 ^ 33 / 512)

/-- UnitOf (R351): the interleave unit of a physical address. -/
def unitOf (s : State) (pa : Nat) : Nat :=
  let m := pa % 2 ^ 33 / 512
  match (skewMode s (pa / 2 ^ 33)).toNat with
  | 0 => m % 512
  | 1 => Nat.xor (m % 512) (Nat.xor (m / 512 % 512) (m / 2 ^ 18 % 64))
  | _ => m % 509

/-! ### Keyed units -/

def State.core (s : State) (c : Nat) : CoreSt := (lookupNat c s.cores).getD CoreSt.reset
def State.setCore (s : State) (c : Nat) (x : CoreSt) : State := { s with cores := insertNat c x s.cores }
def State.die (s : State) (d : Nat) : DieSt := (lookupNat d s.dies).getD DieSt.reset
def State.setDie (s : State) (d : Nat) (x : DieSt) : State := { s with dies := insertNat d x s.dies }
def State.barista (s : State) (b : Nat) : Barista := (lookupNat b s.baristas).getD Barista.reset
def State.setBarista (s : State) (b : Nat) (x : Barista) : State := { s with baristas := insertNat b x s.baristas }

/-- The core, cluster and die of a strand's global number (384 cores of 32 strands, 8 cores a cluster, 96 a die). -/
def coreOf (gid : Nat) : Nat := gid / 32
def clusterOf (gid : Nat) : Nat := gid / 256
def dieOf (gid : Nat) : Nat := gid / 3072

/-- A strand by its global number; an unlisted one is free. -/
def State.strandAt (s : State) (g : Nat) : Strand :=
  if g = s.strandId then s.strand else (lookupNat g s.others).getD Strand.reset

/-- Replace a strand; a free strand that has nothing left is not listed. -/
def State.setStrandAt (s : State) (g : Nat) (x : Strand) : State :=
  if g = s.strandId then { s with strand := x }
  else { s with others := if x = Strand.reset then eraseNat g s.others else insertNat g x s.others }

/-- Apply a function to every strand that is listed and to the current one. -/
def State.mapStrands (s : State) (f : Nat → Strand → Strand) : State :=
  { s with strand := f s.strandId s.strand, others := s.others.map (fun p => (p.1, f p.1 p.2)) }

/-- The home slice of a line on every die (R318), and the barista beside it on a die. -/
def homeSlice (pa : Nat) : Nat := pa / 512 % 48
def homeBarista (die pa : Nat) : Nat := die * 48 + homeSlice pa

end Sys2Proof.Machine
end

