-- ==== Sys2Proof/Machine/Store.lean ====
section
/-! DEFINITION. What a write does to one sector (R46, R47, R96, R99, R152, R156, R161), as data that a view's outbox can keep (R216). -/

namespace Sys2Proof.Machine

/-- The rounding of an element (R52, R53). -/
def RoundState.at (r : RoundState) (idx : Nat) : Rounding :=
  match r.mode.toNat with
  | 0 => .nearest
  | 1 => .zero
  | 2 => .up
  | 3 => .down
  | _ => .stochastic (stochBits r.seed r.base idx)

/-- The sector after `ste` writes one element under the sector's tag (R99), with the flags of its encoding. -/
def elementWrite (x : Sector) (grid : Grid) (dfmt : BitVec 6) (j : Nat) (v : Word) (side : Side) (rm : Rounding) : Sector × Sticky :=
  let undef := tagVcls x.tag == clsUndef
  let tag := if undef then mkTag clsValid 127 dfmt else x.tag
  let f := tagFormat tag
  let w := Fmt.width (grid.width 32) f
  let e : Word × Sticky := match side with
    | .raw => (v, 0)
    | .f32 => encodeEl f (tagScale tag) 127 rm false (decodeEl .fp32 127 127 (v.setWidth 32 |>.setWidth 64))
    | .i64 => encodeEl f (tagScale tag) 127 rm false (Val.ofInt v.toInt)
  ({ bits := setSectorField (if undef then 0 else x.bits) (j * w) w (e.1.toNat), tag := tag }, e.2)

/-- A sector with one element replaced, VALID unless POISON; the others of an UNDEF sector are zero (R156, R161). -/
def setElement (slot : Nat) (x : Sector) (j : Nat) (v : Word) : Sector :=
  let f := tagFormat x.tag
  let w := Fmt.width slot f
  let base := if tagVcls x.tag = clsUndef then 0 else x.bits
  { bits := setSectorField base (j * w) w v.toNat
    tag := mkTag (if tagVcls x.tag = clsPoison then clsPoison else clsValid) (tagScale x.tag) (tagFmt x.tag) }

/-- The new memory value; `c` is the compare value of `amo.cas`. -/
def AmoOp.apply (op : AmoOp) (old b c : Word) : Word :=
  match op with
  | .add => old + b
  | .and => old &&& b
  | .or => old ||| b
  | .xor => old ^^^ b
  | .min => if b.slt old then b else old
  | .max => if old.slt b then b else old
  | .minu => if b < old then b else old
  | .maxu => if old < b then b else old
  | .swap => b
  | .cas => if old = c then b else old

/-- The bits of an element; zero in an UNDEF sector. -/
def elementBits (slot : Nat) (x : Sector) (j : Nat) : Word :=
  if tagVcls x.tag = clsUndef then 0 else sectorElem slot x.bits (tagFormat x.tag) j

/-- The new element of R161 with its flags: `b` is the operand, `c` the new bits of `vamo.cas`. -/
def VamoOp.apply (op : VamoOp) (rm : Rounding) (t : Tag) (old b c : Word) : Word × Sticky :=
  let f := tagFormat t
  let dec (e : Word) : Val := decodeEl f (tagScale t) 127 e
  let enc (v : Val × Sticky) : Word × Sticky :=
    let r := encodeEl f (tagScale t) 127 rm false v.1
    (r.1, r.2 ||| v.2)
  match op with
  | .add => enc (addOp (rm == .down) f (dec old) (dec b))
  | .min => enc (minOp f (dec old) (dec b))
  | .max => enc (maxOp f (dec old) (dec b))
  | .swap => (b, 0)
  | .cas => (if old = b then c else old, 0)

/-- The new element of a scatter-add (R156) with its flags: `t` is the group's exact sum. -/
def scatterInto (rm : Rounding) (tag : Tag) (old : Word) (t : Val × Sticky) : Word × Sticky :=
  let f := tagFormat tag
  let v := decodeEl f (tagScale tag) 127 old
  let r := encodeEl f (tagScale tag) 127 rm false (v.add (rm == .down) t.1)
  (r.1, r.2 ||| t.2 ||| sumFlags v t.1 ||| readFlags f old)

/-- The operand of an element atomic as the sector's tag encodes it: its own bits under the tag that the operation was checked
against, otherwise its value under the tag that the sector has when the operation performs (R47, R190, R216). -/
def operandBits (rm : Rounding) (t tag : Tag) (b : Word) : Word :=
  let f := tagFormat tag
  if tagFmt t = tagFmt tag ∧ (Fmt.isFolding f ∨ f = .raw ∨ tagScale t = tagScale tag) then b
  else (encodeEl f (tagScale tag) 127 rm false (decodeEl (tagFormat t) (tagScale t) 127 b)).1

/-- The new bits of an element of a sector under a vector atomic, with its flags (R161). -/
def atomicElement (op : VamoOp) (slot j : Nat) (t : Tag) (b c : Word) (rm : Rounding) (x : Sector) : Word × Sticky :=
  op.apply rm x.tag (elementBits slot x j) (operandBits rm t x.tag b) (operandBits rm t x.tag c)

/-- One element of a store: the element of the sector, and the position it comes from. -/
abbrev Stored := List (Nat × Nat)

/-- The position whose element lands at element j: the highest (R154). -/
def storedAt (l : Stored) (j : Nat) : Option Nat :=
  l.foldl (fun m p => if p.1 = j then (match m with
    | some i => some (Nat.max i p.2)
    | none => some p.2) else m) none

/-- A block of a sector that takes a whole block of the register as it stands (R152): the register's block. -/
def wholeBlock (l : Stored) (k : Nat) : Option Nat :=
  match storedAt l (32 * k) with
  | some i => if i % 32 = 0 ∧ (List.range 32).all (fun t => storedAt l (32 * k + t) == some (i + t)) then some (i / 32) else none
  | none => none

/-- The sector after a store of register elements (R45, R47, R51, R152), with its flags. Bits of a slot above its element read as zero
(R44); a page of RAW grid takes the low bits of a wider slot, and a demotion to a page default format RAW the low bits of the grid's width.
DESIGN CHOICE (unsafe, log 73). -/
def storeElems (wmax : Nat) (rs : RoundState) (r : VReg) (grid : Grid) (f : Fmt) (sc : Byte) (l : Stored) (old : Sector) :
    Sector × Sticky :=
  let slot := grid.width wmax
  let n := sectorCount slot grid
  let full := (List.range n).all (fun j => (storedAt l j).isSome)
  let vcls : BitVec 2 := if tagVcls old.tag = clsPoison ∧ !full then clsPoison else if r.isUndef then clsUndef else clsValid
  let plain := decide (f = .raw) || (f == r.fmt && sc == tagScale r.tag && !Fmt.isMicro f)
  let own := Fmt.isMicro f && f == r.fmt && sc == tagScale r.tag
  let whole (j : Nat) : Bool := own && (wholeBlock l (j / 32)).isSome
  let bits (i : Nat) : Word := cutBits (Fmt.width wmax r.fmt) (r.slot i)
  let el (j : Nat) : Elem := match storedAt l j with
    | none => .keep
    | some i => if plain || whole j then .bits (bits i) else .val (r.val i) (readFlags r.fmt (r.slot i))
  let rm (j : Nat) : Rounding := rs.at ((storedAt l j).getD 0)
  let w := writeSectorElems slot grid old vcls f sc true rm el
  if !own then w
  else
    let out := (List.range ((n + 31) / 32)).foldl (fun b k => match wholeBlock l k with
      | none => b
      | some rb =>
        let b := (List.range 32).foldl (fun b t =>
          setSectorField b ((32 * k + t) * Fmt.width slot f) (Fmt.width slot f) (bits (32 * rb + t)).toNat) b
        setSectorField b (microPos slot grid f k) 8 (r.micro.getD rb 127).toNat) w.1.bits
    ({ w.1 with bits := out }, w.2)

/-- A string of storage with the bytes of a mask taken from another. -/
def overlay (a b : BitVec 1024) (mask : BitVec 128) : BitVec 1024 :=
  (List.range 128).foldl (fun x i => if mask.getLsbD i then setSectorField x (8 * i) 8 (sectorField b (8 * i) 8) else x) a

/-- The sector after a write, with the flags that it raises (R55). -/
def StoreOp.run (op : StoreOp) (x : Sector) : Sector × Sticky :=
  match op with
  | .probe => (x, 0)
  | .bytes off n v => (x.storeBytes off n v, 0)
  | .whole y => (y, 0)
  | .element grid dfmt j v side rs => elementWrite x grid dfmt j v side (rs.at 0)
  | .amo op off b c =>
    let old : Word := BitVec.ofNat 64 (if tagVcls x.tag = clsUndef then 0 else x.bytes off 8)
    (x.storeBytes off 8 (op.apply old b c).toNat, 0)
  | .atomic op slot j t b c rs i =>
    let r := atomicElement op slot j t b c (rs.at i) x
    (setElement slot x j r.1, r.2)
  | .scatter slot j sum fl rs i =>
    let r := scatterInto (rs.at i) x.tag (elementBits slot x j) (sum, fl)
    (setElement slot x j r.1, r.2)
  | .vector r grid f sc wmax rs l => storeElems wmax rs r grid f sc l x
  | .under mask op =>
    let r := op.run x
    (if r.1.tag = x.tag then { r.1 with bits := overlay r.1.bits x.bits mask } else r.1, r.2)

/-- The sector after a write. -/
def StoreOp.apply (op : StoreOp) (x : Sector) : Sector := (op.run x).1

end Sys2Proof.Machine
end

