-- ==== Sys2Proof/Machine/Translate.lean ====
section
/-! DEFINITION. Address translation: the walk, the entry checks, permissions and the fabric window's check (R345 to R356,
R392). -/

namespace Sys2Proof.Machine

/-- What stops an instruction or an access: a trap, a wait, a request to a peer whose answer it waits for under a key (R393,
R395), or a handler's abort (R29, R337). -/
inductive Stop where
  | trap (t : TrapInfo)
  | wait (w : Wait)
  | ask (dev addr key : Nat) (m : CemenMsg)
  | abort (code : Byte)
deriving DecidableEq, Repr

/-- A trap with a cause code and edata, without a memory access. -/
def trapOf (code : BitVec 8) (data : Word) : Stop :=
  .trap { code := code, data := data, vec := false, sub := 0, pa := 0xFFFFFFFFFFFFFFFF }

/-- The kinds of access (R354, R359). -/
inductive Access where
  | read | write | rmw | fetch
deriving DecidableEq, Repr

/-- On whose behalf memory is reached: the requester's die, strand, address space, privilege, view, and whether a barista asks. `agent` is
the strand, or barista b as 12,288 + b; `vec` says that its vector agent asks (R185). `origin` is the strand whose request raises events
(R327), `unit` that its page-sorting unit or matrix engine makes it (R329). `llc`: an atomic that executes at the LLC (R323). `owner`
names the task that writes, by address space and frame (R166), `block` its block (R364: 0 for every other source). -/
structure Ctx where
  die : Nat
  gid : Option Nat
  asid : BitVec 12
  user : Bool
  view : Nat
  barista : Bool
  agent : Option Nat := none
  vec : Bool := false
  origin : Option Nat := none
  unit : Bool := false
  llc : Bool := false
  block : Nat := 0
  owner : Option (BitVec 12 × Word) := none
deriving DecidableEq, Repr

/-- The access kind as a fault record's SUB holds it (R359). -/
def accessCode (ctx : Ctx) (acc : Access) : Nat :=
  if ctx.barista then 4 else
  match acc with
  | .read => 0
  | .write => 1
  | .rmw => 2
  | .fetch => 3

/-- A translation fault (R355) that stops a walk at a level.
DEDUCED (unsafe, log 32). -/
def walkFault (ctx : Ctx) (acc : Access) (level : Nat) (code : BitVec 8) (va : Word) : Stop :=
  .trap { code := code, data := va, vec := false, sub := BitVec.ofNat 8 (level + 4 * accessCode ctx acc)
          pa := 0xFFFFFFFFFFFFFFFF }

/-- A fault of an access at a valid leaf: its physical address is known (R359), and the entries on the way to it have been read (R353). -/
def leafFault (ctx : Ctx) (acc : Access) (level : Nat) (code : BitVec 8) (va : Word) (pa : Nat) (seen : List Translation) : Stop :=
  .trap { code := code, data := va, vec := false, sub := BitVec.ofNat 8 (level + 4 * accessCode ctx acc)
          pa := BitVec.ofNat 64 pa, walked := seen }

/-- The fabric slot in force for a window address (R392): TYPE, DEVID, MHOST and TBASE. -/
def slotEntry (s : State) (slot : Nat) : Word × Word := (lookupNat slot s.mgmt.fwmapForce).getD (0, 0)

/-- The address at its target of an address of the fabric window (R392). -/
def targetAddr (s : State) (pa : Nat) : Nat := (slotEntry s ((pa - windowBase) / 2 ^ 40)).2.toNat + (pa - windowBase) % 2 ^ 40

/-- A byte of memory as the device reads it: device memory and scratchpads, or host memory behind the window.
DESIGN CHOICE (safe, log 9). -/
def State.physByte (s : State) (a : Nat) : Byte :=
  match physClass a with
  | .window _ => let h := targetAddr s a
    (lookupNat h s.hostMem).getD (Config.hostByte h)
  | _ => s.mem.byte a

/-- The bytes [a, a + n) as a little-endian number. -/
def State.physBytes (s : State) (a : Nat) : Nat → Nat
  | 0 => 0
  | n + 1 => (s.physByte a).toNat + 256 * s.physBytes (a + 1) n

/-- The tag of a sector as a reader sees it; BUSY while the Grinder recodes it (R34, R371). A host line that the
device has not written is VALID RAW (log 9).
DESIGN CHOICE (safe, log 9). -/
def State.physTag (s : State) (sec : Nat) : Tag :=
  match physClass (128 * sec) with
  | .window _ => (lookupNat (targetAddr s (128 * sec) / 128) s.hostTags).getD tagRaw
  | _ => if (lookupNat sec s.busy).isSome then mkTag clsBusy 127 0 else s.mem.tag sec

/-- The sector at a sector number in the base view. -/
def State.baseSector (s : State) (sec : Nat) : Sector :=
  match physClass (128 * sec) with
  | .window _ => { bits := BitVec.ofNat 1024 (s.physBytes (128 * sec) 128), tag := s.physTag sec }
  | _ => s.mem.sector sec

/-! ### What nothing orders yet (R186, R352) -/

/-- The write of strand `g` to a base sector that its walks need not see yet (R352). -/
def unwalked (s : State) (g : Option Nat) (sec : Nat) : Option Unordered := match g with
  | some g => s.unordered.find? (fun u => u.gid == g && u.walk && u.view == 0 && u.sec == sec)
  | none => none

/-- The sector that a walk for strand `g` reads at a table address: memory's, or what it held before a write of the strand that no
`fence.all` has ordered (R352).
DESIGN CHOICE (safe, log 77). -/
def tableSector (s : State) (ctx : Ctx) (va : Word) (sec : Nat) : Sector := match unwalked s ctx.gid sec with
  | some u => if Config.findsOld s.cycle.toNat (ctx.gid.getD 0 + 16384) va.toNat then u.old else s.baseSector sec
  | none => s.baseSector sec

/-- The 16-byte entry at a physical address, as the walker reads it (R352): UNDEF reads as zero, BUSY waits, POISON is the
table-poison fault. -/
def readEntry (s : State) (ctx : Ctx) (acc : Access) (level : Nat) (va : Word) (pa : Nat) : Except Stop (Word × Word) :=
  let x := tableSector s ctx va (pa / 128)
  if tagVcls (s.physTag (pa / 128)) = clsBusy then .error (.wait (.busy (pa / 128)))
  else if tagVcls x.tag = clsPoison then .error (walkFault ctx acc level 0x16 va)
  else if tagVcls x.tag = clsUndef then .ok (0, 0)
  else .ok (BitVec.ofNat 64 (x.bytes (pa % 128) 8), BitVec.ofNat 64 (x.bytes (pa % 128 + 8) 8))

/-- The size of the page that a leaf at a level maps: 8 GiB, 8 MiB or 8 KiB (R346). -/
def pageSize (level : Nat) : Nat := if level = 1 then 2 ^ 33 else if level = 2 then 2 ^ 23 else 2 ^ 13

/-- The limits that the class of a leaf's page puts on it (R350, R351).
DEDUCED (safe, log 64). -/
def leafClassOk (s : State) (level : Nat) (w1 : Word) (base : Nat) : Bool :=
  let skew := field w1 14 2
  let plain := skew == 0 && field w1 10 1 == 0 && field w1 11 1 == 0 && field w1 16 1 == 0
  match physClass base with
  | .hbm =>
    let mode := skewMode s (base / 2 ^ 33)
    skew == mode.toNat && !(level == 1 && mode == 2)
  | .window _ => plain && (field w1 12 2 == 0 || field w1 12 2 == 3)
  | .scratch _ => level == 3 && plain
  | .none => false

/-- A valid entry that is malformed (R347 to R350). -/
def malformedPte (s : State) (level : Nat) (w0 w1 : Word) : Bool :=
  let leaf := field w0 1 1 == 1
  let reserved := field w0 6 7 != 0 || field w0 52 12 != 0
  if !leaf then
    level == 3 || reserved || field w0 2 4 != 0 || field w0 13 1 != 0 || w1 != 0
  else
    let base := field w0 13 39 * 2 ^ 13
    let grid := Grid.ofBits (BitVec.ofNat 2 (field w1 0 2))
    let dfmtOk := match Fmt.ofCode (BitVec.ofNat 6 (field w1 2 6)) with
      | some f => Fmt.fits f grid
      | none => false
    level == 0 || reserved || field w1 29 35 != 0 || (field w1 16 1 == 0 && field w1 17 10 != 0)
      || base % pageSize level != 0
      || (field w0 3 1 == 1 && field w0 2 1 == 0)
      || field w1 8 2 == 3 || field w1 14 2 == 3
      || !dfmtOk
      || (grid == .raw && (field w1 10 1 == 1 || field w1 11 1 == 1))
      || !leafClassOk s level w1 base

/-- A port carries Cemen (R396). -/
def carriesCemen (s : State) (port : Nat) : Bool := match lookupNat port s.mgmt.ports with
  | some p => p.1 && p.2 != 0
  | none => false

/-- The ports that carry Cemen and by which the fabric reaches a device (R390, R396); a device that it has not bound, by none.
DESIGN CHOICE (unsafe, log 40). -/
def portsTo (s : State) (dev : Nat) : List Nat := match lookupNat dev s.mgmt.bound with
  | some m => (List.range 12).filter (fun p => m.getLsbD p && carriesCemen s p)
  | none => []

/-- The check of a window slot (R392, R393, R396): false raises the window fault. -/
def windowOk (s : State) (slot : Nat) (acc : Access) : Bool :=
  let e := (slotEntry s slot).1
  let type := field e 0 2
  let dev := field e 2 12
  let mhost := field e 14 1
  let toPeer := type == 2 || (type == 3 && mhost == 0)
  type != 0 && field e 15 49 == 0 && (slotEntry s slot).2.toNat % 8192 == 0 && (type == 3 || mhost == 0)
    && (toPeer || dev == 0)
    && (!toPeer || !(portsTo s dev).isEmpty)
    && (type != 3 || (acc == .write && (mhost == 0 || (List.range 12).any (carriesCemen s))))

/-- The permission checks of a leaf, in their order (R354, R355), then the window's. -/
def leafGrant (s : State) (ctx : Ctx) (acc : Access) (level : Nat) (va : Word) (w0 : Word) (pa : Nat)
    (seen : List Translation) : Except Stop Unit :=
  let rd := field w0 2 1 == 1
  let wr := field w0 3 1 == 1
  let ex := field w0 4 1 == 1
  let usr := field w0 5 1 == 1
  if (ctx.user || ctx.barista) && !usr then .error (leafFault ctx acc level 0x14 va pa seen)
  else
    let perm : Option (BitVec 8) := match acc with
      | .read => if rd then none else some 0x12
      | .write => if wr then none else some 0x13
      | .rmw => if !rd then some 0x12 else if !wr then some 0x13 else none
      | .fetch => if ex then none else some 0x12
    match perm with
    | some c => .error (leafFault ctx acc level c va pa seen)
    | none => match physClass pa with
      | .window slot => if windowOk s slot acc then .ok () else .error (trapOf 0x60 va)
      | _ => .ok ()

/-- The bits of a virtual address above what an entry at a level maps. -/
def vaPart (level : Nat) (va : Word) : Nat := field va 0 53 / 2 ^ (13 + 10 * (3 - level))

/-- The translation of an address by a leaf (R348, R354, R355). -/
def leafPage (s : State) (ctx : Ctx) (acc : Access) (va : Word) (level : Nat) (w0 w1 : Word) (seen : List Translation) : Except Stop Page :=
  let pa := field w0 13 39 * 2 ^ 13 + va.toNat % pageSize level
  if pastPrimeZone s pa then .error (leafFault ctx acc level 0x15 va pa seen)
  else do
    leafGrant s ctx acc level va w0 pa seen
    .ok { pa := pa, size := pageSize level, grid := Grid.ofBits (BitVec.ofNat 2 (field w1 0 2)), dfmt := BitVec.ofNat 6 (field w1 2 6)
          dpol := BitVec.ofNat 2 (field w1 8 2), pack := field w1 10 1 == 1, grind := field w1 11 1 == 1
          res := BitVec.ofNat 2 (field w1 12 2), rgv := field w1 16 1 == 1, rgn := field w1 17 10
          wsh := field w1 27 1 == 1, hen := field w1 28 1 == 1, walked := seen }

/-! ### The translation caches (R353) -/

/-- A cached translation serves an address of an address space at its level. -/
def Translation.serves (t : Translation) (asid : BitVec 12) (va : Word) : Bool := t.asid == asid && t.part == vaPart t.level va

/-- A cached translation is a leaf. -/
def Translation.isLeaf (t : Translation) : Bool := field t.w0 1 1 == 1

/-- The one of several old entries that an access uses, if any (R353).
DESIGN CHOICE (safe, log 78). -/
def pickOld (s : State) (ctx : Ctx) (va : Word) (level : Nat) (l : List Translation) : Option Translation :=
  if l.isEmpty then none
  else match Config.cachedPick s.cycle.toNat (ctx.agent.getD 0) (8 * va.toNat + level) with
    | 0 => none
    | n + 1 => l[n]?

/-- The table entry at a level of a walk: the one in memory, or one that has been valid and that no `tlbinv` has dropped (R353). -/
def tableEntry (s : State) (ctx : Ctx) (acc : Access) (level : Nat) (va : Word) (pa : Nat) : Except Stop (Word × Word) :=
  let now := readEntry s ctx acc level va pa
  match pickOld s ctx va level (s.translations.filter (fun t => t.level == level && !t.isLeaf && t.serves ctx.asid va
      && decide (now ≠ .ok (t.w0, t.w1)))) with
  | some t => .ok (t.w0, t.w1)
  | none => now

/-- The walk from the table at `table`, level by level (R346, R355); `seen` are the entries above. -/
def walk (s : State) (ctx : Ctx) (acc : Access) (va : Word) (table : Nat) (n : Nat) (seen : List Translation := []) : Except Stop Page :=
  match n with
  | 0 => .error (walkFault ctx acc 3 0x15 va)
  | n + 1 => do
    let level := 3 - n
    let idx := field va (13 + 10 * n) 10
    let e ← tableEntry s ctx acc level va (table + 16 * idx)
    if field e.1 0 1 = 0 then .error (walkFault ctx acc level 0x10 va)
    else if malformedPte s level e.1 e.2 then .error (walkFault ctx acc level 0x15 va)
    else
      let seen := seen ++ [{ asid := ctx.asid, level := level, part := vaPart level va, w0 := e.1, w1 := e.2 }]
      if field e.1 1 1 = 0 then walk s ctx acc va (field e.1 14 38 * 2 ^ 14) n seen
      else leafPage s ctx acc va level e.1 e.2 seen

/-- A canonical address: bits [63:53] equal bit 52 (R345). -/
def canonicalVa (va : Word) : Bool := field va 52 12 == 0 || field va 52 12 == 0xFFF

/-- The entries that an answer of a walk rests on. -/
def entriesOf : Except Stop Page → List Translation
  | .ok p => p.walked
  | .error (.trap t) => t.walked
  | .error _ => []

/-- Translate a virtual address for an access (R345, R346): a walk, or a leaf that a translation cache still holds (R353). -/
def translate (s : State) (ctx : Ctx) (acc : Access) (va : Word) : Except Stop Page :=
  if !canonicalVa va then .error (walkFault ctx acc 0 0x11 va)
  else match lookupNat ctx.asid.toNat (s.die ctx.die).roots with
    | none => .error (.trap { code := 0x16, data := va, vec := false, sub := 7, pa := 0xFFFFFFFFFFFFFFFF })
    | some root =>
      let now := walk s ctx acc va root 4
      match pickOld s ctx va 4 (s.translations.filter (fun t => t.isLeaf && t.serves ctx.asid va && !(entriesOf now).contains t)) with
      | some t => leafPage s ctx acc va t.level t.w0 t.w1 [t]
      | none => now

/-- The translation caches keep the entries that an access used (R353). -/
def State.keep (s : State) (l : List Translation) : State :=
  let new := l.filter (fun t => !s.translations.contains t)
  if new.isEmpty then s else { s with translations := s.translations ++ new }

end Sys2Proof.Machine
end

