-- ==== Sys2Proof/Machine/Blocks.lean ====
section
/-! DEFINITION. Region control blocks as installed (R378, R379, R381): fields, inheritance, chains, fault domains and the
budgets they bound. -/

namespace Sys2Proof.Machine

/-- Bits [lo, lo + n) of a block's image (R379). -/
def Block.bits (b : Block) (lo n : Nat) : Nat := b.image.toNat / 2 ^ lo % 2 ^ n

/-- The items a block may inherit, by INH bit (R379). -/
inductive Item where
  | prio | share | part | blend | str | lc | stripg | views | spill | btime | tvec | handlers | savepool | asid
deriving DecidableEq, Repr

def Item.inh : Item → Nat
  | .prio => 0 | .share => 1 | .part => 2 | .blend => 3 | .str => 4 | .lc => 5 | .stripg => 6 | .views => 7 | .spill => 8
  | .btime => 9 | .tvec => 10 | .handlers => 11 | .savepool => 12 | .asid => 13

/-- The block whose own field is the effective value of an item at block `a` (R381); `fuel` bounds the chain. -/
def itemOwner (s : State) (i : Item) : Nat → Nat → Option Block
  | 0, _ => none
  | fuel + 1, a => match lookupNat a s.blocks with
    | none => none
    | some b => if b.bits (64 + i.inh) 1 = 1 then itemOwner s i fuel (b.bits 128 64) else some b

/-- The effective value of the bits [lo, lo + n) of an item; 0 without a block. -/
def effective (s : State) (a : Nat) (i : Item) (lo n : Nat) : Nat :=
  match itemOwner s i (s.blocks.length + 1) a with
  | some b => b.bits lo n
  | none => 0

def effAsid (s : State) (a : Nat) : BitVec 12 := BitVec.ofNat 12 (effective s a .asid 27 12)
def effRoot (s : State) (a : Nat) : Nat := effective s a .asid 192 64
def effPrio (s : State) (a : Nat) : Nat := effective s a .prio 10 3
def effShare (s : State) (a : Nat) : Nat := let w := effective s a .share 13 8; if w = 0 then 1 else w

/-- A block and its ancestors, from the block up. -/
def chainOf (s : State) : Nat → Nat → List Nat
  | 0, _ => []
  | fuel + 1, a => match lookupNat a s.blocks with
    | none => []
    | some b => a :: (if b.bits 128 64 = 0 then [] else chainOf s fuel (b.bits 128 64))

def chain (s : State) (a : Nat) : List Nat := chainOf s (s.blocks.length + 1) a

/-- The root of a block's fault domain (R382): the nearest with FDR = 1; the tree root always counts. -/
def domainOf (s : State) (a : Nat) : Nat :=
  match (chain s a).find? (fun x => match lookupNat x s.blocks with
    | some b => b.bits 8 1 == 1 || b.bits 128 64 == 0
    | none => false) with
  | some x => x
  | none => a

/-- Whether block `a` lies in the subtree of `r`. -/
def under (s : State) (r a : Nat) : Bool := (chain s a).contains r

/-- Update a block's device copy. -/
def State.modBlock (s : State) (a : Nat) (f : Block → Block) : State :=
  match lookupNat a s.blocks with
  | some b => { s with blocks := insertNat a (f b) s.blocks }
  | none => s

/-- The strands that a task occupies, with their global numbers. -/
def State.occupied (s : State) : List (Nat × Strand) :=
  (insertNat s.strandId s.strand s.others).filter (fun p => p.2.phase != .free)

/-- The block of a strand's task; 0 without one. -/
def Strand.block (x : Strand) : Nat := match x.task with
  | some t => t.block
  | none => 0

/-- A task's save area: the one of its frame, or the slot that is reserved for it and becomes SAVE at its first switch (R302,
R387). -/
def areaOf (t : Option TaskInfo) : Word := match t with
  | some t => if t.save = 0 then t.slot.getD 0 else t.save
  | none => 0

/-- The frame of a task (R302); 0 without one. -/
def frameOf (t : Option TaskInfo) : Word := match t with
  | some t => t.frame
  | none => 0

/-- Strands charged to block `b` (R381). -/
def strandsCharged (s : State) (b : Nat) : Nat := (s.occupied.filter (fun p => under s b p.2.block)).length

/-- A strand's allocation of strip memory is its own; a rival of a plain `fork` sees its judge's (R215). -/
def ownsStrip (s : State) (x : Strand) : Bool :=
  let v := field x.sys.view 0 12
  v == 0 || match lookupNat v s.views with
    | some w => w.strip.isSome
    | none => false

/-- Strip granules charged to block `b`. -/
def granulesCharged (s : State) (b : Nat) : Nat :=
  (s.occupied.filter (fun p => under s b p.2.block && ownsStrip s p.2)).foldl (fun n p => n + p.2.strip.length) 0

/-- The number of clusters a strand holds: the population count of sys.lease.GRANT (R227). -/
def popcount8 (x : Nat) : Nat := ((List.range 8).filter (fun i => x / 2 ^ i % 2 == 1)).length
def Strand.grantCount (x : Strand) : Nat := popcount8 (field x.sys.lease 0 8)

/-- The lane clusters that tasks charged to block `b` hold, on core `core` where one is given, strand `but` left out. -/
def clustersCharged (s : State) (b : Nat) (core but : Option Nat) : Nat :=
  (s.occupied.filter (fun p => some p.1 != but && under s b p.2.block && match core with
    | some c => coreOf p.1 == c
    | none => true)).foldl (fun n p => n + p.2.grantCount) 0

/-- Cap of a task of a block on a core (R381), strand `but` left out. -/
def capOn (s : State) (block core : Nat) (but : Option Nat) : Nat :=
  (chain s block).foldl (fun n b => Nat.min n (Nat.min (effective s b .lc 410 4 - clustersCharged s b (some core) but)
    (effective s b .lc 398 12 - clustersCharged s b none but))) 8

/-- Cap (R227, R381): the lane clusters that the strand's block chain still allows it on its core. -/
def capOf (s : State) (g : Nat) : Nat := match (s.strandAt g).task with
  | none => 8
  | some t => capOn s t.block (coreOf g) (some g)

/-- Room for one more use of a budget on every block of a chain. -/
def withinAll (s : State) (a : Nat) (room : Nat → Bool) : Bool := (chain s a).all room

/-- The barista-time budget of a block is exhausted (R328, R381). -/
def btimeExhausted (s : State) (a : Nat) : Bool :=
  (chain s a).any (fun b => match lookupNat b s.blocks with
    | some x => decide (effective s b .btime 480 32 ≤ x.btimeUsed)
    | none => false)

end Sys2Proof.Machine
end

