-- ==== Sys2Proof/Machine/Llc.lean ====
section
/-! DEFINITION. The memory-side caches: homes (R362), the LLC's lines, partitions, residency and victims (R363 to R365), what an eviction
does (R214, R368 to R371), and the Grinder's choice of sectors (R370). -/

namespace Sys2Proof.Machine

/-! ### Keys -/

/-- The key of a slot in a die's slices: the sector and the view of its copy (R319). -/
def slotKey (sec v : Nat) : Nat := sec * 4096 + v

/-- The way that a slot lies in: the line, with the view of its copies (log 54). The lines of the LLC have the same keys. -/
def wayOf (key : Nat) : Nat := key / 16384 * 4096 + key % 4096

/-- The generation of a view's id (R319); 0 for the base. -/
def viewGen (s : State) (v : Nat) : BitVec 4 := match lookupNat v s.views with
  | some x => x.generation
  | none => 0

def State.modView (s : State) (v : Nat) (f : View → View) : State :=
  match lookupNat v s.views with
  | some x => { s with views := insertNat v (f x) s.views }
  | none => s

/-- The attributes of a page on which the home stacks' work depends (R348). -/
def Page.attr (p : Page) : PageAttr :=
  { grind := p.grind, dfmt := p.dfmt, grid := Grid.code p.grid, pack := p.pack, res := p.res }

/-- A line that no leaf has named: normal, neither packed nor recoded. -/
def plainAttr : PageAttr := { grind := false, dfmt := 0, grid := 3, pack := false, res := 0 }

/-! ### Homes (R362) -/

/-- The row of a line of HBM4 in its unit (R351). -/
def rowOf (s : State) (pa : Nat) : Nat :=
  let m := pa % 2 ^ 33 / 512
  pa / 2 ^ 33 * 32768 + (if skewMode s (pa / 2 ^ 33) = 2 then m / 509 else m / 512)

/-- Home stack, LLC slice and LLC set of a line. The set of a window line is this model's choice (log 71).
DESIGN CHOICE (unsafe, log 71). -/
def lineHome (s : State) (line : Nat) : Nat × Nat × Nat :=
  match physClass (512 * line) with
  | .hbm => (unitOf s (512 * line) / 128, unitOf s (512 * line) % 128, rowOf s (512 * line) % 1024)
  | _ => (line % 4, line / 4 % 128, line / 512 % 1024)

/-- A line that a home stack serves: HBM4, or host memory behind the fabric window (R362, R393). -/
def hasHome (s : State) (line : Nat) : Bool := match physClass (512 * line) with
  | .hbm => true
  | .window slot => field (slotEntry s slot).1 0 2 == 1
  | _ => false


/-- The mirror of a region's count in the home stack of a line (R373): the stamp of a copy that its LLC slice supplies; 0 for a page in no
region. -/
def mirrorOf (s : State) (line : Nat) (rg : Option Nat) : Word := match rg with
  | some r => match lookupNat r s.regions with
    | some x => x.mirrors.toList.getD (lineHome s line).1 0
    | none => 0
  | none => 0

/-! ### Host lines and the journal (R393, R403) -/

/-- The ring's size in bytes, and the physical address of its byte 0. -/
def jrnRing (s : State) : Nat := 2 ^ field s.mgmt.jrnsize 0 6
def jrnStart (s : State) : Nat := field s.mgmt.jrnbase 13 39 * 2 ^ 13

/-- Bytes of a record with its payload. -/
def recordLength (blocks : Nat) : Nat := 64 + 128 * blocks

/-- Bytes of the pad before a record of a length at byte count `t` of a ring. -/
def jrnPadAt (ring t len : Nat) : Nat := if ring - t % ring < len then ring - t % ring else 0

/-- Bytes of the pad that a record of a length needs before it. -/
def jrnPad (s : State) (len : Nat) : Nat := jrnPadAt (jrnRing s) s.mgmt.jrntail.toNat len

/-- The ring has room for records of some payloads in their order, with any pads (R404). -/
def jrnFits (s : State) (l : List Nat) : Bool :=
  let tail := s.mgmt.jrntail.toNat
  let stop := l.foldl (fun t n => t + jrnPadAt (jrnRing s) t (recordLength n) + recordLength n) tail
  decide ((s.mgmt.jrntail - s.mgmt.jrnhead).toNat + (stop - tail) ≤ jrnRing s)

/-- The ring has room for a record behind those that wait for it. -/
def jrnRoom (s : State) (blocks : Nat) : Bool := jrnFits s (s.mgmt.jrnwait.map (fun r => r.2.blocks.length) ++ [blocks])

/-- The record of the response to a read of host memory (R403): its opcode, which this model numbers 2, its address and the data (log 70).
DESIGN CHOICE (unsafe, log 70). -/
def hostResponse (s : State) (sec : Nat) : JrnRecord :=
  { kind := 1, src := 0, fields := BitVec.ofNat 384 (0x200 + 2 ^ 64 * targetAddr s (128 * sec)), blocks := [(s.baseSector sec).bits] }

/-- A fill of the LLC from host memory brings a response in: record mode journals it (R403). -/
def State.noteFill (s : State) (sec : Nat) : State := match physClass (128 * sec) with
  | .window _ => if s.mgmt.recording then { s with mgmt := { s.mgmt with jrnwait := s.mgmt.jrnwait ++ [(s.cycle, hostResponse s sec)] } } else s
  | _ => s

/-- The LLC holds a base sector. -/
def llcHas (s : State) (sec : Nat) : Bool := match lookupNat (wayOf (slotKey sec 0)) s.llc with
  | some e => (lookupNat (sec % 4) e.slots).isSome
  | none => false

/-- The response to a read of host memory is held: the journal has no room for it (R403). -/
def hostHeld (s : State) (sec : Nat) : Bool := match physClass (128 * sec) with
  | .window _ => s.mgmt.recording && !llcHas s sec && !jrnRoom s 1
  | _ => false

/-! ### Lines as stored (R368, R369) -/

/-- The used bytes of a sector on a grid (R368). -/
def usedBytes (grid : Grid) (t : Tag) : Nat :=
  let f := tagFormat t
  let n := sectorCount 64 grid
  if tagVcls t = clsUndef then 0
  else if f = .raw then 128
  else (n * Fmt.width 64 f + 7) / 8 + (if Fmt.isMicro f then n / 32 else 0)

/-- The granules of a frame of some used bytes. -/
def frameGranules (used : List Nat) : Nat := (8 + used.foldl (· + ·) 0 + 127) / 128

/-- The four sectors of a line as the home holds them. -/
def lineSectors (s : State) (line : Nat) : List Sector :=
  (List.range 4).map (fun i => { bits := (s.baseSector (4 * line + i)).bits, tag := s.physTag (4 * line + i) })

/-- The bytes of a frame as one string (R368): the header of four tags, then the used bytes of each sector. -/
def packFrame (grid : Grid) (l : List Sector) : Nat :=
  packFields (l.map (fun x => (16, x.tag.toNat)) ++ l.map (fun x => (8 * usedBytes grid x.tag, x.bits.toNat)))

/-- The sectors of a frame (R369). -/
def unpackFrame (grid : Grid) (n : Nat) : List Sector :=
  let tags : List Tag := (List.range 4).map (fun i => BitVec.ofNat 16 (cut n (16 * i) 16))
  (tags.zip (List.range 4)).map (fun p =>
    let off := 64 + 8 * ((tags.take p.2).map (usedBytes grid)).foldl (· + ·) 0
    { bits := BitVec.ofNat 1024 (cut n off (8 * usedBytes grid p.1)), tag := p.1 })

/-- The used bytes of a line that is to be stored packed; none where it is stored raw (R368). -/
def packing (s : State) (line : Nat) (page : PageAttr) : Option (List Nat) :=
  let grid := Grid.ofBits page.grid
  let l := lineSectors s line
  let used := l.map (fun x => usedBytes grid x.tag)
  if page.pack && decide (grid ≠ .raw) && decide (frameGranules used < 4)
      && l.all (fun x => tagVcls x.tag != clsPoison && tagVcls x.tag != clsBusy) then some used else none

/-- The home writes a line to HBM4, packed or raw (R369). What a frame does not hold reads as zero from then on. -/
def State.storeLine (s : State) (line : Nat) (page : PageAttr) : State :=
  match packing s line page with
  | none => { s with frames := eraseNat line s.frames }
  | some used =>
    let l := unpackFrame (Grid.ofBits page.grid) (packFrame (Grid.ofBits page.grid) (lineSectors s line))
    { s with
      frames := insertNat line used s.frames
      mem := (l.zip (List.range 4)).foldl (fun m q => if q.1.bits = (m.sector (4 * line + q.2)).bits then m
        else m.setSector (4 * line + q.2) q.1) s.mem }


/-! ### What the Grinder takes (R370, R371) -/

/-- GRCTL of a home stack. -/
def grctl (s : State) (stack : Nat) : Word := (lookupNat stack s.mgmt.grctl).getD 0

/-- A sector qualifies for recoding (R370). -/
def qualifies (page : PageAttr) (t : Tag) : Bool :=
  page.grind && tagVcls t == clsValid && tagFormat t != .raw && !malformedSector (Grid.ofBits page.grid) t
    && match Fmt.ofCode page.dfmt with
      | some d => d != .raw && decide (Fmt.width 64 d < Fmt.width 64 (tagFormat t))
      | none => false

/-- The slices of all dies give up their current copies of the sectors of a list (R363, R371). -/
def recallSectors (s : State) (l : List Nat) : State :=
  { s with dies := s.dies.map (fun d => (d.1, { d.2 with
      slots := d.2.slots.filter (fun e => e.2.stale || e.1 % 4096 != 0 || !l.contains (e.1 / 4096)) })) }

/-- The Grinder takes a sector: it reads BUSY from now on (R371). -/
def startGrinder (s : State) (sector : Nat) (page : PageAttr) : State :=
  if (lookupNat sector s.busy).isSome || !qualifies page (s.mem.tag sector) then s
  else recallSectors { s with busy := insertNat sector page s.busy } [sector]


/-! ### The LLC (R363 to R365) -/

/-- LLCPARTn (R364). -/
def llcPart (s : State) (p : Nat) : Word := (lookupNat p s.mgmt.llcpart).getD 0x8FFFFFFFF
def partWays (s : State) (p : Nat) : Nat := field (llcPart s p) 0 32
def inWays (s : State) (p way : Nat) : Bool := partWays s p / 2 ^ way % 2 == 1

/-- The limit of a partition's pinned lines in a set. -/
def pinLimit (s : State) (p : Nat) : Nat :=
  Nat.min (field (llcPart s p) 32 5) (((List.range 32).filter (inWays s p)).length - 1)

/-- The lines of the LLC that stand in one set with a line; `line` and the keys of the LLC carry a view (`wayOf`). -/
def llcSet (s : State) (key : Nat) : List (Nat × LlcLine) :=
  s.llc.filter (fun e => lineHome s (e.1 / 4096) == lineHome s (key / 4096))

/-- The rank of a class among victims: streaming, normal, preferred, pinned (R365). -/
def victimRank (res : BitVec 2) : Int := match res.toNat with
  | 3 => 0
  | 0 => 1
  | 1 => 2
  | _ => 3

/-- The first of two victims. -/
def betterVictim (a b : Nat × LlcLine) : Nat × LlcLine :=
  let ra := victimRank a.2.res
  let rb := victimRank b.2.res
  if ra < rb ∨ (ra = rb ∧ a.2.used ≤ b.2.used) then a else b

/-- The way of a fill, and the line that leaves it (R365): an invalid way first, the lowest of them (log 71). -/
def chooseWay (s : State) (set : List (Nat × LlcLine)) (p : Nat) : Nat × Option Nat :=
  match (List.range 32).find? (fun w => inWays s p w && set.all (fun e => e.2.way != w)) with
  | some w => (w, none)
  | none => match set.filter (fun e => inWays s p e.2.way) with
    | [] => (0, none)
    | e :: l =>
      let v := l.foldl betterVictim e
      (v.2.way, some v.1)

/-- A pinned fill counts as preferred where its partition is at its limit, or where a partition that owns the way would have no way
left without a pinned line (R365). -/
def pinRefused (s : State) (set : List (Nat × LlcLine)) (p way : Nat) : Bool :=
  let pinned (w : Nat) : Bool := set.any (fun e => e.2.way == w && e.2.res == 2)
  decide (pinLimit s p ≤ (set.filter (fun e => e.2.part == p && e.2.res == 2)).length)
    || (List.range 16).any (fun q => inWays s q way && (List.range 32).all (fun w => w == way || !inWays s q w || pinned w))

/-- A base line leaves the LLC (R363, R369, R370): the slices give up its sectors, the home writes it, and the Grinder takes its sectors
where it is enabled. -/
def evictBase (s : State) (line : Nat) (page : PageAttr) : State :=
  let secs := (List.range 4).map (fun i => 4 * line + i)
  let s := recallSectors s secs
  if 0x8000000000 ≤ 512 * line then s
  else
    let s := if bit (grctl s (lineHome s line).1) 0 then secs.foldl (fun s x => startGrinder s x page) s else s
    s.storeLine line page

/-- A line of a view's copies leaves the LLC (R214): the copies are written to the view's spill pages. -/
def evictCopies (s : State) (key : Nat) (e : LlcLine) : State :=
  s.modView (key % 4096) (fun v =>
    let out := (e.slots.filter (fun q => q.2.gen == v.generation)).map (fun q => key / 4096 * 4 + q.1)
    { v with spilled := v.spilled ++ out.filter (fun x => !v.spilled.contains x && (lookupNat x v.copies).isSome) })

/-- A line leaves the LLC. -/
def evictLine (s : State) (key : Nat) (e : LlcLine) : State :=
  let s := { s with llc := eraseNat key s.llc }
  if key % 4096 = 0 then evictBase s (key / 4096) e.page else evictCopies s key e

/-- The place of a line in its set's order of use: the last for a use, the first victim for a streaming fill (R365). -/
def useOrder (set : List (Nat × LlcLine)) (streaming : Bool) : Int :=
  if streaming then set.foldl (fun m e => Min.min m e.2.used) 0 - 1 else set.foldl (fun m e => Max.max m e.2.used) 0 + 1

/-- The class that a line takes at a fill (R365): the class of the leaf, but preferred where a pinned fill is refused or where the line
holds copies of a view. -/
def fillClass (s : State) (set : List (Nat × LlcLine)) (key part way : Nat) (res : BitVec 2) : BitVec 2 :=
  if res = 2 ∧ (key % 4096 ≠ 0 ∨ pinRefused s set part way) then 1 else res

/-- A region is valid (R372). -/
def regionLive (s : State) (rg : Nat) : Bool := match lookupNat rg s.regions with
  | some r => r.valid
  | none => false

/-- A slot of an LLC line as its fill leaves it (R373): a base sector of a page that names a valid region carries the mirror of its home
stack. -/
def llcSlot (s : State) (key : Nat) (rg : Option Nat) : LlcSlot :=
  { dirty := false, gen := viewGen s (key % 4096), stamp := mirrorOf s (key / 4096) (rg.filter (regionLive s)), region := rg }

/-- A fill of sector `i` of a line into the LLC (R363 to R365): an invalid way or a victim's, the class of the leaf it translated through,
and the place in the order of use. A line that is there keeps its way and takes the class and the partition of this fill. -/
def llcFillSector (s : State) (key i part : Nat) (page : PageAttr) (rg : Option Nat) : State :=
  let s : State := if key % 4096 = 0 then { s.noteFill (key / 4096 * 4 + i) with pages := insertNat (key / 4096) page s.pages } else s
  let set := llcSet s key
  match lookupNat key s.llc with
  | some e =>
    let rest := set.filter (fun q => q.1 != key)
    let line : LlcLine := { e with
      part := part, page := page, res := fillClass s rest key part e.way page.res, used := useOrder rest (page.res == 3)
      slots := insertNat i (llcSlot s key rg) e.slots }
    { s with llc := insertNat key line s.llc }
  | none =>
    let c := chooseWay s set part
    let s := match c.2 with
      | some v => match lookupNat v s.llc with
        | some e => evictLine s v e
        | none => s
      | none => s
    let set := llcSet s key
    let line : LlcLine :=
      { way := c.1, part := part, res := fillClass s set key part c.1 page.res, page := page, used := useOrder set (page.res == 3)
        slots := [(i, llcSlot s key rg)], present := [] }
    { s with llc := insertNat key line s.llc }

/-- A request for sector `i` of a line reaches its LLC slice: a hit in any way is a use (R364), anything else a fill. -/
def llcRequest (s : State) (key i part : Nat) (page : PageAttr) (rg : Option Nat) : State :=
  if !hasHome s (key / 4096) then s else
  match lookupNat key s.llc with
  | some e =>
    if (e.slots.any (fun q => q.1 == i && q.2.gen == viewGen s (key % 4096))) then
      let line : LlcLine := { e with used := useOrder (llcSet s key) false }
      { s with llc := insertNat key line s.llc }
    else llcFillSector s key i part page rg
  | none => llcFillSector s key i part page rg

/-- An LLC line changes, where it is there. -/
def State.modLlc (s : State) (key : Nat) (f : LlcLine → LlcLine) : State := match lookupNat key s.llc with
  | some e => { s with llc := insertNat key (f e) s.llc }
  | none => s

/-- The LLC's copy of a sector is newer than HBM4. -/
def LlcLine.soil (e : LlcLine) (i : Nat) : LlcLine := match lookupNat i e.slots with
  | some q => { e with slots := insertNat i { q with dirty := true } e.slots }
  | none => e

/-- A die takes a copy of a line: its presence bit (R363). -/
def LlcLine.given (e : LlcLine) (die : Nat) : LlcLine := if e.present.contains die then e else { e with present := e.present ++ [die] }

/-- The LLC partition of a request of a task of a block (R364); 0 for every other source. -/
def partitionOf (s : State) (block : Nat) : Nat := effective s block .part 21 4

end Sys2Proof.Machine
end

