-- ==== Sys2Proof/Machine/Access.lean ====
section
/-! DEFINITION. Reaching memory: views (R203, R213 to R216), the slices' slots and their events (R319 to R321, R327, R328),
armed lines (R109), and the fabric window (R393). Every load and store of the device goes through `loadSector` and
`storeSector`. -/

namespace Sys2Proof.Machine

/-! ### Views -/

/-- A view of the pool; none for the base and for an id not in use. -/
def State.view? (s : State) (v : Nat) : Option View := lookupNat v s.views

/-- The copy that a view's chain holds of a sector, nearest first (R213: ViewRead), with its stamp; none: the base. -/
def chainCopy (s : State) (sec : Nat) : Nat → Nat → Option (Sector × Word)
  | 0, _ => none
  | fuel + 1, v =>
    if v = 0 then none else
    match lookupNat v s.views with
    | none => none
    | some x => match lookupNat sec x.copies with
      | some c => some c
      | none => chainCopy s sec fuel x.parent

/-- The sector as a view sees it (R213). Depth is at most 4 (R203). -/
def State.viewSector (s : State) (v sec : Nat) : Sector :=
  match chainCopy s sec 5 v with
  | some c => c.1
  | none => s.baseSector sec

/-- The tag as a view sees it; BUSY stands at the base alone. -/
def State.viewTag (s : State) (v sec : Nat) : Tag :=
  match chainCopy s sec 5 v with
  | some c => c.1.tag
  | none => s.physTag sec

/-- The view whose copy of a sector serves a view; 0 for the base (R213). -/
def chainView (s : State) (sec : Nat) : Nat → Nat → Nat
  | 0, _ => 0
  | fuel + 1, v =>
    if v = 0 then 0 else
    match lookupNat v s.views with
    | none => 0
    | some x => match lookupNat sec x.copies with
      | some _ => v
      | none => chainView s sec fuel x.parent

/-- View `v` lies on the chain of view `w` (R213). -/
def inChain (s : State) (v : Nat) : Nat → Nat → Bool
  | 0, _ => false
  | fuel + 1, w => w == v || (w != 0 && match lookupNat w s.views with
    | none => false
    | some x => inChain s v fuel x.parent)

/-! ### Armed lines -/

/-- A write in view `v` to a 512-byte line sets the event flag of every strand that armed it with `wfe`, and wakes every `vwait` that
watches it (R109, R162); in a world, of the strands that see the view.
DEDUCED (unsafe, log 27). -/
def State.notifyLine (s : State) (line : Nat) (v : Nat := 0) : State :=
  s.mapStrands (fun _ x =>
    if x.monitors.contains line && (v == 0 || inChain s v 6 (field x.sys.view 0 12)) then
      match x.wait with
      | some (.vwait _) => { x with watchHit := true }
      | _ => { x with eventFlag := true }
    else x)

/-! ### Who knows of a fabric write (R194, R196) -/

/-- What `a` knows of the writes without acknowledgement, `b` knows from now on.
DEDUCED (unsafe, log 23). -/
def State.informs (s : State) (a b : Knower) : State :=
  if s.unacked.isEmpty then s else
  { s with unacked := s.unacked.map (fun u =>
      (u.1, if u.2.known.contains a && !u.2.known.contains b then { u.2 with known := u.2.known ++ [b] } else u.2)) }

/-- A memory agent reads a sector: what its writers knew, the agent knows. -/
def State.learns (s : State) (ctx : Ctx) (key : Nat) : State := match ctx.agent with
  | some a => s.informs (.sector key) (.agent a ctx.vec)
  | none => s

/-- A memory agent writes a sector: its later readers know what the agent knows. -/
def State.tells (s : State) (ctx : Ctx) (key : Nat) : State := match ctx.agent with
  | some a => s.informs (.agent a ctx.vec) (.sector key)
  | none => s

/-- A strand, or a barista, is free of its task: what its agents knew of, those of the next one do not. -/
def State.forgetAgent (s : State) (key : Nat) : State :=
  if s.unacked.isEmpty then s else
  { s with unacked := s.unacked.map (fun u => (u.1, { u.2 with known := u.2.known.filter (fun k => match k with
      | .agent a _ => a != key
      | _ => true) })) }

/-- What one may know, another knows in its place: the agents of a strand become those of a task that has left it, and back (R194). -/
def State.renameKnower (s : State) (f : Knower → Knower) : State :=
  if s.unacked.isEmpty then s else
  { s with unacked := s.unacked.map (fun u => (u.1, { u.2 with known := u.2.known.map f })) }

/-! ### Handler events -/

/-- Add 1 to a counter that saturates (R342). -/
def satInc (c : BitVec 32) : BitVec 32 := if c = BitVec.allOnes 32 then c else c + 1

/-- Admit an event to a slice's queue, or drop and count it (R328). A message holds its reservation.
DEDUCED (unsafe, log 66). -/
def State.queueEvent (s : State) (b : Nat) (e : HandlerEvent) : State :=
  let x := s.barista b
  let blk := match lookupNat e.asid.toNat (s.die (b / 48)).directory with
    | some d => d.block
    | none => 0
  if btimeExhausted s blk then
    s.setBarista b { x with counters := { x.counters with dropb := satInc x.counters.dropb } }
  else if e.kind ≠ 3 ∧ 48 ≤ x.queue.length + x.inFlight.length then
    s.setBarista b { x with counters := { x.counters with dropq := satInc x.counters.dropq } }
  else s.setBarista b { x with queue := x.queue ++ [e] }

/-- A slice's queue has room for a message (R328).
DEDUCED (unsafe, log 66). -/
def messageRoom (s : State) (b : Nat) : Bool := decide ((s.barista b).queue.length + (s.barista b).inFlight.length < 64)

/-- The number of the agent whose turn it is, and its place in the round: strands by number, then baristas. -/
def agentKey (s : State) : Nat := match s.turn with
  | none => s.strandId
  | some b => 12288 + b

/-- A message leaves for a slice's queue, its record reserved (R328); what its sender knows, its invocation will know (R343). -/
def State.sendMessage (s : State) (b : Nat) (m : HandlerEvent) : State :=
  let t := (s.informs (.agent (agentKey s) false) (.slice b)).informs (.agent (agentKey s) true) (.slice b)
  t.setBarista b { t.barista b with inFlight := (t.barista b).inFlight ++ [m] }

/-- SOURCE of an event of a strand (R329): bit 14 names an engine of it. -/
def sourceOf (ctx : Ctx) (engine : Bool) : Word :=
  match ctx.origin with
  | some g => BitVec.ofNat 64 (coreOf g + 512 * (g % 32) + (if engine || ctx.unit then 16384 else 0))
  | none => 0

/-- The round region that a page names (R348). -/
def Page.names (p : Page) : Option Nat := if p.rgv then some p.rgn else none


/-- The round region of a page (R163); a page that names a region that is not valid is in none (R372). -/
def regionOf (s : State) (p : Page) : Option Nat := p.names.filter (regionLive s)

/-- The 512-aligned virtual line address. -/
def lineVa (va : Word) : Word := va &&& ~~~(511 : Word)

/-- What a slot in force leads to. -/
inductive Target where
  | host
  | peer (dev : Nat) (addr : Nat)
  | mailbox (toHost : Bool) (dev : Nat) (addr : Nat)
deriving DecidableEq, Repr

def targetOf (s : State) (pa slot : Nat) : Target :=
  let e := slotEntry s slot
  match field e.1 0 2 with
  | 1 => .host
  | 2 => .peer (field e.1 2 12) (targetAddr s pa)
  | _ => .mailbox (field e.1 14 1 == 1) (field e.1 2 12) (targetAddr s pa)

/-- The slices cache device memory and host memory; peers, mailboxes and scratchpads they do not (R299, R318, R393). -/
def cacheable (s : State) (p : Page) : Bool := match physClass p.pa with
  | .hbm => true
  | .window slot => targetOf s p.pa slot == .host
  | _ => false

/-- A raised event of a page with handler enable (R327), when the die's directory names a handler of its kind.
DEDUCED (unsafe, log 66). -/
def raiseEvent (s : State) (ctx : Ctx) (p : Page) (va : Word) (kind : BitVec 2) (mask dirty : BitVec 4) (hop : BitVec 4)
    (write engine : Bool) : State :=
  match lookupNat ctx.asid.toNat (s.die ctx.die).directory with
  | none => s
  | some d =>
    let entry : Word := match kind.toNat with
      | 0 => d.miss
      | 1 => d.fill
      | 2 => d.evict
      | _ => d.msg
    if entry = 0 then s
    else s.queueEvent (homeBarista ctx.die p.pa)
      { kind := kind, sect := mask, dirty := dirty, hop := hop, write := write, view := ctx.view, asid := ctx.asid
        addr := lineVa va, payload := 0, source := sourceOf ctx engine }

/-- A die's slice holds the copy of a sector that serves a view (R320, R321). -/
def slotHeld (s : State) (die v sec : Nat) : Bool :=
  let w := chainView s sec 5 v
  match lookupNat (slotKey sec w) (s.die die).slots with
  | some sl => !sl.stale && sl.gen == viewGen s w
  | none => false

/-- The sectors of a line among `mask` that a die's slice does not hold along the view chain (R320, R327).
DEDUCED (unsafe, log 34). -/
def absentMask (s : State) (die v line : Nat) (mask : BitVec 4) : BitVec 4 :=
  (List.range 4).foldl (fun (m : BitVec 4) i => if slotHeld s die v (line * 4 + i) then m &&& ~~~(BitVec.twoPow 4 i) else m) mask

/-- The lines of a die's slice that stand in one set with a way (R318: the home slice and the set are the line modulo 12,288), each
once for every view that has copies of it. -/
def setMates (d : DieSt) (way : Nat) : List Nat :=
  (d.slots.filterMap (fun e => let w := wayOf e.1
    if w / 4096 % 12288 = way / 4096 % 12288 ∧ w ≠ way then some w else none)).dedup

/-- The valid and the dirty sectors of the slots of a line. -/
def slotMask (l : List (Nat × Slot)) (pick : Slot → Bool) : BitVec 4 :=
  l.foldl (fun (m : BitVec 4) e => if pick e.2 then m ||| BitVec.twoPow 4 (e.1 / 4096 % 4) else m) 0

/-- What a replaced way leaves in the LLC (R214, R320, R363): a dirty base sector makes the LLC's own newer than HBM4, and the copies of a
view pass to the LLC with their view tag, in the partition of the task's block. -/
def passToLlc (s : State) (key : Nat) (gone : List (Nat × Slot)) : State :=
  gone.foldl (fun s e =>
    let i := e.1 / 4096 % 4
    if key % 4096 = 0 then if e.2.dirty then s.modLlc key (fun l => l.soil i) else s
    else match lookupNat (key % 4096) s.views with
      | none => s
      | some v =>
        if e.2.gen != v.generation then s
        else (llcRequest s key i (partitionOf s v.block) ((lookupNat (key / 4096) s.pages).getD plainAttr) none).modLlc key (fun l => l.soil i)) s

/-- Replacement (R318, R327): a set of 16 ways gives up its lowest line for a new one; a line with handler enable raises the evict
event of its view with its valid and its dirty sectors. Which way goes is not architectural (log 54).
DESIGN CHOICE (unsafe, log 54). -/
def replaceWay (s : State) (die way : Nat) : State :=
  let d := s.die die
  match setMates d way with
  | [] => s
  | l :: rest =>
    if rest.length < 15 then s
    else
      let gone := d.slots.filter (fun e => wayOf e.1 == l)
      let s := passToLlc (s.setDie die { d with slots := d.slots.filter (fun e => wayOf e.1 != l) }) l gone
      match gone with
      | [] => s
      | e :: _ => match lookupNat e.2.asid.toNat d.directory with
        | none => s
        | some h => if !e.2.hen || h.evict = 0 || e.2.gen != viewGen s (l % 4096) then s else
          s.queueEvent (die * 48 + l / 4096 % 48)
            { kind := 2, sect := slotMask gone (fun _ => true), dirty := slotMask gone (fun x => x.dirty), hop := 0, write := false
              view := l % 4096, asid := e.2.asid, addr := e.2.vline <<< 9, payload := 0, source := 0x10000 }

/-- The LLC serves a fill (R214, R363, R364): a base sector comes into it in the request's partition; a view's copy that stood in a spill
page comes back. -/
def fromLlc (s : State) (die part : Nat) (p : Page) (sec w : Nat) : State :=
  let key := wayOf (slotKey sec w)
  if w = 0 then (llcRequest s key (sec % 4) part p.attr p.names).modLlc key (fun e => e.given die)
  else match lookupNat w s.views with
    | none => s
    | some v =>
      if v.spilled.contains sec then
        (llcRequest s key (sec % 4) part p.attr none).modView w (fun v => { v with spilled := v.spilled.erase sec })
      else s

/-- The copy of a sector that serves view `v` is installed in a die's slice (R320, R321, R373): a base copy of a round region takes as STAMP
the mirror of the home stack that supplies it, a view's copy the stamp it was made under.
DEDUCED (unsafe, log 34). -/
def installSlot (s : State) (die part : Nat) (asid : BitVec 12) (va : Word) (p : Page) (sec v : Nat) : State :=
  let w := chainView s sec 5 v
  let s := fromLlc s die part p sec w
  let key := slotKey sec w
  let sl : Slot :=
    { dirty := false, stale := false, gen := viewGen s w
      stamp := match chainCopy s sec 5 v with
        | some c => c.2
        | none => mirrorOf s (sec / 4) (regionOf s p)
      asid := asid, vline := lineVa va >>> 9, hen := p.hen, region := p.names, data := none, writers := []
      arrives := s.cycle.toNat + Config.fillClocks s.cycle.toNat key }
  replaceWay (s.setDie die { s.die die with slots := insertNat key sl (s.die die).slots }) die (wayOf key)

/-- Install the sectors of a mask, each in its way. -/
def installSlots (s : State) (die part : Nat) (asid : BitVec 12) (va : Word) (p : Page) (line : Nat) (mask : BitVec 4) (v : Nat) : State :=
  (List.range 4).foldl (fun s i => if mask.getLsbD i then installSlot s die part asid va p (line * 4 + i) v else s) s

/-- The LLC partition of a request (R364): that of the task's block; baristas and the device itself use 0. -/
def Ctx.part (s : State) (ctx : Ctx) : Nat := if ctx.barista then 0 else partitionOf s ctx.block

/-- Sectors that a request misses: the miss event, the fill with what it replaces, the fill event (R318, R321, R327); WRITE belongs to the
miss (R329). -/
def fillLine (s : State) (ctx : Ctx) (p : Page) (va : Word) (miss : BitVec 4) (write engine : Bool) : State :=
  let quiet := ctx.barista || ctx.origin.isNone || !p.hen
  let s := if quiet then s else raiseEvent s ctx p va 0 miss 0 0 write engine
  let s := installSlots s ctx.die (ctx.part s) ctx.asid va p (p.pa / 512) miss ctx.view
  if quiet then s else raiseEvent s ctx p va 1 miss 0 0 false engine

/-- A request reaches the slice of its line (R318, R320, R321, R327): sectors that are absent raise the miss event, are filled and
raise the fill event. -/
def State.touch (s : State) (ctx : Ctx) (p : Page) (va : Word) (mask : BitVec 4) (write engine : Bool) : State :=
  if !cacheable s p then s
  else
    let miss := absentMask s ctx.die ctx.view (p.pa / 512) mask
    if miss = 0 then s else fillLine s ctx p va miss write engine

/-- A view writes a sector: the copy that its die's slice holds is the view's own and dirty (R319, R320); an atomic at the LLC leaves it
there (R323). -/
def dirtyView (s : State) (ctx : Ctx) (p : Page) (va : Word) (sec : Nat) : State :=
  let key := slotKey sec ctx.view
  if ctx.llc then
    let s := s.setDie ctx.die { s.die ctx.die with slots := eraseNat key (s.die ctx.die).slots }
    (llcRequest s (wayOf key) (sec % 4) (ctx.part s) p.attr none).modLlc (wayOf key) (fun e => e.soil (sec % 4))
  else
    let s := match lookupNat key (s.die ctx.die).slots with
      | some sl => if sl.gen = viewGen s ctx.view then s else installSlot s ctx.die (ctx.part s) ctx.asid va p sec ctx.view
      | none => installSlot s ctx.die (ctx.part s) ctx.asid va p sec ctx.view
    match lookupNat key (s.die ctx.die).slots with
    | some sl => s.setDie ctx.die { s.die ctx.die with slots := insertNat key { sl with dirty := true } (s.die ctx.die).slots }
    | none => s

/-- What coherence leaves of a slot when another agent writes its sector (R321): of a page in a round region a STALE copy with the old
data and the task that wrote (R166), of any other nothing. -/
def Slot.invalidated (s : State) (sl : Slot) (old : Sector) (owner : Option (BitVec 12 × Word)) : Option Slot :=
  if !sl.region.any (regionLive s) then none
  else if sl.stale then some (match owner with
    | some w => if sl.writers.contains w then sl else { sl with writers := sl.writers ++ [w] }
    | none => sl)
  else some { sl with stale := true, dirty := false, data := some old, writers := owner.toList }

/-- A base sector changes: the slots of other dies are invalidated (R321); the writer's own turns dirty and current. -/
def coherence (s : State) (die : Option Nat) (sec : Nat) (old : Sector) (owner : Option (BitVec 12 × Word)) : List (Nat × DieSt) :=
  let key := slotKey sec 0
  s.dies.map (fun q =>
    match lookupNat key q.2.slots with
    | none => q
    | some sl =>
      if some q.1 = die then
        let st := if sl.stale then mirrorOf s (sec / 4) (sl.region.filter (regionLive s)) else sl.stamp
        let now : Slot := { sl with dirty := true, stale := false, data := none, stamp := st, writers := [] }
        (q.1, { q.2 with slots := insertNat key now q.2.slots })
      else match sl.invalidated s old owner with
        | some kept => (q.1, { q.2 with slots := insertNat key kept q.2.slots })
        | none => (q.1, { q.2 with slots := eraseNat key q.2.slots }))

/-- A sector write to the base: memory, slots with their presence bits, and armed lines. -/
def State.writeBase (s : State) (die : Option Nat) (sec : Nat) (x : Sector) (owner : Option (BitVec 12 × Word) := none) : State :=
  let dies := coherence s die sec (s.baseSector sec) owner
  let s := s.modLlc (wayOf (slotKey sec 0)) (fun e => match die with
    | some d => { e with present := [d] }
    | none => LlcLine.soil { e with present := [] } (sec % 4))
  match physClass (128 * sec) with
  | .window _ =>
    let h := targetAddr s (128 * sec)
    State.notifyLine { s with
      dies := dies
      hostMem := (List.range 128).foldl (fun l i => insertNat (h + i) (BitVec.ofNat 8 (x.bytes i 1)) l) s.hostMem
      hostTags := insertNat (h / 128) x.tag s.hostTags } (sec / 4)
  | _ => State.notifyLine { s with dies := dies, mem := s.mem.setSector sec x } (sec / 4)

/-! ### The fabric window (R393) -/

/-- The header of a Cemen transfer (R395) at version 1. `addr` is a line address; an 8-byte atomic puts the place of its bytes
in the low bits (log 40).
DESIGN CHOICE (unsafe, log 40). -/
def cemenHeader (type smask dst addr : Nat) (tags : Nat) (opx : Nat) : BitVec 256 :=
  BitVec.ofNat 256 (type + 256 * 1 + 4096 * smask + 2 ^ 16 * (Config.deviceId.toNat) + 2 ^ 28 * dst
    + 2 ^ 40 * (addr % 2 ^ 52) + 2 ^ 92 * tags + 2 ^ 156 * opx)

/-- The target device of a Cemen message (R395). -/
def msgTarget (m : CemenMsg) : Nat := (m.header.extractLsb' 28 12).toNat

/-- The port that a transfer leaves by: the one it names where that leads to the target, otherwise the lowest that does (R390, R396).
DESIGN CHOICE (unsafe, log 40). -/
def State.routed (s : State) (x : Sent) : Sent :=
  let via (m : CemenMsg) (l : List Nat) : CemenMsg := if l.contains m.port then m else { m with port := l.headD m.port }
  match x with
  | .cemen m => .cemen (via m (portsTo s (msgTarget m)))
  | .hostMessage toHost m => .hostMessage toHost (via m (if toHost then (List.range 12).filter (carriesCemen s) else portsTo s (msgTarget m)))
  | .hostWrite .. => x

/-- Send a transfer; it awaits its acknowledgement when it writes, and its agent knows of it, as do the readers of the sector at `addr`,
which `key` names (R196, R397). A write of a task that has left its strand is the task's.
DEDUCED (unsafe, log 23). -/
def State.send (s : State) (ctx : Ctx) (x : Sent) (addr : Word) (awaits : Bool) (key : Option Nat := none) : State :=
  let id := s.sentSeq
  let s := { s with sent := s.sent ++ [s.routed x], sentSeq := id + 1 }
  let who : List Knower := match ctx.agent, ctx.owner with
    | some a, _ => [.agent a ctx.vec]
    | none, some w => [.task w.1 w.2 ctx.view ctx.vec]
    | none, none => []
  if awaits && !who.isEmpty then
    { s with unacked := insertNat id { addr := addr, asid := ctx.asid, since := s.cycle.toNat, known := who ++ (key.map Knower.sector).toList } s.unacked }
  else s

/-- A transfer that the device sends of itself. -/
def State.sendPlain (s : State) (x : Sent) : State := { s with sent := s.sent ++ [s.routed x], sentSeq := s.sentSeq + 1 }

/-- A store to a peer: one tagged write (R395), whole or partial by bytes, or partial by elements where `em` names them. `x` is
the sector with the new bits in place under the tag the store gives, `mask` the bytes it covers, `key` the sector as readers of this device
name it. -/
def peerWrite (s : State) (ctx : Ctx) (dev addr : Nat) (va : Word) (x : Sector) (mask : BitVec 128)
    (em : Option (BitVec 128)) (key : Nat) : State :=
  let i := addr / 128 % 4
  let opx : Nat := match em with
    | some _ => 3
    | none => if mask = BitVec.allOnes 128 then 0 else 1
  s.send ctx (.cemen
    { port := 0, header := cemenHeader 1 (2 ^ i) dev (addr / 512 * 512) (x.tag.toNat * 2 ^ (16 * i)) opx
      mask := if opx = 0 then 0 else em.getD mask, blocks := [x.bits] }) va true (some key)

/-- The host message of a store to a mailbox (R393, R395): TYPE 0x05 to the slot's target, with the stored bytes and their mask, which the
rule does not place (log 42).
DESIGN CHOICE (unsafe, log 42). -/
def mailboxMessage (toHost : Bool) (dev addr : Nat) (x : Sector) (mask : BitVec 128) : Sent :=
  let i := addr / 128 % 4
  .hostMessage toHost
    { port := 0, header := cemenHeader 5 (2 ^ i) (if toHost then 0 else dev) (addr / 512 * 512) (x.tag.toNat * 2 ^ (16 * i)) 0
      mask := mask, blocks := [x.bits] }

/-- A host write (R393, R397): host memory takes the bytes, and the write awaits its global observation. -/
def hostWrite (s : State) (ctx : Ctx) (sec : Nat) (va : Word) (x : Sector) (mask : BitVec 128) : State :=
  (s.writeBase (if ctx.llc then none else some ctx.die) sec x ctx.owner).send ctx (.hostWrite (targetAddr s (128 * sec)) x.bits mask) va true
    (some (slotKey sec 0))

/-! ### Copies in flight (R268) -/

/-- The copies of a strand that are not done (R264). -/
def copiesOf (s : State) (g : Nat) : List CopyReq := s.cores.flatMap (fun c => c.2.copies.filter (fun r => r.gid == some g))

/-- What orders the strand's copies waits until they are complete (R269), in the way that its rule says: frozen (`.engine`: R113, R159,
R164, R307), or as a stall of R25 (`.copies`: R198, R340, R400).
DESIGN CHOICE (unsafe, log 1). -/
def copiesDone (s : State) (w : Wait := .engine) : Except Stop Unit := match s.turn with
  | none => if (copiesOf s s.strandId).isEmpty then .ok () else .error (.wait w)
  | some _ => .ok ()

/-- A range meets the bytes [lo, hi). -/
def CopyRange.meets (r : CopyRange) (strip : Bool) (lo hi : Nat) : Bool :=
  r.strip == strip && decide (lo < r.hi) && decide (r.lo < hi)

/-- The pending requests of strand `g` that an access to [lo, hi) meets, with their cores: their destinations, and for a write their
sources. -/
def State.copiesMet (s : State) (g : Nat) (strip write : Bool) (lo hi : Nat) : List (Nat × CopyReq) :=
  s.cores.flatMap (fun c => (c.2.copies.filter (fun r => r.gid == some g
    && (r.dst.meets strip lo hi || (write && r.src.meets strip lo hi)))).map (fun r => (c.1, r)))

/-- A memory access of a strand to a sector waits for a copy of the strand whose range it meets; the copy engine does not. -/
def copyHold (s : State) (ctx : Ctx) (va : Word) (write engine : Bool) : Option Stop :=
  match ctx.gid with
  | some g =>
    let lo := va.toNat / 128 * 128
    if engine then none else (s.copiesMet g false write lo (lo + 128)).head?.map (fun r => .wait (.copy r.1 r.2.id))
  | none => none

/-! ### Loads and stores -/

/-- An operation that a view defers (R216); none left of 64 entries is the outbox-full fault, whose edata is the address of a store and 0
otherwise (R217). -/
def State.defer (s : State) (ctx : Ctx) (edata : Word) (e : Deferred) : Except Stop State :=
  match lookupNat ctx.view s.views with
  | none => .ok s
  | some v =>
    if 64 ≤ v.outbox.length then .error (if ctx.barista then .abort 0xFB else trapOf 0x35 edata)
    else .ok (s.modView ctx.view (fun v => { v with outbox := v.outbox ++ [e] }))

/-- The charge of a view's next copy (R214): a new spill page for every 64 copies, on the block and its ancestors. -/
def State.chargeSpill (s : State) (ctx : Ctx) (va : Word) : Except Stop State :=
  match lookupNat ctx.view s.views with
  | none => .ok s
  | some v =>
    if v.copies.length % 64 ≠ 0 then .ok s
    else if withinAll s v.block (fun b => match lookupNat b s.blocks with
        | some x => decide (x.spillUsed + 1 ≤ effective s b .spill 448 32)
        | none => true)
    then .ok ((chain s v.block).foldl (fun s b => s.modBlock b (fun x => { x with spillUsed := x.spillUsed + 1 })) s)
    else .error (if ctx.barista then .abort 0xFD else trapOf 0x32 (va &&& ~~~(127 : Word)))

/-- The answer of a peer to a request that the instruction makes under a key (R393, R395): an error answer raises the fault it
names; without an answer the request is sent and waited for. -/
def askPeer (s : State) (ctx : Ctx) (va : Word) (dev addr key : Nat) (m : CemenMsg) : Except Stop CemenMsg :=
  match ctx.agent with
  | none => .error (.abort 0xFD)
  | some g => match lookupNat key ((lookupNat g s.replies).getD []) with
    | none => .error (.ask dev addr key m)
    | some r =>
      if r.header.extractLsb' 156 1 = 1 then .error (trapOf ((r.header.extractLsb' 157 7).setWidth 8) va) else .ok r

/-- The sector of a peer's answer (R393, R395). -/
def answered (m : CemenMsg) (addr : Nat) : Sector :=
  { bits := m.blocks.headD 0, tag := m.header.extractLsb' (92 + 16 * (addr / 128 % 4)) 16 }

/-- The sector at a page (R96, R213): a BUSY sector waits, and a host sector whose response the journal holds (R403); a peer's sector that
no view of the chain has written is asked for and waited for (R393). -/
def peekSector (s : State) (ctx : Ctx) (p : Page) (va : Word) : Except Stop Sector :=
  let sec := p.pa / 128
  match physClass p.pa with
  | .window slot => match targetOf s p.pa slot with
    | .peer dev addr => match chainCopy s sec 5 ctx.view with
      | some c => .ok c.1
      | none => (askPeer s ctx va dev addr sec
          { port := 0, header := cemenHeader 2 (2 ^ (addr / 128 % 4)) dev (addr / 512 * 512) 0 0, mask := 0, blocks := [] }).map
          (fun m => answered m addr)
    | _ => if hostHeld s sec then .error (.wait (.busy sec)) else .ok (s.baseSector sec)
  | _ => if tagVcls (s.viewTag ctx.view sec) = clsBusy then .error (.wait (.busy sec)) else .ok (s.viewSector ctx.view sec)

/-- What the device knows of a peer's sector that a store reaches: the answer that the instruction has had, as `ste` has (R99), or
nothing. -/
def knownPeer (s : State) (ctx : Ctx) (addr sec : Nat) : Sector :=
  match ctx.agent.bind (fun a => lookupNat sec ((lookupNat a s.replies).getD [])) with
  | some m => answered m addr
  | none => { bits := 0, tag := tagRaw }

/-- The key of the copy of a sector that serves a view. -/
def servingKey (s : State) (ctx : Ctx) (p : Page) : Nat := slotKey (p.pa / 128) (chainView s (p.pa / 128) 5 ctx.view)

/-! ### The two memory agents of a strand (R185, R186) -/

/-- The write of the strand's other memory agent to the sector that serves a reader, which nothing orders yet (R186). -/
def unseen (s : State) (ctx : Ctx) (sec : Nat) : Option Unordered :=
  if s.unordered.isEmpty then none else match ctx.agent with
  | none => none
  | some g => s.unordered.find? (fun u => u.agent && u.gid == g && u.vec != ctx.vec && u.sec == sec && u.view == chainView s sec 5 ctx.view)

/-- An agent finds the sector as it was before that write, or stores before it (R186, R187): the value is free.
DESIGN CHOICE (safe, log 77). -/
def before (s : State) (ctx : Ctx) (va : Word) (sec : Nat) : Option Unordered := match unseen s ctx sec with
  | some u => if Config.findsOld s.cycle.toNat (2 * u.gid + (if ctx.vec then 1 else 0)) va.toNat then some u else none
  | none => none

/-- A sector with the bytes of a mask as they were; under another tag, the sector as it was (R190). -/
def Sector.asBefore (x old : Sector) (mask : BitVec 128) : Sector :=
  if x.tag = old.tag then
    { x with bits := overlay x.bits old.bits mask }
  else old

/-- The writes to a sector that someone has read are seen by every agent from then on (R187, R199). -/
def State.sawWrites (s : State) (ctx : Ctx) (sec : Nat) : State :=
  if s.unordered.isEmpty then s else
  let v := chainView s sec 5 ctx.view
  { s with unordered := s.unordered.map (fun u => if u.sec == sec && u.view == v then { u with agent := false } else u) }

/-- A page whose memory lies in a peer, or that is a mailbox. -/
def outside (s : State) (p : Page) : Bool := match physClass p.pa with
  | .window slot => targetOf s p.pa slot != .host
  | _ => false

/-- A write of a strand's memory agent is one that its other agent, and its walks, need not see yet (R186, R352); what the agent has
written to, it sees. -/
def State.wrote (t s : State) (ctx : Ctx) (p : Page) (mask : BitVec 128) : State :=
  let sec := p.pa / 128
  match ctx.agent with
  | none => t
  | some g =>
    if 12288 ≤ g || outside s p then t else
    let own (u : Unordered) : Bool := u.gid == g && u.vec == ctx.vec && u.sec == sec && u.view == ctx.view
    let others := (t.unordered.filter (fun u => !own u)).map (fun u =>
      if u.gid = g ∧ u.sec = sec ∧ u.view = ctx.view then { u with agent := false } else u)
    let u : Unordered := match t.unordered.find? (fun u => own u && u.agent) with
      | some u => { u with mask := u.mask ||| mask, walk := true, released := false }
      | none => { gid := g, vec := ctx.vec, view := ctx.view, sec := sec, old := s.viewSector ctx.view sec, mask := mask, agent := true
                  walk := true, released := false }
    { t with unordered := others ++ [u] }

/-- The writes of strand `g` that a fence orders before its other agent's later events (R193, R194), `scalar` and `vector` naming the
writers; `walks` that it orders them before later walks too (R352). -/
def State.ordered (s : State) (g : Nat) (scalar vector walks : Bool) : State :=
  if s.unordered.isEmpty then s else
  let seen (u : Unordered) : Bool := if u.vec then vector else scalar
  let l := s.unordered.map (fun u => if u.gid = g then { u with agent := u.agent && !seen u, walk := u.walk && !walks } else u)
  { s with unordered := l.filter (fun u => u.agent || u.walk) }

/-- A release of strand `g` comes after its writes (R198). -/
def State.releases (s : State) (g : Nat) : State :=
  if s.unordered.isEmpty then s else
  { s with unordered := s.unordered.map (fun u => if u.gid = g then { u with released := true } else u) }

/-- An acquire of strand `g` may have read from a release that came after its writes: both its agents see those from then on (R197, R199).
-/
def State.acquires (s : State) (g : Nat) : State :=
  if s.unordered.isEmpty then s else
  let l := s.unordered.map (fun u => if u.gid = g then { u with agent := u.agent && !u.released } else u)
  { s with unordered := l.filter (fun u => u.agent || u.walk) }

/-- A sector read without its effect on the slices; a copy of the strand in flight holds it (R268). -/
def readSector (s : State) (ctx : Ctx) (p : Page) (va : Word) (engine : Bool) : Except Stop Sector :=
  match copyHold s ctx va false engine with
  | some x => .error x
  | none => (peekSector s ctx p va).map (fun x => match before s ctx va (p.pa / 128) with
    | some u => x.asBefore u.old u.mask
    | none => x)

/-- A barista whose load the slice still has to fill waits for the data (R330).
DESIGN CHOICE (safe, log 76). -/
def State.awaitFill (s : State) (ctx : Ctx) (p : Page) : State := match s.turn with
  | none => s
  | some b => match lookupNat (servingKey s ctx p) (s.die ctx.die).slots with
    | none => s
    | some sl => if sl.arrives ≤ s.cycle.toNat then s
      else s.setBarista b { s.barista b with wait := some (.filling sl.arrives) }

/-- What a read of a sector leaves: what its writers knew the reader knows (R196), the translation is cached (R353), and a write that it has
found is seen from then on. -/
def State.hasRead (t s : State) (ctx : Ctx) (p : Page) (va : Word) : State :=
  let t := if (before s ctx va (p.pa / 128)).isSome then t else t.sawWrites ctx (p.pa / 128)
  ((t.learns ctx (servingKey s ctx p)).keep p.walked).awaitFill ctx p

/-- A sector read (R96, R213). -/
def loadSector (s : State) (ctx : Ctx) (p : Page) (va : Word) (engine : Bool) : Except Stop (Sector × State) :=
  match readSector s ctx p va engine with
  | .error x => .error x
  | .ok x => .ok (x, (s.touch ctx p va (BitVec.twoPow 4 (p.pa / 128 % 4)) false engine).hasRead s ctx p va)

/-- World-escape (R217), or a handler's abort 0xFC (R337). -/
def worldEscape (ctx : Ctx) (va : Word) : Stop := if ctx.barista then .abort 0xFC else trapOf 0x30 va

/-- A write in view V (R213: ViewWrite): the first write of a sector fetches it, takes a copy and charges it. -/
def viewStore (s : State) (ctx : Ctx) (p : Page) (va : Word) (op : StoreOp) (engine : Bool) : Except Stop State := do
  let sec := p.pa / 128
  let own := match lookupNat ctx.view s.views with
    | some v => lookupNat sec v.copies
    | none => none
  let charged ← match own with
    | some _ => .ok s
    | none => s.chargeSpill ctx va
  let x ← peekSector s ctx p va
  let t := if ctx.llc then charged else charged.touch ctx p va (BitVec.twoPow 4 (sec % 4)) true engine
  let stamp := match chainCopy t sec 5 ctx.view with
    | some c => c.2
    | none => match lookupNat (slotKey sec 0) (t.die ctx.die).slots with
      | some sl => sl.stamp
      | none => mirrorOf t (sec / 4) (regionOf t p)
  let u := t.modView ctx.view (fun v => { v with copies := insertNat sec (op.apply x, stamp) v.copies })
  .ok (((dirtyView u ctx p va sec).notifyLine (sec / 4) ctx.view).tells ctx (slotKey sec ctx.view))

/-- An atomic of a wider scope than the die executes at the LLC (R323), which takes the line in the request's partition (R364). -/
def atLlcLine (s : State) (ctx : Ctx) (p : Page) : State :=
  llcRequest s (wayOf (slotKey (p.pa / 128) 0)) (p.pa / 128 % 4) (ctx.part s) p.attr p.names

/-- A request of a write for its sector: at the slice of the requester's die, or for an atomic of a wider scope at the LLC, which leaves the
slices without the line (R323). -/
def requestWrite (s : State) (ctx : Ctx) (p : Page) (va : Word) (engine : Bool) : State :=
  if ctx.llc then (if cacheable s p then atLlcLine s ctx p else s) else s.touch ctx p va (BitVec.twoPow 4 (p.pa / 128 % 4)) true engine

/-- A write of the base in device memory or a scratchpad. -/
def baseStore (s : State) (ctx : Ctx) (p : Page) (va : Word) (op : StoreOp) (engine : Bool) : State :=
  let sec := p.pa / 128
  let t := requestWrite s ctx p va engine
  (t.writeBase (if ctx.llc then none else some ctx.die) sec (op.apply (s.baseSector sec)) ctx.owner).tells ctx (slotKey sec 0)

/-- A write through the fabric window, at its target (R393): `mask` names the storage bytes and `em` the elements. Strands that armed the
line see it (R109), and its later readers know what the writer knows (R196). -/
def windowStore (s : State) (ctx : Ctx) (slot pa : Nat) (va : Word) (mask : BitVec 128) (em : Option (BitVec 128)) (op : StoreOp) : State :=
  let sec := pa / 128
  match targetOf s pa slot with
  | .host => hostWrite (s.tells ctx (slotKey sec 0)) ctx sec va (op.apply (s.baseSector sec)) mask
  | .peer dev addr =>
    peerWrite ((s.tells ctx (slotKey sec 0)).notifyLine (sec / 4)) ctx dev addr va (op.apply (knownPeer s ctx addr sec)) mask em (slotKey sec 0)
  | .mailbox toHost dev addr => s.send ctx (mailboxMessage toHost dev addr (op.apply { bits := 0, tag := tagRaw }) mask) va true

/-- A store that may stand before a write of the strand's other agent (R186, R187) leaves that write's bytes; an atomic reads what it
replaces and stands behind it (R189). -/
def StoreOp.behind (op : StoreOp) (u : Option Unordered) : StoreOp := match u, op with
  | none, _ => op
  | some _, .element .. => op
  | some _, .amo .. => op
  | some _, .atomic .. => op
  | some _, .scatter .. => op
  | some u, _ => .under u.mask op

/-- A sector write without what it leaves unordered. World rules come first, then BUSY waits (R96, R213, R216 to R218, R299, R393). -/
def performStoreOp (s : State) (ctx : Ctx) (p : Page) (va : Word) (mask : BitVec 128) (em : Option (BitVec 128))
    (op : StoreOp) (engine : Bool) : Except Stop State :=
  let sec := p.pa / 128
  let world := ctx.view != 0
  match physClass p.pa with
  | .scratch _ =>
    if world then .error (worldEscape ctx va) else .ok (baseStore s ctx p va op engine)
  | .window slot =>
    if world && p.wsh then .error (worldEscape ctx va)
    else if world then match targetOf s p.pa slot with
      | .mailbox _ _ _ =>
        let new := op.apply { bits := 0, tag := tagRaw }
        s.defer ctx va (.hostMessage slot (128 * sec) va new.bits mask new.tag)
      | .host => s.defer ctx va (.hostStore p.pa va mask em op)
      | .peer _ _ => viewStore s ctx p va op engine
    else if cacheable s p && hostHeld s sec then .error (.wait (.busy sec))
    else
      .ok (windowStore (requestWrite s ctx p va engine) ctx slot p.pa va mask em op)
  | _ =>
    if world && p.wsh then .error (worldEscape ctx va)
    else if tagVcls (s.viewTag ctx.view sec) = clsBusy then .error (.wait (.busy sec))
    else if world then viewStore s ctx p va op engine
    else .ok (baseStore s ctx p va op engine)

/-- A sector write: `op` says what it does to the sector, `mask` which storage bytes it covers, `em` its elements where it writes
elements. A copy of the strand in flight holds it (R268). -/
def storeSector (s : State) (ctx : Ctx) (p : Page) (va : Word) (mask : BitVec 128) (em : Option (BitVec 128))
    (op : StoreOp) (engine : Bool) : Except Stop State :=
  match copyHold s ctx va true engine with
  | some x => .error x
  | none =>
    match performStoreOp s ctx p va mask em (op.behind (before s ctx va (p.pa / 128))) engine with
    | .error x => .error x
    | .ok t => .ok ((t.wrote s ctx p mask).keep p.walked)

/-- The byte mask [off, off + n) of a sector. -/
def byteMask (off n : Nat) : BitVec 128 := BitVec.ofNat 128 ((2 ^ n - 1) * 2 ^ off)

end Sys2Proof.Machine
end

