-- ==== Sys2Proof/Machine/Flags.lean ====
section
/-! DEFINITION. The fields of sys.status, sys.vcfg, sys.lease, sys.view, sys.blend and sys.inldepth (R22, R23, R54, R204, R306), and the sticky flags
(R55). -/

namespace Sys2Proof.Machine

/-- sys.status (R22). -/
def Strand.rm (x : Strand) : BitVec 3 := x.sys.status.extractLsb' 5 3
def Strand.mode (x : Strand) : Bool := bit x.sys.status 8
def Strand.pfxBit (x : Strand) : Bool := bit x.sys.status 9
def Strand.priv (x : Strand) : Bool := bit x.sys.status 10
def Strand.ppriv (x : Strand) : Bool := bit x.sys.status 11
def Strand.pmode (x : Strand) : Bool := bit x.sys.status 12
def Strand.tip (x : Strand) : Bool := bit x.sys.status 13
def Strand.ne (x : Strand) : Bool := bit x.sys.status 14
def Strand.np (x : Strand) : Bool := bit x.sys.status 15

/-- sys.vcfg (R23): the declared register count, the widest declared width, masking, VL and VLMAX. -/
def Strand.nreg (x : Strand) : Nat := 8 * 2 ^ field x.sys.vcfg 0 2
def Strand.wmax (x : Strand) : Nat := 8 * 2 ^ field x.sys.vcfg 2 2
def Strand.mz (x : Strand) : Bool := bit x.sys.vcfg 4
def Strand.vl (x : Strand) : Nat := field x.sys.vcfg 8 18
def Strand.vlmax (x : Strand) : Nat := field x.sys.vcfg 32 18

/-- sys.lease (R23). -/
def Strand.grant (x : Strand) : Nat := field x.sys.lease 0 8
def Strand.least (x : Strand) : Nat := field x.sys.lease 8 4
def Strand.pref (x : Strand) : Nat := field x.sys.lease 12 4
def Strand.pend (x : Strand) : Bool := bit x.sys.lease 16
def Strand.live (x : Strand) : Nat := field x.sys.lease 17 7

/-- Bytes of one register (R23): floor(LIVE * 16,384 / n). -/
def Strand.regBytes (x : Strand) : Nat := x.live * 16384 / x.nreg
/-- The VLMAX of a number of live lanes (R23). -/
def vlmaxOf (nreg wmax live : Nat) : Nat := live * 16384 / nreg * 8 / wmax
/-- Positions of a register in a format (R44): floor(bytes / 8) for A48 and I48. -/
def Strand.positions (x : Strand) (f : Fmt) : Nat := if Fmt.isWide f then x.regBytes / 8 else x.vlmax

/-- sys.view (R204), sys.blend (R54), sys.inldepth (R306). -/
def Strand.vid (x : Strand) : Nat := field x.sys.view 0 12
def Strand.depth (x : Strand) : Nat := field x.sys.view 12 3
def Strand.rivalIndex (x : Strand) : Nat := field x.sys.view 15 3
def Strand.judge (x : Strand) : Bool := bit x.sys.view 22
def Strand.bank (x : Strand) : BitVec 2 := x.sys.blend.extractLsb' 0 2
def Strand.inlBound (x : Strand) : Nat := field x.sys.inldepth 0 4
def Strand.inlDepth (x : Strand) : Nat := field x.sys.inldepth 4 4

/-- What fixes the rounding of the strand's elements (R52). -/
def Strand.roundState (x : Strand) : RoundState := { mode := x.rm, seed := x.sys.seed, base := x.sys.stripbase }

/-- The rounding of an element (R52): RM, with the stochastic bits of its index. -/
def Strand.rounding (x : Strand) (idx : Nat) : Rounding := x.roundState.at idx

/-- Sticky flags add to sys.status [4:0] (R55). -/
def Strand.raise (x : Strand) (fl : Sticky) : Strand :=
  { x with sys := { x.sys with status := x.sys.status ||| fl.setWidth 64 } }

def Strand.setStatus (x : Strand) (w : Word) : Strand := { x with sys := { x.sys with status := w } }
def Strand.setVcfg (x : Strand) (w : Word) : Strand := { x with sys := { x.sys with vcfg := w } }
def Strand.setLease (x : Strand) (w : Word) : Strand := { x with sys := { x.sys with lease := w } }
def Strand.setView (x : Strand) (w : Word) : Strand := { x with sys := { x.sys with view := w } }
def Strand.setVstart (x : Strand) (n : Nat) : Strand := { x with sys := { x.sys with vstart := BitVec.ofNat 64 n } }
def Strand.setVl (x : Strand) (n : Nat) : Strand := x.setVcfg (setField x.sys.vcfg 8 18 n)

end Sys2Proof.Machine
end

