-- ==== Sys2Proof/Machine/Views.lean ====
section
/-! DEFINITION. Leaving a strand, and the end of views (R203, R205, R209 to R211, R214, R320). -/

namespace Sys2Proof.Machine

/-- One binding of a queue is removed; the last one takes its entries with it (R177). -/
def State.unbindQueue (s : State) (c q : Nat) : State :=
  match lookupNat q (s.core c).queues with
  | none => s
  | some x =>
    let l := (s.core c).queues
    let l := if x.bindings ≤ 1 then eraseNat q l else insertNat q { x with bindings := x.bindings - 1 } l
    s.setCore c { s.core c with queues := l }
/-- Granules return to the free pool of a core, their sectors as a new allocation finds them (R240); those that a copy of a removed task
still reads or writes return with it (R382). -/
def State.freeGranules (s : State) (c : Nat) (l : List Nat) : State :=
  let k := s.core c
  let l := l.filter (fun g => !k.copies.any (fun r => r.orphan.isSome && (r.src.strip || r.dst.strip) && r.granules.contains g))
  s.setCore c { k with
    granulesUsed := k.granulesUsed.filter (fun g => !l.contains g)
    strip := k.strip.filter (fun p => !l.contains (p.1 / 128)) }

/-- Retired lanes of clusters that are free go dark at once (R226). -/
def darkenFree (s : State) (core : Nat) : State :=
  let c := s.core core
  if c.retiring = 0 then s else
  let free : Nat := (List.range 8).foldl (fun n k =>
    if (List.range 32).all (fun i => (s.strandAt (core * 32 + i)).grant / 2 ^ k % 2 == 0) && c.pendingFree.all (fun p => p.1 != k)
    then n + 255 * 2 ^ (8 * k) else n) 0
  let dark := c.retiring &&& BitVec.ofNat 64 free
  if dark = 0 then s else s.setCore core { c with lanemap := c.lanemap &&& ~~~dark, retiring := c.retiring &&& ~~~dark }

/-- Lane clusters of a core have become free in this clock (R226, R230); after a switch a retiring lane of theirs goes dark at the next
grant (R296). -/
def State.clustersFreed (s : State) (core : Nat) (switched : Bool := false) : State :=
  let s := if switched then s else darkenFree s core
  s.setCore core { s.core core with freed := true }

/-- Nothing of a task stays on strand `g`; the clusters it held are free. What leaves a strand is ordered before what comes after, as by
`fence.all` (R202). -/
def State.clearStrand (s : State) (g : Nat) (switched : Bool := false) : State :=
  let held := (s.strandAt g).grant != 0
  let s := ((s.setStrandAt g Strand.reset).forgetAgent g).ordered g true true true
  if held then s.clustersFreed (coreOf g) switched else s

/-- A strand is freed: its bindings go, its own strip granules are free, and nothing of the task stays on it. -/
def State.vacate (s : State) (g : Nat) (keepStrip : Bool) : State :=
  let x := s.strandAt g
  let s := x.q.toList.foldl (fun s b => match b with
    | some q => s.unbindQueue (coreOf g) q.toNat
    | none => s) s
  let s := if keepStrip || !ownsStrip s x then s else s.freeGranules (coreOf g) x.strip
  s.clearStrand g

/-- The rivals of an open fork. -/
def State.rivals (s : State) (seq : Nat) : List Rival := (lookupNat seq s.forks).getD []

/-- Replace a rival's entry in the record of its fork. -/
def setRival (l : List Rival) (i : Nat) (f : Rival → Rival) : List Rival :=
  (l.zip (List.range l.length)).map (fun p => if p.2 = i then f p.1 else p.1)

/-- The state of a rival in its fork's record changes. -/
def State.markRival (s : State) (v : View) (st : ViewState) : State :=
  { s with forks := match lookupNat v.fork s.forks with
    | some l => insertNat v.fork (setRival l v.index (fun r => { r with state := st })) s.forks
    | none => s.forks }

/-- A view changes its state, in the pool and in its fork's record. -/
def State.setViewState (s : State) (id : Nat) (st : ViewState) : State :=
  match lookupNat id s.views with
  | none => s
  | some v => (s.modView id (fun w => { w with state := st })).markRival v st

/-- Spill pages of a number of copies (R214). -/
def spillPages (n : Nat) : Nat := (n + 63) / 64

/-- Return spill pages to a block and its ancestors. -/
def State.returnSpill (s : State) (block pages : Nat) : State :=
  (chain s block).foldl (fun s b => s.modBlock b (fun x => { x with spillUsed := x.spillUsed - pages })) s

/-- A view has ended: its queued events and prefetches are dropped, and a running invocation is to abort (R332, R339). -/
def dropHandlers (s : State) (id : Nat) : State :=
  { s with baristas := s.baristas.map (fun q =>
      let x := q.2
      let n : Nat := (x.prefetches.filter (fun p => p.view == id)).length
      (q.1, { x with
        queue := x.queue.filter (fun e => e.view != id), prefetches := x.prefetches.filter (fun p => p.view != id)
        counters := { x.counters with pfdrop := (List.replicate n ()).foldl (fun c _ => satInc c) x.counters.pfdrop }
        invocation := x.invocation.map (fun v => if v.event.view = id then { v with lost := true } else v) })) }

/-- A view id returns to the pool (R205): its charges return, its copies and outbox are dropped with what the copy engine still had to do
in it, its strip copy is free, and its slots are to be reclaimed (R320). -/
def State.returnView (s : State) (id : Nat) : State :=
  match lookupNat id s.views with
  | none => s
  | some v =>
    let s := s.returnSpill v.block (spillPages v.copies.length)
    let s := (chain s v.block).foldl (fun s b => s.modBlock b (fun x => { x with viewsUsed := x.viewsUsed - 1 })) s
    let s := match v.gid with
      | some g => s.setStrandAt g { s.strandAt g with strip := [] }
      | none => s
    let s := match v.strip with
      | some l => s.freeGranules v.core l
      | none => s
    dropHandlers { s with
      views := eraseNat id s.views, reclaims := s.reclaims ++ [(id, v.generation)]
      cores := s.cores.map (fun c => (c.1, { c.2 with copies := c.2.copies.filter (fun r => r.view != id) })) } id

/-- A rival's strand is stopped and freed; one that halted stays halted until its domain recovers it (R29). -/
def State.stopRival (s : State) (id : Nat) (v : View) : State :=
  match v.gid with
  | some g => if v.state = .faulted then s else (s.vacate g false).modView id (fun w => { w with gid := none, strip := none })
  | none => s

/-- The fork that a view's rival judges, if it is open: that of a live child, of the judge where it is parked, or of its strand's record. -/
def State.forkOf (s : State) (id : Nat) : Option Nat :=
  ((s.views.find? (fun p => p.2.parent == id)).map (fun p => p.2.fork)).or <|
  ((s.parked.find? (fun p => p.strand.vid == id)).map (fun p => p.fork)).or <|
  (((lookupNat id s.views).bind (fun v => v.gid)).bind (fun g => (s.strandAt g).fork)).bind (fun f =>
    if s.forks.any (fun q => q.1 == f.seq) then some f.seq else none)

/-- Every view below `id` is discarded, deepest first; depth is at most 4 (R205, R210). -/
def State.discardBelow (s : State) : Nat → Nat → State
  | 0, _ => s
  | fuel + 1, id =>
    let l := (s.views.filter (fun p => p.2.parent == id)).map (fun p => p.1)
    let seq := s.forkOf id
    let s := l.foldl (fun s c =>
      let s := s.discardBelow fuel c
      match lookupNat c s.views with
      | none => s
      | some v => (s.stopRival c v).returnView c) s
    match seq with
    | some q => { s with forks := eraseNat q s.forks, parked := s.parked.filter (fun p => p.fork != q) }
    | none => s

/-- A view is discarded with every view below it (R205). -/
def State.discardView (s : State) (id : Nat) : State :=
  let s := s.discardBelow 5 id
  match lookupNat id s.views with
  | none => s
  | some v => ((s.stopRival id v).markRival v .discarded).returnView id

/-- The view of strand `x`, on strand `g` of the device or parked, as long as the id is still its own: the id of a faulted view returns with
its fork while its strand stays halted (R29, R205). -/
def State.ownView (s : State) (x : Strand) (g : Option Nat) : Option Nat :=
  if x.vid = 0 then none else match lookupNat x.vid s.views with
  | some v => if v.gid = g then some x.vid else none
  | none => none

/-- A rival's view stops as faulted (R205, R219); the views below it are discarded.
DEDUCED (unsafe, log 27). -/
def State.faultView (s : State) (x : Strand) (g : Option Nat) : State :=
  match s.ownView x g with
  | none => s
  | some id => dropHandlers ((s.discardBelow 5 id).setViewState id .faulted) id

end Sys2Proof.Machine
end

