-- ==== Sys2Proof/Machine/Ops.lean ====
section
/-! DEFINITION. The named operations of the machine: registers of the agent whose turn it is, results and their commits
(R24, R72, R235), guards (R71), the end of an instruction, postings to the fault queue (R358 to R360), taking a trap (R29)
and returning from one (R30), and a handler's abort (R336). -/

namespace Sys2Proof.Machine

/-! ### Whose turn it is -/

/-- Bring a strand into `strand`. -/
def State.focus (s : State) (g : Nat) : State :=
  if g = s.strandId then s else
  let x := s.strandAt g
  let others := eraseNat g s.others
  { s with
    strandId := g, strand := x
    others := if s.strand = Strand.reset then others else insertNat s.strandId s.strand others }

/-- What strand `g` does, whoever has the turn. -/
def State.as (s : State) (g : Nat) (f : State → State) : State :=
  { ((f { s.focus g with turn := none }).focus s.strandId) with turn := s.turn }


/-! ### Registers -/

/-- Read `s0`-`s63` of the agent whose turn it is; `s0` reads 0 (R19, R324). -/
def State.rdS (s : State) (r : SReg) : Word :=
  if r = 0 then 0 else
  match s.turn with
  | none => s.strand.s[r.toNat]
  | some b => (s.barista b).s[r.toNat]

/-- Read a predicate; `p0` reads all ones. A barista's predicates have one bit (R19, R324). -/
def State.rdP (s : State) (r : PReg) : PosBits :=
  if r = 0 then BitVec.allOnes 131072 else
  match s.turn with
  | none => s.strand.p[r.toNat]
  | some b => if (s.barista b).p.getLsbD r.toNat then BitVec.allOnes 131072 else 0

/-- Bit 0 of a predicate: what a scalar instruction tests (R16). -/
def State.rdP0 (s : State) (r : PReg) : Bool := (s.rdP r).getLsbD 0

/-- The program counter of the agent whose turn it is. -/
def State.pc (s : State) : Word := match s.turn with
  | none => s.strand.pc
  | some b => (s.barista b).pc

def State.setPc (s : State) (a : Word) : State := match s.turn with
  | none => { s with strand := { s.strand with pc := a } }
  | some b => s.setBarista b { s.barista b with pc := a }

/-- The prefix lent to the next instruction (R70). -/
def State.lent (s : State) : Option Lent := match s.turn with
  | none => s.strand.lent
  | some b => (s.barista b).lent

def State.setLent (s : State) (l : Option Lent) : State := match s.turn with
  | none => { s with strand := { s.strand with lent := l } }
  | some b => s.setBarista b { s.barista b with lent := l }

/-- Write a scalar register of a strand; a write to `s0` is discarded (R19). -/
def Strand.setS (x : Strand) (r : SReg) (v : Word) : Strand :=
  if r = 0 then x else { x with s := x.s.set r.toNat v }

/-- Write a predicate of a strand; a write to `p0` is discarded (R19). -/
def Strand.setP (x : Strand) (r : PReg) (v : PosBits) : Strand :=
  if r = 0 then x else { x with p := x.p.set r.toNat v, pWritten := x.pWritten ||| BitVec.twoPow 16 r.toNat }

/-- Write a vector register of a strand. -/
def Strand.setV (x : Strand) (r : VIdx) (v : VReg) : Strand := { x with v := x.v.set r.toNat v }

/-- The sector of strip memory at an offset of an allocation (R239): granule list, then byte of the granule. -/
def stripSector (granules : List Nat) (off : Nat) : Option Nat :=
  match granules[off / 16384]? with
  | some g => some (g * 128 + off % 16384 / 128)
  | none => none

/-- Read a sector of strip memory; a sector nothing has written is as a new allocation (R240).
DESIGN CHOICE (unsafe, log 7). -/
def CoreSt.stripAt (c : CoreSt) (sec : Nat) : Sector := (lookupNat sec c.strip).getD { bits := 0, tag := tagUndef }

/-- Write a strip sector with its tag. -/
def CoreSt.setStrip (c : CoreSt) (sec : Nat) (x : Sector) : CoreSt :=
  { c with strip := if x = { bits := 0, tag := tagUndef } then eraseNat sec c.strip else insertNat sec x c.strip }

/-- A younger strip write finds the old contents of a sector kept for the copies that still have to read it (R268). -/
def CoreSt.keepSource (c : CoreSt) (sec : Nat) : CoreSt :=
  if c.copies.isEmpty then c else
  { c with copies := c.copies.map (fun r => { r with moves := r.moves.map (fun m => match m.src, m.kept with
      | .strip off, none => if stripSector r.granules off = some sec then { m with kept := some (c.stripAt sec) } else m
      | _, _ => m) }) }

/-- A demand access to strip sectors: one in a bank whose bus the Assayer has quiesced waits for the vector's end, and the Assayer suspends
then (R238, R239, R295). -/
def CoreSt.demand (c : CoreSt) (secs : List Nat) : CoreSt :=
  match c.assayer with
  | some (bus, _) => if !c.assayHeld && secs.any (fun n => n % 16 == bus / 4) then { c with assayDemand := true } else c
  | none => c

def State.demandStrip (s : State) (core : Nat) (secs : List Nat) : State :=
  if (s.core core).assayer.isNone then s else s.setCore core ((s.core core).demand secs)

/-- Update a bound queue of the strand's core. -/
def State.setQueue (s : State) (q : Nat) (f : Queue → Queue) : State :=
  let c := coreOf s.strandId
  match lookupNat q (s.core c).queues with
  | some x => s.setCore c { s.core c with queues := insertNat q (f x) (s.core c).queues }
  | none => s

/-- An entry joins a queue: it can be taken from the next clock on (R176). -/
def Queue.push (x : Queue) (now : Word) (e : QEntry) : Queue :=
  { x with entries := x.entries ++ [e], at_ := now, fresh := (if x.at_ = now then x.fresh else 0) + 1 }

/-- The entries of a queue that can be taken in a clock: those pushed in it stand last (R176). -/
def Queue.ripe (x : Queue) (now : Word) : List QEntry :=
  if x.at_ = now then x.entries.take (x.entries.length - x.fresh) else x.entries

/-- What a pop leaves of the entries that could be taken, before those of the clock (R176). -/
def Queue.leave (x : Queue) (now : Word) (rest : List QEntry) : Queue :=
  { x with entries := rest ++ x.entries.drop (x.ripe now).length }

/-- A result lands at its destination (R24). -/
def applyDest (s : State) (d : Dest) : State :=
  match d with
  | .s r v => { s with strand := s.strand.setS r v }
  | .p r v => { s with strand := s.strand.setP r v }
  | .v r v => { s with strand := s.strand.setV r v }
  | .tile r v => { s with strand := { s.strand with
      tiles := s.strand.tiles.set r.toNat v, tileWritten := s.strand.tileWritten ||| BitVec.twoPow 8 r.toNat } }
  | .tileState v => { s with strand := { s.strand with tileState := v } }
  | .weight r v => { s with strand := { s.strand with weights := s.strand.weights.set r.toNat (some v) } }
  | .codebook r v => { s with strand := { s.strand with
      codebooks := s.strand.codebooks.set r.toNat (some v), cbWritten := s.strand.cbWritten ||| BitVec.twoPow 8 r.toNat } }
  | .range _ _ _ => s
  | .queue q v => s.setQueue q (fun x => x.push s.cycle v)
  | .pos h v => { s with strand := { s.strand with h := s.strand.h.set h.toNat { s.strand.h[h.toNat] with pos := v } } }

/-- A commit of the exposed region lands (R24, R55). -/
def applyCommit (s : State) (c : Commit) : State :=
  let s := c.dests.foldl applyDest s
  { s with strand := s.strand.raise c.flags }

/-- Commits by the clock at which they land, those of one clock in the order in which they were issued. -/
def insertCommit (c : Commit) : List Commit → List Commit
  | [] => [c]
  | d :: l => if c.due < d.due then c :: d :: l else d :: insertCommit c l

def commitOrder (l : List Commit) : List Commit := l.foldl (fun acc c => insertCommit c acc) []

/-- The strand as it stands once the pending commits up to a schedule clock have landed (R24). -/
def State.strandBy (s : State) (clock : Nat) : Strand :=
  ((commitOrder (s.strand.sched.commits.filter (fun c => decide (c.due ≤ clock)))).foldl applyCommit s).strand

/-- Whether the strand whose turn it is runs in an exposed region (R24). -/
def State.exposed (s : State) : Bool := s.turn.isNone && s.strand.mode

/-- Results of an instruction: at once in an interlocked region; in an exposed one they stand in the commit buffer until
schedule clock t + L (R24, R235). `vec` says that a vector, matrix or transform instruction gives them.
DEDUCED (unsafe, log 20). -/
def State.put (s : State) (latency : Nat) (dests : List Dest) (fl : Sticky) (vec : Bool := false) : State :=
  if s.exposed then
    if dests.isEmpty && fl == 0 then s else
    { s with strand := { s.strand with sched := { s.strand.sched with
        commits := s.strand.sched.commits ++
          [{ due := s.strand.sched.clock + latency, dests := dests, flags := fl, vec := vec, issued := some s.strand.sched.clock }] } } }
  else applyCommit s { due := 0, dests := dests, flags := fl, vec := vec }

/-! ### The lent prefix (R70 to R73) -/

def lentP (l : Lent) : PReg := l.extractLsb' 0 4
def lentNeg (l : Lent) : Bool := l.getLsbD 4
def lentCd (l : Lent) : BitVec 6 := l.extractLsb' 5 6
def lentCe (l : Lent) : Bool := l.getLsbD 11
def lentClass (l : Lent) : BitVec 3 := l.extractLsb' 12 3
def mkLent (p : PReg) (neg : Bool) (cd : BitVec 6) (ce : Bool) (cls : BitVec 3) : Lent :=
  cls ++ (BitVec.ofBool ce ++ (cd ++ (BitVec.ofBool neg ++ p)))

/-- The guard of an element position (R71). -/
def State.guardAt (s : State) (i : Nat) : Bool := match s.lent with
  | none => true
  | some l => (s.rdP (lentP l)).getLsbD i != lentNeg l

/-- The guard of a scalar instruction: position 0 (R71). -/
def State.guard0 (s : State) : Bool := s.guardAt 0

/-- The register a copy goes to, when a copy is lent (R72). -/
def State.copyTo (s : State) : Option (BitVec 6) := match s.lent with
  | some l => if lentCe l then some (lentCd l) else none
  | none => none

/-- A scalar result with its copy (R72); for a barista the write is at once. -/
def State.putS (s : State) (latency : Nat) (d : SReg) (v : Word) (fl : Sticky) (vec : Bool := false) : State :=
  match s.turn with
  | none =>
    let c := match s.copyTo with
      | some cd => if cd = d then [] else [Dest.s cd v]
      | none => []
    s.put latency (.s d v :: c) fl vec
  | some b =>
    let wr (x : Barista) (r : SReg) : Barista := if r = 0 then x else { x with s := x.s.set r.toNat v }
    let x := wr (s.barista b) d
    s.setBarista b (match s.copyTo with
      | some cd => wr x cd
      | none => x)

/-- The destinations of a predicate result: its register, and the register of a lent copy (R72). -/
def State.pDests (s : State) (d : PReg) (v : PosBits) : List Dest :=
  .p d v :: (match s.copyTo with
    | some cd => if cd.setWidth 4 = d then [] else [.p (cd.setWidth 4) v]
    | none => [])

/-- A predicate result with its copy (R72); bit 0 is a barista's predicate (R324). -/
def State.putP (s : State) (latency : Nat) (d : PReg) (v : PosBits) (fl : Sticky) (vec : Bool := false) : State :=
  match s.turn with
  | none => s.put latency (s.pDests d v) fl vec
  | some b =>
    if d = 0 then s else
    let x := s.barista b
    s.setBarista b { x with p := if v.getLsbD 0 then x.p ||| BitVec.twoPow 16 d.toNat else x.p &&& ~~~(BitVec.twoPow 16 d.toNat) }

/-- The destinations of a vector result: its register, and the register of a lent copy (R72). -/
def State.vDests (s : State) (d : VIdx) (v : VReg) : List Dest :=
  .v d v :: (match s.copyTo with
    | some cd => if cd = d then [] else [.v cd v]
    | none => [])

/-- A vector result with its copy (R72).
DEDUCED (unsafe, log 20). -/
def State.putV (s : State) (latency : Nat) (d : VIdx) (v : VReg) (fl : Sticky) : State := s.put latency (s.vDests d v) fl true

/-- The result of an instruction that stops after some elements: these are complete when the trap is taken, or the wait begins, so it
lands at once in an exposed region too (R123, R149, R179).
DEDUCED (unsafe, log 20). -/
def State.landV (s : State) (d : VIdx) (v : VReg) (fl : Sticky) : State :=
  applyCommit s { due := 0, dests := s.vDests d v, flags := fl, vec := true }

/-- The same for a predicate. -/
def State.landP (s : State) (d : PReg) (v : PosBits) (fl : Sticky) : State :=
  applyCommit s { due := 0, dests := s.pDests d v, flags := fl, vec := true }

/-- A result of an older vector, matrix or transform instruction of the strand is pending (R120, R121, R313: WaitOlderVector). -/
def vectorPending (x : Strand) : Bool := x.sched.commits.any (fun c => c.vec)

/-! ### The end of an instruction -/

/-- One schedule clock passes in an exposed region (R7, R24). -/
def State.tickSched (s : State) : State :=
  if s.exposed then
    { s with strand := { s.strand with sched := { s.strand.sched with clock := s.strand.sched.clock + 1 }, ticked := true } }
  else s

/-- The instruction is done and control is at `a`: the lent prefix is used up, the schedule clock advances. -/
def State.retireTo (s : State) (a : Word) : State := (s.tickSched.setLent none).setPc a

/-- The instruction is done; control goes on at the next word. -/
def State.retire (s : State) : State := s.retireTo (s.pc + 4)

/-- A scalar instruction under its guard (R71): with guard 0 it only ends. -/
def State.guarded (s : State) (f : State → State) : State := if s.guard0 then f s else s.retire

/-- The shape of every scalar instruction with one result: the value is written with latency L and control goes on. -/
def State.scalar (s : State) (latency : Nat) (d : SReg) (v : Word) : State :=
  s.guarded (fun s => (s.putS latency d v 0).retire)

/-- The shape of every instruction with one predicate result. -/
def State.predicate (s : State) (latency : Nat) (d : PReg) (v : PosBits) : State :=
  s.guarded (fun s => (s.putP latency d v 0).retire)

/-! ### On whose behalf memory is reached -/

/-- The context of the agent whose turn it is (R330, R354).
DEDUCED (unsafe, log 33). -/
def State.ctx (s : State) : Ctx := match s.turn with
  | none =>
    { die := dieOf s.strandId, gid := some s.strandId, asid := s.strand.asid, user := !s.strand.priv
      view := s.strand.vid, barista := false, agent := some s.strandId, origin := some s.strandId
      owner := some (s.strand.asid, frameOf s.strand.task), block := s.strand.block }
  | some b => match (s.barista b).invocation with
    | some v => { die := b / 48, gid := none, asid := v.event.asid, user := true, view := v.event.view, barista := true
                  agent := some (12288 + b) }
    | none => { die := b / 48, gid := none, asid := 0, user := true, view := 0, barista := true }

/-- The context of the strand's vector agent (R185); `unit` says that the page-sorting unit or the matrix engine makes the request. -/
def State.vecCtx (s : State) (unit : Bool) : Ctx := { s.ctx with vec := true, unit := unit }

/-! ### The fault queue -/

/-- The parts of a fault record (R359). -/
structure RecordParts where
  code : BitVec 8
  sub : BitVec 8
  asid : BitVec 12
  core : Nat
  strand : Nat
  vec : Bool
  pc : Word
  va : Word
  pa : Word
  vstart : Word
  block : Nat
  view : Nat
  depth : Nat
deriving DecidableEq, Repr

/-- A record's 64 bytes without its `held`, sequence and phase bits (R359). -/
def mkRecord (r : RecordParts) (cycle : Word) : FaultRecord :=
  BitVec.ofNat 512 (r.code.toNat + 2 ^ 8 * r.sub.toNat + 2 ^ 16 * r.asid.toNat + 2 ^ 28 * (r.core % 512) + 2 ^ 37 * (r.strand % 32)
    + 2 ^ 42 * (if r.vec then 1 else 0) + 2 ^ 64 * cycle.toNat + 2 ^ 128 * r.pc.toNat + 2 ^ 192 * r.va.toNat
    + 2 ^ 256 * r.pa.toNat + 2 ^ 320 * r.vstart.toNat + 2 ^ 384 * (r.block % 2 ^ 64)
    + 2 ^ 448 * (r.view % 4096 + 4096 * (r.depth % 8)))

/-- The ring is full, or takes no record (R358, R360). -/
def DieSt.ringOpen (d : DieSt) : Bool := bit d.fqbase 0 && decide ((d.fqtail - d.fqhead).toNat < 4096)

/-- A record of a die's ring is stored at its place, or waits there while the sector is BUSY (R371). -/
def State.putRecord (s : State) (die pa : Nat) (r : FaultRecord) : State :=
  if (lookupNat (pa / 128) s.busy).isSome then s.setDie die { s.die die with records := (s.die die).records ++ [(pa, r)] }
  else s.writeBase (some die) (pa / 128) ((s.baseSector (pa / 128)).storeBytes (pa % 128) 64 r.toNat)

/-- The records that waited for a BUSY sector are stored, in their order. -/
def State.settleRecords (s : State) : State :=
  s.dies.foldl (fun s q => q.2.records.foldl (fun s p => s.putRecord q.1 p.1 p.2) (s.setDie q.1 { s.die q.1 with records := [] })) s

/-- Write a record into the ring slot at TAIL, with its sequence number and phase; then TAIL advances (R359, R360). -/
def State.writeRecord (s : State) (die : Nat) (r : FaultRecord) (held : Bool) : State :=
  let d := s.die die
  let full := r.toNat + 2 ^ 43 * (if held then 1 else 0) + 2 ^ 44 * d.recordSeq.toNat + 2 ^ 63 * (d.fqtail.toNat / 4096)
  let pa := field d.fqbase 18 34 * 2 ^ 18 + 64 * (d.fqtail.toNat % 4096)
  (s.setDie die { d with fqtail := d.fqtail + 1, recordSeq := d.recordSeq + 1 }).putRecord die pa (BitVec.ofNat 512 full)

/-- Post a record (R360): into the ring, or onto the hold list with its source. The answer says whether it entered. -/
def State.post (s : State) (die : Nat) (r : FaultRecord) (source : Option Nat) : State × Bool :=
  let d := s.die die
  if d.heldPostings.isEmpty && d.ringOpen then (s.writeRecord die r false, true)
  else (s.setDie die { d with
    heldPostings := d.heldPostings ++ [{ record := r, source := source }], ovf := true, ovfcnt := satInc d.ovfcnt }, false)

/-- A device event that a core's save engine posts; it stalls while the posting is held (R360). The save engine stands for the storage of
the core and the Assayer, which R360 does not name (log 32).
DESIGN CHOICE (unsafe, log 32). -/
def State.savePost (s : State) (core : Nat) (r : FaultRecord) : State := (s.post (core / 96) r (some (14000 + core))).1

/-- A core's save engine stalls (R360). -/
def saveStalled (s : State) (core : Nat) : Bool := (s.die (core / 96)).heldPostings.any (fun p => p.source == some (14000 + core))

/-- A record of a die's distributor. -/
def State.distributorPost (s : State) (die : Nat) (r : FaultRecord) : State := (s.post die r (some (13000 + die))).1

/-- Traps whose fault record is posted: fetch faults, poison, translation faults (R360). -/
def postsRecord (code : BitVec 8) : Bool :=
  code == 0x03 || code == 0x04 || code == 0x0B || (decide (0x10 ≤ code.toNat) && decide (code.toNat ≤ 0x16))

/-- The record of a strand's trap or device event (R359).
DEDUCED (unsafe, log 32). -/
def strandRecord (s : State) (g : Nat) (t : TrapInfo) : FaultRecord :=
  let x := s.strandAt g
  mkRecord { code := t.reason.getD t.code, sub := t.sub, asid := x.asid, core := coreOf g, strand := g % 32, vec := t.vec, pc := x.pc
             va := t.data, pa := t.pa, vstart := x.sys.vstart, block := domainOf s x.block, view := x.vid, depth := x.depth } s.cycle

/-- A device event 0x80, 0x82 or 0x84 of a domain with AUTO starts its recovery (R379, R382).
DEDUCED (unsafe, log 35). -/
def State.autoRecover (s : State) (block : Nat) : State :=
  s.modBlock (domainOf s block) (fun b =>
    if b.bits 9 1 = 1 ∧ b.recovery = .idle then { b with recovery := .requested } else b)

/-! ### Traps -/

/-- sys.status at trap entry (R29). -/
def trapStatus (w : Word) (pfx : Bool) : Word :=
  let w := setBit (setBit (setBit w 9 pfx) 11 (bit w 10)) 12 (bit w 8)
  setBit (setBit (setBit w 10 true) 8 false) 13 true

/-- sys.cause of a trap (R21). -/
def causeWord (code : BitVec 8) (async vec : Bool) : Word :=
  BitVec.ofNat 64 (code.toNat + (if async then 256 else 0) + (if vec then 512 else 0))

/-- At trap entry no copy of the strand counts as issued in the handler (R26, R30). -/
def handlerCopies (cores : List (Nat × CoreSt)) (g : Nat) : List (Nat × CoreSt) :=
  cores.map (fun c => (c.1, if c.2.copies.isEmpty then c.2 else
    { c.2 with copies := c.2.copies.map (fun r => if r.gid = some g then { r with inHandler := false } else r) }))

/-- A double trap (R29): the strand halts, record 0x80 is posted, and its view, if it has one, is faulted. -/
def State.doubleTrap (s : State) (t : TrapInfo) : State :=
  let x := s.strand
  let r := strandRecord s s.strandId { t with code := 0x80, sub := 0, reason := none }
  let s := (s.post (dieOf s.strandId) r none).1
  let s := (s.faultView x (some s.strandId)).autoRecover x.block
  { s with strand := { s.strand with phase := .halted, wait := none, lent := none } }

/-- TakeTrap (R29): the schedule is frozen, pc, cause, edata and the lent prefix are saved, privilege rises, the mode is
interlocked, and control goes to sys.tvec. -/
def State.enterTrap (s : State) (t : TrapInfo) (async : Bool) : State :=
  let x := s.strand
  if x.tip then s.doubleTrap t
  else
    let sys := { x.sys with
      epc := x.pc, cause := causeWord t.code async t.vec, edata := t.data
      pfx := match x.lent with
        | some l => l.setWidth 64
        | none => x.sys.pfx
      status := trapStatus x.sys.status x.lent.isSome }
    { s with
      strand := { x with
        pc := x.sys.tvec, sys := sys, lent := none, wait := none, progress := none, monitors := []
        loop := x.loop.map (fun l => { l with running := false })
        heldRegion := x.sched :: x.heldRegion, sched := Sched.reset }
      cores := handlerCopies s.cores s.strandId }

/-- The sectors of a line among those that an access requests. -/
def lineMask (l : List (Page × Word)) (line : Nat) : BitVec 4 :=
  l.foldl (fun (m : BitVec 4) q => if q.1.pa / 512 = line then m ||| BitVec.twoPow 4 (q.1.pa / 128 % 4) else m) 0

/-- The first request for each line, in order. -/
def firstOfLines (l : List (Page × Word)) : List (Page × Word) :=
  l.foldl (fun acc q => if acc.any (fun r => r.1.pa / 512 == q.1.pa / 512) then acc else acc ++ [q]) []

/-- A request of several sectors reaches the slice (R327): one miss and one fill of each line of which it misses a sector. -/
def State.touchAll (s : State) (ctx : Ctx) (l : List (Page × Word)) (write engine : Bool) : State :=
  (firstOfLines l).foldl (fun s q => s.touch ctx q.1 q.2 (lineMask l (q.1.pa / 512)) write engine) s

/-- What an access that traps has asked of the slices and of the translation caches stands (R327, R353). -/
def State.asked (s : State) (t : TrapInfo) : State :=
  let write := decide (t.sub.toNat / 4 % 8 = 1 ∨ t.sub.toNat / 4 % 8 = 2)
  t.filled.foldl (fun s q => s.keep q.1.walked)
    ((s.keep t.walked).touchAll { s.ctx with vec := t.vec, unit := t.sorted } t.filled write false)

/-- A synchronous trap of the strand: a posted cause posts its record first, and a held posting stalls the strand at its
instruction (R360).
DEDUCED (unsafe, log 32). -/
def State.takeTrap (s : State) (t : TrapInfo) : State :=
  let s := s.asked t
  if postsRecord t.code && !s.strand.tip then
    let r := s.post (dieOf s.strandId) (strandRecord s s.strandId t) (some s.strandId)
    if r.2 then r.1.enterTrap t false
    else { r.1 with strand := { r.1.strand with wait := some (.held t) } }
  else s.enterTrap t false

/-- The strand stands at the end of a running pass of loopv: past the last body word, before the subtraction (R102).
DEDUCED (unsafe, log 14). -/
def Strand.atPassEnd (x : Strand) : Bool := match x.loop with
  | some l => l.running && x.pc == l.pc + 4 + 4 * BitVec.ofNat 64 l.len
  | none => false

/-- sys.status after ReturnFromTrap (R30). -/
def returnStatus (w : Word) : Word := setBit (setBit (setBit (setBit w 10 (bit w 11)) 8 (bit w 12)) 13 false) 9 false

/-- The schedule that the trap froze thaws (R30): what it interrupted stands first in `heldRegion`, with nothing pending where that was
interlocked. Where the return is to an interlocked region, since the handler has cleared PMODE, no schedule clock runs there: what is
pending lands with the return, in its order.
DEDUCED (unsafe, log 74). -/
def State.thaw (s : State) : State :=
  let x := s.strand
  if x.mode then match x.heldRegion with
    | [] => s
    | r :: l => { s with strand := { x with sched := r, heldRegion := l, ticked := true } }
  else
    ((x.heldRegion.take 1 ++ [x.sched]).flatMap (fun r => commitOrder r.commits)).foldl applyCommit
      { s with strand := { x with heldRegion := x.heldRegion.drop 1, sched := { x.sched with commits := [] } } }

/-- ReturnFromTrap (R30), after its drain: privilege and mode return, control goes to sys.epc, a pending prefix is lent, and
the frozen schedule thaws. A return into a live loop body resumes from the buffer; any other clears the loop (R103). -/
def State.returnTrap (s : State) : State :=
  let x := s.strand
  let inBody := match x.loop with
    | some l => decide (l.pc.toNat + 4 ≤ x.sys.epc.toNat ∧ x.sys.epc.toNat ≤ l.pc.toNat + 4 * l.len ∧ x.sys.epc.toNat % 4 = 0)
    | none => false
  State.thaw { s with strand := { x with
      pc := x.sys.epc, sys := { x.sys with status := returnStatus x.sys.status }
      lent := if x.pfxBit then some (x.sys.pfx.setWidth 15) else none
      loop := if inBody then x.loop.map (fun l => { l with running := true }) else none } }

/-! ### Handler aborts -/

/-- The word at ACNT gains 1 as an `amo.add` at die scope does, in the base view under the ASID; an increment that fails is dropped, and one
whose sector is BUSY waits (none) (R336). -/
def addAbortCount (s : State) (b : Nat) (asid : BitVec 12) : Option State :=
  match lookupNat asid.toNat (s.die (b / 48)).directory with
  | none => some s
  | some d =>
    if d.acnt = 0 then some s else
    let ctx : Ctx := { die := b / 48, gid := none, asid := asid, user := true, view := 0, barista := true, agent := some (12288 + b) }
    match translate s ctx .rmw d.acnt with
    | .error (.wait _) => none
    | .error _ => some s
    | .ok p => match (match physClass p.pa with
        | .window slot => match targetOf s p.pa slot with
          | .peer dev addr => some (dev, addr)
          | _ => none
        | _ => none) with
      | some (dev, addr) => some (s.sendPlain (.cemen
          { port := 0, header := cemenHeader 4 (2 ^ (addr / 128 % 4)) dev addr 0 (8192 * (Scope.code .die).toNat), mask := 0
            blocks := [1] }))
      | none => match peekSector s ctx p d.acnt with
        | .error _ => none
        | .ok x =>
          if tagVcls x.tag = clsPoison || malformedSector p.grid x.tag then some s
          else
            let old := if tagVcls x.tag = clsUndef then 0 else x.bytes (p.pa % 128) 8
            match storeSector s ctx p d.acnt (byteMask (p.pa % 128) 8) none (.bytes (p.pa % 128) 8 ((old + 1) % 2 ^ 64)) false with
            | .ok s => some s
            | .error _ => some s

/-- What waits for a BUSY sector is tried again: fault records and abort counters (R336, R371). -/
def State.settleCounts (s : State) : State :=
  let s := s.settleRecords
  s.baristas.foldl (fun s q => q.2.counts.foldl (fun s a => match addAbortCount s q.1 a with
    | some t => t.setBarista q.1 { t.barista q.1 with counts := (t.barista q.1).counts.erase a }
    | none => s) s) s

/-- A clock of barista time for the block that a running invocation charges, and for the blocks above it (R336, R381). -/
def State.chargeInvocation (s : State) (b : Nat) : State := match (s.barista b).invocation with
  | none => s
  | some v => match lookupNat v.event.asid.toNat (s.die (b / 48)).directory with
    | none => s
    | some d => (chain s d.block).foldl (fun s b => s.modBlock b (fun x => { x with btimeUsed := x.btimeUsed + 1 })) s

/-- An invocation aborts (R336): nothing further issues, the clock in which it ends is charged unless its limit has passed, the counters
count, ACNT counts.
DEDUCED (unsafe, log 33). -/
def State.abortHandler (s : State) (b : Nat) (code : Byte) : State :=
  let s := if code = 0xFF then s else s.chargeInvocation b
  let x := s.barista b
  match x.invocation with
  | none => s
  | some v =>
    let c := x.counters
    let s := s.setBarista b { x with
      invocation := none, lent := none, wait := none, progress := none
      counters := { c with aborts := satInc c.aborts, last := code, tlim := if code = 0xFF then satInc c.tlim else c.tlim } }
    match addAbortCount (s.forgetAgent (12288 + b)) b v.event.asid with
    | some t => t
    | none => s.setBarista b { s.barista b with counts := (s.barista b).counts ++ [v.event.asid] }

/-! ### What stops an instruction -/

/-- A stop of the agent whose turn it is: a trap, a wait, an abort. A trap of a barista is a memory fault, abort 0xFD
(R330); entering a wait for a peer's answer sends the request (R393).
DESIGN CHOICE (safe, log 39). -/
def State.stop (s : State) (x : Stop) : State :=
  match s.turn, x with
  | none, .trap t => s.takeTrap t
  | none, .wait w => { s with strand := { s.strand with wait := some w } }
  | none, .ask dev addr key m =>
    let s := s.sendPlain (.cemen m)
    { s with strand := { s.strand with wait := some (.response dev addr key) } }
  | none, .abort _ => s
  | some b, .trap t => (s.asked t).abortHandler b 0xFD
  | some b, .wait w => s.setBarista b { s.barista b with wait := some w }
  | some b, .ask dev addr key m =>
    let s := s.sendPlain (.cemen m)
    s.setBarista b { s.barista b with wait := some (.response dev addr key) }
  | some b, .abort c => s.abortHandler b c

/-- An instruction that ends or stops. -/
def State.finish (s : State) (r : Except Stop State) : State :=
  match r with
  | .ok t => t
  | .error x => s.stop x

/-- The illegal-instruction trap (R76, R88) with its edata, or a handler's abort 0xFE (R325). -/
def illegalWith (s : State) (data : Word) : Stop := if s.turn.isSome then .abort 0xFE else trapOf 0x01 data

/-- The word of an instruction, zero-extended: edata of traps on the word (R76, R87). -/
def wordOf (i : Instr) : Word := match encode i with
  | some w => w.setWidth 64
  | none => 0

def illegal (s : State) (i : Instr) : Stop := illegalWith s (wordOf i)

/-- The privilege trap (R77). -/
def privilege (i : Instr) : Stop := trapOf 0x02 (wordOf i)

/-- The lease-absent trap (R17). -/
def leaseAbsent : Stop := trapOf 0x06 0

end Sys2Proof.Machine
end

