-- ==== Sys2Proof/Machine/Operands.lean ====
section
/-! DEFINITION. Operand forms: effective addresses (R68, R95), the checks on an address and on a sector that every memory
instruction shares (R33, R36, R45, R65), and one sector read for a plain or a bounded load (R96, R166). -/

namespace Sys2Proof.Machine

/-- The meaning of an instruction: the outcome of running it in a state. -/
abbrev Out := Host.Outcome State Fault Refusal

/-- The effective address of an M-format word (R68). -/
def effAddr (base : Word) (off : BitVec 10) (z : Nat) : Word := base + off.signExtend 64 * BitVec.ofNat 64 z

/-- The target of a branch or a label form: the word's own address plus four times the offset (R68). -/
def branchTarget (pc : Word) (off : BitVec 19) : Word := pc + off.signExtend 64 * 4

/-- The virtual address of the sector of an address. -/
def sectorVa (va : Word) : Word := va &&& ~~~(127 : Word)

/-- A trap at a physical address that is known (R359).
DEDUCED (unsafe, log 32). -/
def trapAt (ctx : Ctx) (acc : Access) (code : BitVec 8) (data : Word) (pa : Nat) : Stop :=
  .trap { code := code, data := data, vec := false, sub := BitVec.ofNat 8 (3 + 4 * accessCode ctx acc)
          pa := BitVec.ofNat 64 pa }

/-- The alignment trap (R45, R95). -/
def checkAlign (va : Word) (z : Nat) : Except Stop Unit :=
  if va.toNat % z = 0 then .ok () else .error (trapOf 0x05 va)

/-- A trap on what a request has brought: the requests that the access has made by then stand (R327). -/
def Stop.after (x : Stop) (l : List (Page × Word)) (sorted : Bool := false) : Stop := match x with
  | .trap t => .trap { t with filled := t.filled ++ l, sorted := sorted }
  | _ => x

/-- The malformed-tag trap of a sector (R33). -/
def checkTag (s : State) (acc : Access) (p : Page) (va : Word) (t : Tag) : Except Stop Unit :=
  if malformedSector p.grid t then .error ((trapAt s.ctx acc 0x08 (sectorVa va) p.pa).after [(p, va)]) else .ok ()

/-- The poison trap of a scalar read (R36, R96). -/
def checkPoison (s : State) (acc : Access) (p : Page) (va : Word) (t : Tag) : Except Stop Unit :=
  if tagVcls t = clsPoison then .error ((trapAt s.ctx acc 0x0B va p.pa).after [(p, va)]) else .ok ()

/-- The bytes that a scalar access reads from a sector: zero where it is UNDEF (R96). -/
def plainBytes (x : Sector) (va : Word) (z : Nat) : Nat :=
  if tagVcls x.tag = clsUndef then 0 else x.bytes (va.toNat % 128) z

/-- `a` is at least `b` as round counts (R163). -/
def roundAtLeast (a b : Word) : Bool := !(a - b).slt 0

/-- The shadow of a region on a die (R163). -/
def shadowOf (s : State) (die rg : Nat) : Word := (lookupNat rg (s.die die).shadows).getD 0

/-- The die's slice holds a copy that a bounded load may use (R166): its stamp reaches `need`, and where it is STALE the task itself has not
written the sector since. -/
def boundedCopy (s : State) (ctx : Ctx) (sec : Nat) (need : Word) : Option Slot :=
  match lookupNat (slotKey sec 0) (s.die ctx.die).slots with
  | none => none
  | some sl =>
    let own := match ctx.owner with
      | some w => sl.writers.contains w
      | none => false
    if roundAtLeast sl.stamp need && !own then some sl else none

/-- One sector of a bounded load (R166, R167), and whether it is fetched: the copy of the own die's slice when its stamp reaches `need`,
otherwise the home's sector; with `stall` it waits until the shadow reaches `need` first. It never finds bytes older than a write of either
agent of its strand (R186). A copy stamped 0 serves a load of F = 0, as R166 says, where R418 has such a load wait (log 79).
DESIGN CHOICE (unsafe, log 79). -/
def boundedSector (s : State) (ctx : Ctx) (p : Page) (va need : Word) (stall : Bool) : Except Stop (Sector × Bool) :=
  let sec := p.pa / 128
  let plain : Except Stop (Sector × Bool) := match copyHold s ctx va false false with
    | some x => .error x
    | none => (peekSector s ctx p va).map (fun x => (x, cacheable s p && !slotHeld s ctx.die ctx.view sec))
  match regionOf s p with
  | none => plain
  | some rg =>
    if (chainCopy s sec 5 ctx.view).isSome || tagVcls (s.physTag sec) == clsBusy || (copyHold s ctx va false false).isSome then plain
    else match boundedCopy s ctx sec need with
      | some sl => .ok (if sl.stale then sl.data.getD (s.baseSector sec) else s.baseSector sec, false)
      | none =>
        if stall && !roundAtLeast (shadowOf s ctx.die rg) need then .error (.wait (.bounded rg need))
        else .ok (s.baseSector sec, true)

/-- A bounded load of one sector: it is filled where it is fetched (R327). -/
def boundedLoad (s : State) (ctx : Ctx) (p : Page) (va need : Word) (stall : Bool) : Except Stop (Sector × State) :=
  match boundedSector s ctx p va need stall with
  | .error x => .error x
  | .ok r =>
    let t := if r.2 then fillLine s ctx p va (BitVec.twoPow 4 (p.pa / 128 % 4)) false false else s
    .ok (r.1, ((t.sawWrites ctx (p.pa / 128)).learns ctx (servingKey s ctx p)).keep p.walked)

/-- The scalar read of `z` bytes (R95, R96): alignment, translation, the malformed-tag trap, the poison trap. `fetch` obtains
the sector. -/
def loadWith (s : State) (va : Word) (z : Nat) (fetch : Page → Except Stop (Sector × State)) : Except Stop (Nat × State) := do
  checkAlign va z
  let p ← translate s s.ctx .read va
  let r ← fetch p
  checkTag s .read p va r.1.tag
  checkPoison s .read p va r.1.tag
  .ok (plainBytes r.1 va z, r.2)

/-- The scalar read of `z` bytes. -/
def loadBytes (s : State) (va : Word) (z : Nat) : Except Stop (Nat × State) :=
  loadWith s va z (fun p => loadSector s s.ctx p va false)

/-- The scalar store of `z` bytes (R95, R96): alignment, translation, world faults. -/
def storeBytes (s : State) (va : Word) (z v : Nat) : Except Stop State := do
  checkAlign va z
  let p ← translate s s.ctx .write va
  storeSector s s.ctx p va (byteMask (va.toNat % 128) z) none (.bytes (va.toNat % 128) z v) false

/-- A memory instruction of the scalar pipe under its guard: what it does, or what stops it; then control goes on. -/
def State.memory (s : State) (f : State → Except Stop State) : State :=
  s.guarded (fun s => match f s with
    | .ok t => t.retire
    | .error x => s.stop x)

/-- A meaning that only a strand has: a barista that meets the word aborts (R325). -/
def State.onStrand (s : State) (f : State → State) : State := if s.turn.isSome then s.stop (.abort 0xFE) else f s

/-- The low `8 z` bits of a loaded value, sign-extended or zero-extended (R95). -/
def extendLoad (signed : Bool) (z v : Nat) : Word :=
  if signed then BitVec.ofInt 64 (if v < 2 ^ (8 * z - 1) then (v : Int) else (v : Int) - 2 ^ (8 * z)) else BitVec.ofNat 64 v

end Sys2Proof.Machine
end

