-- ==== Sys2Proof/Machine/Area.lean ====
section
/-! DEFINITION. Records of a save area (R283, R285): their layout, how the device reads and writes them, and the vector state that an area
gives back (R231, R286, R292). Layouts that R284 does not give are those of log 50. -/

namespace Sys2Proof.Machine

/-! ### Packing -/

/-- Items of one width, lowest first. -/
def packAll (w : Nat) (l : List Nat) : Nat := packFields (l.map (fun v => (w, v)))

/-- A number of bytes rounded up to 128. -/
def pad128 (n : Nat) : Nat := (n + 127) / 128 * 128

/-! ### Records (R285) -/

/-- A record: its bytes, a multiple of 128, and their contents as one number. -/
structure Record where
  len : Nat
  bits : Nat

/-- Parts one after another. -/
def joinRecords : List Record → Record
  | [] => { len := 0, bits := 0 }
  | r :: l =>
    let t := joinRecords l
    { len := r.len + t.len, bits := r.bits + 2 ^ (8 * r.len) * t.bits }

/-- A register's record: elements, poison bitmap, micro-scales. -/
def registerRecord (wmax : Nat) (r : VReg) : Record :=
  let w := slotWidth wmax r.fmt
  joinRecords
    [{ len := pad128 ((r.hw * w + 7) / 8), bits := packAll w ((List.range r.hw).map (fun i => (r.slot i).toNat)) },
     (if tagVcls r.tag = clsPoison then { len := pad128 ((r.hw + 7) / 8), bits := r.marks.toNat % 2 ^ r.hw }
      else { len := 0, bits := 0 }),
     (if Fmt.isMicro r.fmt then
        { len := pad128 ((r.hw + 31) / 32), bits := packAll 8 ((List.range ((r.hw + 31) / 32)).map (fun b => (r.micro.getD b 127).toNat)) }
      else { len := 0, bits := 0 })]

/-- A register from its record. -/
def readRecord (wmax : Nat) (tag : Tag) (hw : Nat) (bitmap : Bool) (entry : Option (BitVec 128)) (bits : Nat) : VReg :=
  let f := tagFormat tag
  let w := slotWidth wmax f
  let a := pad128 ((hw * w + 7) / 8)
  let b := if bitmap then pad128 ((hw + 7) / 8) else 0
  { tag := tag
    slots := trimSlots ((List.range hw).map (fun i => BitVec.ofNat 64 (cut bits (i * w) w)))
    marks := if bitmap then BitVec.ofNat 131072 (cut bits (8 * a) hw) else 0
    micro := if Fmt.isMicro f then
        trimMicro ((List.range ((hw + 31) / 32)).map (fun k => BitVec.ofNat 8 (cut bits (8 * (a + b) + 8 * k) 8))) else []
    hw := hw, entry := entry }

/-- Where the records stand (R283, log 50): registers from byte 278,528 on, each with room for the largest record under its shape; then
predicates; then commit values.
DESIGN CHOICE (unsafe, log 50). -/
def recordStride (n : Nat) : Nat := (1048576 + 131072 + 32768) / n + 384
/-- DESIGN CHOICE (unsafe, log 50). -/
def registerOffset (n r : Nat) : Nat := 278528 + recordStride n * r
/-- DESIGN CHOICE (unsafe, log 50). -/
def predOffset : Nat := 1515520
/-- DESIGN CHOICE (unsafe, log 50). -/
def commitOffset : Nat := 1761280
/-- DESIGN CHOICE (unsafe, log 50). -/
def stripImageOffset : Nat := 3145728

/-- A directory entry (R285). -/
def directoryEntry (r : VReg) (off : Nat) : BitVec 128 :=
  BitVec.ofNat 128 (packFields [(16, r.tag.toNat), (18, r.hw), (2, 1), (1, if tagVcls r.tag = clsPoison then 1 else 0), (27, 0), (32, off)])

/-- Predicates 1 to 15, `pl` bits each, padded as one part. -/
def predRecordOf (p : Vector PosBits 16) (pl : Nat) : Record :=
  { len := pad128 ((15 * pl + 7) / 8), bits := packAll pl ((List.range 15).map (fun i => ((p.toList.drop (i + 1)).headD 0).toNat)) }

def trimElems (l : List (BitVec 48)) : List (BitVec 48) := (l.reverse.dropWhile (· == 0)).reverse

/-- An element of a tile in flat order (R245). -/
def Tile.elem (t : Tile) (e : Nat) : BitVec 48 := t.elems.getD e 0

/-- A tile's record: the image of R258. -/
def tileRecord (t : Tile) : Record :=
  { len := 32768, bits := packAll 64 ((List.range 4096).map (fun e => (t.elem e).toNat + (if t.i48 then 2 ^ 63 else 0))) }

/-- A tile from its record. -/
def readTile (i48 : Bool) (bits : Nat) : Tile :=
  { i48 := i48, elems := trimElems ((List.range 4096).map (fun e => BitVec.ofNat 48 (cut bits (64 * e) 48))) }

/-! ### Memory of an area -/

/-- The context in which the device reaches a task's memory for itself.
DEDUCED (unsafe, log 33). -/
def deviceCtx (die : Nat) (asid : BitVec 12) : Ctx := { die := die, gid := none, asid := asid, user := false, view := 0, barista := false }

/-- Write one sector of an area, bits and tag; an address that does not translate is left out (log 51).
DESIGN CHOICE (unsafe, log 51). -/
def writeAreaSector (s : State) (ctx : Ctx) (va : Word) (x : Sector) : State :=
  match translate s ctx .write va with
  | .error _ => s
  | .ok p => match storeSector s ctx p va (BitVec.allOnes 128) none (.whole x) true with
    | .ok t => t
    | .error _ => s

/-- Write `len` bytes, a multiple of 128, at `va`. -/
def writeArea (s : State) (ctx : Ctx) (va : Word) (len bits : Nat) : State :=
  (List.range (len / 128)).foldl (fun s i =>
    writeAreaSector s ctx (va + BitVec.ofNat 64 (128 * i)) { bits := BitVec.ofNat 1024 (cut bits (1024 * i) 1024), tag := tagRaw }) s

/-- A sector of an area as the device reads it; none where it does not translate or is BUSY.
DESIGN CHOICE (unsafe, log 51). -/
def readAreaSector (s : State) (ctx : Ctx) (va : Word) : Option Sector :=
  match translate s ctx .read va with
  | .error _ => none
  | .ok p =>
    let x := s.viewSector 0 (p.pa / 128)
    if tagVcls (s.physTag (p.pa / 128)) = clsBusy then none else some x

/-- The bytes of an area as a number, UNDEF sectors as zero; none where a sector cannot be read or is POISON. -/
def readArea (s : State) (ctx : Ctx) (va : Word) : Nat → Option Nat
  | 0 => some 0
  | n + 1 => match readAreaSector s ctx va, readArea s ctx (va + 128) n with
    | some x, some r =>
      if tagVcls x.tag = clsPoison then none
      else some ((if tagVcls x.tag = clsUndef then 0 else x.bits.toNat) + 2 ^ 1024 * r)
    | _, _ => none

/-- The records of an area, a POISON sector reading as its bits (R292). -/
def readRecordBits (s : State) (ctx : Ctx) (va : Word) : Nat → Nat
  | 0 => 0
  | n + 1 => (match readAreaSector s ctx va with
    | some x => if tagVcls x.tag = clsUndef then 0 else x.bits.toNat
    | none => 0) + 2 ^ 1024 * readRecordBits s ctx (va + 128) n

/-- The byte ranges of an area that are POISON: their positions of a record take marks at restore (R292). -/
def poisonSectors (s : State) (ctx : Ctx) (va : Word) (n : Nat) : List Nat :=
  (List.range n).filter (fun i => match readAreaSector s ctx (va + BitVec.ofNat 64 (128 * i)) with
    | some x => tagVcls x.tag == clsPoison
    | none => false)

/-! ### What an area gives back -/

/-- A register as its record at `va` gives it, with marks at the positions that its POISON sectors cover (R292): those of an element, of
a bit of the bitmap, of a block's micro-scale. -/
def spoiledRecord (s : State) (ctx : Ctx) (va : Word) (wmax : Nat) (bitmap : Bool) (r : VReg) : VReg :=
  let w := slotWidth wmax r.fmt
  let a := pad128 ((r.hw * w + 7) / 8) / 128
  let b := if bitmap then pad128 ((r.hw + 7) / 8) / 128 else 0
  let c := if Fmt.isMicro r.fmt then pad128 ((r.hw + 31) / 32) / 128 else 0
  let bad := poisonSectors s ctx va (a + b + c)
  if bad.isEmpty then r
  else
    let hit (i : Nat) : Bool := bad.contains (i * w / 1024) || (b != 0 && bad.contains (a + i / 1024))
      || (c != 0 && bad.contains (a + b + i / 32 / 128))
    let m : PosBits := (List.range r.hw).foldl (fun m i => if hit i then m ||| BitVec.twoPow 131072 i else m) r.marks
    { r with marks := m, tag := mkTag clsPoison (tagScale r.tag) (tagFmt r.tag) }

/-- A register of an image (R285). -/
def imageRegister (s : State) (ctx : Ctx) (save : Word) (wmax : Nat) (e : Nat) : VReg :=
  if cut e 34 2 = 0 then VReg.reset
  else
    let tag : Tag := BitVec.ofNat 16 e
    let hw := cut e 16 18
    let off := cut e 64 32
    let w := slotWidth wmax (tagFormat tag)
    let sectors := (pad128 ((hw * w + 7) / 8) + pad128 ((hw + 7) / 8) + pad128 ((hw + 31) / 32)) / 128
    spoiledRecord s ctx (save + BitVec.ofNat 64 off) wmax (cut e 36 1 = 1)
      (readRecord wmax tag hw (cut e 36 1 = 1) (some (BitVec.ofNat 128 e))
        (readRecordBits s ctx (save + BitVec.ofNat 64 off) sectors))

/-- The vector state that a header and its records give (R231, R286); predicates as `pl` bits each. -/
def imageVectors (s : State) (ctx : Ctx) (save : Word) (wmax vlmax h : Nat) : SavedVectors :=
  let pl := cut h 20488 18
  let poff := cut h 20512 32
  let preds := if poff = 0 then 0 else readRecordBits s ctx (save + BitVec.ofNat 64 poff) (pad128 ((15 * pl + 7) / 8) / 128)
  { v := Vector.ofFn (fun i : Fin 64 => imageRegister s ctx save wmax (cut h (12288 + 128 * i.val) 128))
    p := Vector.ofFn (fun i : Fin 16 => if i.val = 0 then 0 else BitVec.ofNat 131072 (cut preds (pl * (i.val - 1)) pl))
    tiles := Vector.ofFn (fun i : Fin 8 =>
      let b := cut h (8512 + 8 * i.val) 8
      if b / 2 % 2 = 1 then readTile (b % 2 == 1) (readRecordBits s ctx (save + BitVec.ofNat 64 (8192 + 32768 * i.val)) 256)
      else { i48 := b % 2 == 1, elems := [] })
    vlmax := vlmax, stored := true }

end Sys2Proof.Machine
end

