-- ==== Sys2Proof/Machine/Lease.lean ====
section
/-! DEFINITION. The lease arbiter and the strip boundary: targets (R227, R228), ages (R229), grants (R230, R231), reshaping
(R122) and `StripBoundary` (R121). -/

namespace Sys2Proof.Machine

/-- A lane cluster is live while one of its lanes is (R225). -/
def clusterLive (map : Word) (k : Nat) : Bool := field map (8 * k) 8 != 0

def liveClusters (c : CoreSt) : List Nat := (List.range 8).filter (clusterLive c.lanemap)

/-- The clusters of a grant, rising. -/
def grantList (grant : Nat) : List Nat := (List.range 8).filter (fun k => grant / 2 ^ k % 2 == 1)

/-- A strand as the arbiter sees it (R227), with its target as it is computed. -/
structure Bid where
  strand : Nat
  min : Nat
  pref : Nat
  cap : Nat
  weight : Nat
  age : Nat
  held : Nat
  target : Nat
  admitted : Bool
deriving DecidableEq, Repr

/-- The bids of a core, by strand number. -/
def bids (s : State) (c : Nat) : List Bid :=
  (List.range 32).filterMap (fun k =>
    let x := s.strandAt (c * 32 + k)
    if x.phase = .free then none else
    some { strand := k, min := x.least, pref := x.pref, cap := capOf s (c * 32 + k), weight := effShare s x.block
           age := x.age, held := x.grantCount, target := 0, admitted := x.least == 0 })

/-- Insert a bid before the first one of a lower age. -/
def insertByAge (b : Bid) : List Bid → List Bid
  | [] => [b]
  | c :: l => if c.age < b.age then b :: c :: l else c :: insertByAge b l

/-- By age descending, ties by the order given. -/
def byAge (l : List Bid) : List Bid := l.foldl (fun acc b => insertByAge b acc) []

/-- Order(S) of R228: aged strands, then holders, then the rest. -/
def bidOrder (l : List Bid) : List Bid :=
  let aged := l.filter (fun b => decide (32 ≤ b.age))
  let young := l.filter (fun b => decide (b.age < 32))
  byAge aged ++ (young.filter (fun b => decide (Nat.max b.min 1 ≤ b.held))
    ++ byAge (young.filter (fun b => decide (b.held < Nat.max b.min 1))))

/-- Phase 1: minimums. -/
def phaseOne : Nat → List Bid → List Bid × Nat
  | left, [] => ([], left)
  | left, b :: l =>
    if 1 ≤ b.min ∧ b.min ≤ left then
      let r := phaseOne (left - b.min) l
      ({ b with target := b.min, admitted := true } :: r.1, r.2)
    else let r := phaseOne left l; (b :: r.1, r.2)

/-- `a` comes before `b` in phase 2: the smaller (T + 1) / W, ties to the lower strand. -/
def cheaper (a b : Bid) : Bool :=
  let x := (a.target + 1) * b.weight
  let y := (b.target + 1) * a.weight
  decide (x < y) || (decide (x = y) && decide (a.strand < b.strand))

/-- Phase 2: weighted shares, one cluster at a time. -/
def phaseTwo : Nat → List Bid → List Bid
  | 0, l => l
  | left + 1, l =>
    let e := l.filter (fun b => b.admitted && decide (b.target < Nat.min b.pref b.cap))
    match e with
    | [] => l
    | b :: r =>
      let w := r.foldl (fun m c => if cheaper c m then c else m) b
      phaseTwo left (l.map (fun c => if c.strand = w.strand then { c with target := c.target + 1 } else c))

/-- ComputeTargets (R228): the target of every strand of a core; a strand that is not named has 0. -/
def targets (s : State) (c : Nat) : List (Nat × Nat) :=
  let all := (bids s c).filter (fun b => decide (1 ≤ b.pref) && decide (b.min ≤ b.cap))
  let r := phaseOne (liveClusters (s.core c)).length (bidOrder all)
  (phaseTwo r.2 r.1).map (fun b => (b.strand, b.target))

def targetOfStrand (s : State) (g : Nat) : Nat := (lookupNat (g % 32) (targets s (coreOf g))).getD 0

/-- The live clusters of a core that no strand holds and no reshape still keeps (R223, R230). -/
def freeClusters (s : State) (c : Nat) : List Nat :=
  (liveClusters (s.core c)).filter (fun k =>
    (List.range 32).all (fun i => (s.strandAt (c * 32 + i)).grant / 2 ^ k % 2 == 0)
      && (s.core c).pendingFree.all (fun p => p.1 != k))

/-- Live lanes of a set of clusters. -/
def liveLanes (map : Word) (l : List Nat) : Nat :=
  l.foldl (fun n k => n + popcount8 (field map (8 * k) 8)) 0

/-- sys.lease with a grant (R230). -/
def leaseWith (w : Word) (map : Word) (l : List Nat) (target : Nat) : Word :=
  let w := setField w 0 8 (l.foldl (fun n k => n + 2 ^ k) 0)
  let w := setField w 17 7 (liveLanes map l)
  setBit w 16 (decide (l.length < target) || decide (l.length < field w 8 4))

/-- Lanes of the strand's clusters that have retired go dark at its strip boundary (R226). -/
def retireLanes (s : State) (g : Nat) : State :=
  let c := s.core (coreOf g)
  let mine : Nat := (grantList (s.strandAt g).grant).foldl (fun n k => n + 255 * 2 ^ (8 * k)) 0
  let dark := c.retiring &&& BitVec.ofNat 64 mine
  if dark = 0 then s else
  s.setCore (coreOf g) { c with lanemap := c.lanemap &&& ~~~dark, retiring := c.retiring &&& ~~~dark }

/-- The age returns to 0 while the grant is at least MIN (R229). -/
def Strand.settleAge (x : Strand) : Strand := { x with age := if x.least ≤ x.grantCount then 0 else x.age }

/-- ApplyGrant (R230) for strand `g`: clusters above the target and dead ones are released, to be free once the reshape ends;
free live ones are taken up to the target. -/
def applyGrant (s : State) (g : Nat) : State :=
  let s := darkenFree (retireLanes s g) (coreOf g)
  let c := coreOf g
  let x := s.strandAt g
  let t := targetOfStrand s g
  let map := (s.core c).lanemap
  let held := (grantList x.grant).filter (clusterLive map)
  let kept := held.take t
  let released := (grantList x.grant).filter (fun k => !kept.contains k)
  let free := freeClusters s c
  let took := if 1 ≤ kept.length ∨ Nat.max x.least 1 ≤ free.length then free.take (t - kept.length) else []
  let now := (List.range 8).filter (fun k => kept.contains k || took.contains k)
  let x := x.setLease (leaseWith x.sys.lease map now t)
  let s := s.setStrandAt g x.settleAge
  if released.isEmpty then s
  else s.setCore c { s.core c with pendingFree := (s.core c).pendingFree ++ released.map (fun k => (k, g)) }

/-! ### Reshaping (R122) -/

/-- A register after a change of VLMAX from `m` to `m'`. It keeps its tag: a register whose marked positions are all discarded goes on
reading POISON, with no mark, which R36 does not say.
DESIGN CHOICE (unsafe, log 75). -/
def VReg.reshape (r : VReg) (wmax m m' : Nat) : VReg :=
  let k := Nat.min m m'
  let keep := if Fmt.isWide r.fmt then k * wmax / 64 else k
  { r with
    slots := trimSlots (r.slots.take keep), micro := trimMicro (r.micro.take ((keep + 31) / 32))
    marks := r.marks &&& (BitVec.allOnes 131072 >>> (131072 - keep)), hw := Nat.min r.hw keep }

def predReshape (p : PosBits) (m m' : Nat) : PosBits := p &&& (BitVec.allOnes 131072 >>> (131072 - Nat.min m m'))

/-- Reshape (R122) of a strand's registers. -/
def Strand.reshape (x : Strand) (m m' : Nat) : Strand :=
  { x with v := x.v.map (fun r => r.reshape x.wmax m m'), p := x.p.map (fun p => predReshape p m m') }

/-- The vector state that a grant of 0 saves (R231). -/
def Strand.vectors (x : Strand) : SavedVectors := { v := x.v, p := x.p, tiles := x.tiles, vlmax := x.vlmax, stored := false }

/-- The registers of R20 and tiles of +0 under A48.
DEDUCED (unsafe, log 52). -/
def Strand.clearVectors (x : Strand) : Strand :=
  { x with v := Vector.replicate 64 VReg.reset, p := Vector.replicate 16 0, tiles := Vector.replicate 8 Tile.reset }

/-- Vector state that is dropped (R313): no record of a save stands for it any more (R282). -/
def Strand.discardVectors (x : Strand) : Strand :=
  { x.clearVectors with pWritten := 0, tileWritten := 0, predRecord := (0, 0), tdir := 0 }

/-- A grant that has fallen to 0 while the boundary waits for another (R121, R231): the vector state is saved, and VLMAX follows when the
wait is over. -/
def Strand.fallen (x : Strand) (oldGrant : Nat) : Strand := if oldGrant = 0 then x else { x with leaseZero := some x.vectors }

/-- VLMAX follows LIVE at a strip boundary (R121, R122, R231): a grant that falls to 0 saves the vector state, a grant that rises
from 0 restores it under the change of VLMAX. VL is at most VLMAX (R23). -/
def Strand.follow (x : Strand) (oldGrant : Nat) : Strand :=
  let m' := vlmaxOf x.nreg x.wmax x.live
  let y : Strand :=
    if oldGrant ≠ 0 ∧ x.grant = 0 then { x.reshape x.vlmax m' with p := x.p, leaseZero := some x.vectors }
    else match x.leaseZero, x.grant with
      | some z, _ + 1 => { ({ x with v := z.v, p := z.p, tiles := z.tiles } : Strand).reshape z.vlmax m' with leaseZero := none }
      | _, _ => if m' = x.vlmax then x else x.reshape x.vlmax m'
  let z := y.setVcfg (setField x.sys.vcfg 32 18 m')
  if m' < z.vl then z.setVl m' else z

/-! ### Ages and long holds (R229) -/

/-- Age goes up by 1 for every strand of the core whose request is within budget and can fit, and whose grant is below MIN.
DEDUCED (unsafe, log 28). -/
def ageWaiters (s : State) (c : Nat) : State :=
  let live := (liveClusters (s.core c)).length
  (List.range 32).foldl (fun s k =>
    let g := c * 32 + k
    let x := s.strandAt g
    if x.phase ≠ .free ∧ x.grantCount < x.least ∧ x.least ≤ capOf s g ∧ x.least ≤ live then
      s.setStrandAt g { x with age := x.age + 1 }
    else s) s

/-- The clock since when a strand holds more than its target while a strand of age 32 or more waits (R229). -/
def noteHolds (s : State) (c : Nat) : State :=
  let waits := (List.range 32).any (fun k =>
    let x := s.strandAt (c * 32 + k)
    x.phase != .free && decide (32 ≤ x.age) && decide (x.grantCount < x.least))
  let ts := targets s c
  (List.range 32).foldl (fun s k =>
    let g := c * 32 + k
    let x := s.strandAt g
    if x.phase = .free then s
    else if waits && decide ((lookupNat k ts).getD 0 < x.grantCount) then
      (if x.aboveTargetSince.isNone then s.setStrandAt g { x with aboveTargetSince := some s.cycle.toNat } else s)
    else if x.aboveTargetSince.isSome then s.setStrandAt g { x with aboveTargetSince := none }
    else s) s

/-- A core's save engine has completed a save or a restore (R294). -/
def State.assayGate (s : State) (c : Nat) : State := s.setCore c { s.core c with assayNow := true }

/-- The vector state of a grant of 0 as the next grant finds it: as the save area holds it once the save engine has written it there, with
what software has changed since (R231, R283); where the area cannot be read, as it was saved (log 52).
DESIGN CHOICE (unsafe, log 52). -/
def savedNow (s : State) (g : Nat) (z : SavedVectors) : SavedVectors :=
  let x := s.strandAt g
  let ctx := deviceCtx (dieOf g) x.asid
  if z.stored && x.vid == 0 && areaOf x.task != 0 then
    match readArea s ctx (areaOf x.task) 64 with
    | some h => imageVectors s ctx (areaOf x.task) x.wmax z.vlmax h
    | none => z
  else z

/-- A grant that strand `g` has taken brings back the vector state that a grant of 0 saved: the save engine restores it (R231, R294). -/
def State.restored (s : State) (g : Nat) : State :=
  let x := s.strandAt g
  match x.leaseZero with
  | some z => if x.grant = 0 then s else (s.setStrandAt g { x with leaseZero := some (savedNow s g z) }).assayGate (coreOf g)
  | none => s

/-- StripBoundary (R121) of the strand whose turn it is; the answer says whether it waits for a pending grant. -/
def stripBoundary (s : State) : State × Bool :=
  if s.strand.progress = some .granted then ({ s with strand := { s.strand with progress := none } }, false) else
  let g := s.strandId
  let old := s.strand.grant
  let s := if old = 0 then s else ageWaiters s (coreOf g)
  let s := (applyGrant s g).restored g
  let x := if s.strand.grant == 0 && s.strand.pend then s.strand.fallen old else s.strand.follow old
  let s := { s with strand := { x with
    lastBoundary := s.cycle.toNat
    weights := if x.grant = old then x.weights else Vector.replicate 4 none } }
  let s := noteHolds s (coreOf g)
  (s, s.strand.grant == 0 && s.strand.pend)

/-- The strand releases its clusters outside a strip boundary (R233, R313): they are free at once; the vector state is saved, or
with `discard` dropped. With an empty grant only MIN and PREF change.
DEDUCED (unsafe, log 28). -/
def releaseLease (s : State) (discard : Bool) : State :=
  let x := s.strand
  if x.grant = 0 then { s with strand := { x.setLease (setField x.sys.lease 8 8 0) with age := 0 } }
  else
    let y := if discard then x.discardVectors
      else { x with leaseZero := some x.vectors, v := x.clearVectors.v, tiles := x.clearVectors.tiles }
    let y := { y with weights := Vector.replicate 4 none, age := 0 }
    let t : State := { s with strand := (y.setVcfg (setField (setField x.sys.vcfg 8 18 0) 32 18 0)).setLease 0 }
    noteHolds (t.clustersFreed (coreOf s.strandId)) (coreOf s.strandId)

/-- The boundary would change the strand's grant or darken one of its lanes while vector results are pending: it waits for them first
(R121: WaitOlderVector). -/
def olderPending (s : State) : Bool :=
  let t := applyGrant (if s.strand.grant = 0 then s else ageWaiters s (coreOf s.strandId)) s.strandId
  s.exposed && vectorPending s.strand
    && (t.strand.grant != s.strand.grant || (t.core (coreOf s.strandId)).lanemap != (s.core (coreOf s.strandId)).lanemap)

/-- The strand waits for its grant (R121).
DEDUCED (unsafe, log 21). -/
def waitForGrant (s : State) : State := { s with strand := { s.strand with wait := some .grant } }

end Sys2Proof.Machine
end

