-- ==== Sys2Proof/Machine/Issue.lean ====
section
/-! DEFINITION. What issue needs to know of a word: the vector registers it names (R19), how it takes a prefix (R73, R79),
what a barista may run (R325) and what a loop body may hold (R81). -/

namespace Sys2Proof.Machine

/-- The `v` registers that an instruction names (R19, R161: `vamo.cas` also names the register after `v_d`). -/
def vregsOf (i : Instr) : List VIdx :=
  match i with
  | .vadd d a b => [d, a, b]
  | .vsub d a b => [d, a, b]
  | .vmul d a b => [d, a, b]
  | .vfma d a b => [d, a, b]
  | .vfms d a b => [d, a, b]
  | .vmin d a b => [d, a, b]
  | .vmax d a b => [d, a, b]
  | .vabs d a => [d, a]
  | .vneg d a => [d, a]
  | .vdiv d a b => [d, a, b]
  | .vexp d a => [d, a]
  | .vlog d a => [d, a]
  | .vrcp d a => [d, a]
  | .vrsqrt d a => [d, a]
  | .vtanh d a => [d, a]
  | .vsigm d a => [d, a]
  | .vsin d a => [d, a]
  | .vcos d a => [d, a]
  | .vcmpEq _ a b => [a, b]
  | .vcmpNe _ a b => [a, b]
  | .vcmpLt _ a b => [a, b]
  | .vcmpLe _ a b => [a, b]
  | .vcmpGt _ a b => [a, b]
  | .vcmpGe _ a b => [a, b]
  | .vsel d a b _ => [d, a, b]
  | .vand d a b => [d, a, b]
  | .vor d a b => [d, a, b]
  | .vxor d a b => [d, a, b]
  | .vandn d a b => [d, a, b]
  | .vnot d a => [d, a]
  | .vsll d a b => [d, a, b]
  | .vsrl d a b => [d, a, b]
  | .vsra d a b => [d, a, b]
  | .vcvt d a _ => [d, a]
  | .vcvtSat d a _ => [d, a]
  | .vcvtFit d a _ => [d, a]
  | .vretag d a _ => [d, a]
  | .vscale d a _ => [d, a]
  | .vtag d _ => [d]
  | .vtagRd _ a => [a]
  | .vbcastF32 d _ _ => [d]
  | .vbcastI64 d _ _ => [d]
  | .vbcastRaw d _ _ => [d]
  | .vbcastEl d a _ => [d, a]
  | .vredAdd _ a _ => [a]
  | .vredMin _ a _ => [a]
  | .vredMax _ a _ => [a]
  | .vredAnd _ a _ => [a]
  | .vredOr _ a _ => [a]
  | .vredXor _ a _ => [a]
  | .vdot _ a b => [a, b]
  | .viota d _ _ => [d]
  | .vperm d a b => [d, a, b]
  | .vrot d a _ => [d, a]
  | .vslideup d a _ => [d, a]
  | .vslidedn d a _ => [d, a]
  | .vcompress d a _ => [d, a]
  | .vexpand d a _ => [d, a]
  | .vld d _ _ => [d]
  | .vst d _ _ => [d]
  | .vlds d _ _ => [d]
  | .vsts d _ _ => [d]
  | .vldx d _ b => [d, b]
  | .vstx d _ b => [d, b]
  | .vsctadd d _ b _ => [d, b]
  | .vldSc d _ _ => [d]
  | .vstSc d _ _ => [d]
  | .vldBndS d _ _ _ => [d]
  | .vldBndF d _ _ _ => [d]
  | .stripLd d _ => [d]
  | .stripLdNa d _ => [d]
  | .stripSt d _ => [d]
  | .stripStNa d _ => [d]
  | .qpushV _ a => [a]
  | .qpopV d _ => [d]
  | .qpeekV d _ => [d]
  | .vamoAdd d _ b _ => [d, b]
  | .vamoMin d _ b _ => [d, b]
  | .vamoMax d _ b _ => [d, b]
  | .vamoSwap d _ b _ => [d, b]
  | .vamoCas d _ b _ => [d, b]
  | .mma _ a b => [a, b]
  | .mmaW _ a _ => [a]
  | .mmaZ _ a b => [a, b]
  | .mmaWz _ a _ => [a]
  | .mmaT _ a b => [a, b]
  | .mmaTW _ a _ => [a]
  | .mmaTZ _ a b => [a, b]
  | .mmaTWz _ a _ => [a]
  | .accRd d _ _ => [d]
  | .cpGth _ _ b _ => [b]
  | .vxfUvar d _ _ => [d]
  | .vxfSvar d _ _ => [d]
  | .vxfUnpk d _ _ => [d]
  | .vxfEuvar d _ => [d]
  | .vxfEsvar d _ => [d]
  | .vxfPack d _ => [d]
  | _ => []

/-- How a major takes a prefix (R73, R79). -/
inductive Accepts where
  | copy | guard | none
deriving DecidableEq, Repr

/-- The Pfx column of the opcode map (R79). -/
def accepts (major : Nat) : Accepts :=
  if major ≤ 0x15 then .copy
  else if major ≤ 0x19 then .guard
  else if major = 0x1A then .copy
  else if major = 0x1B then .guard
  else if major = 0x1C then .copy
  else if major = 0x1D then .guard
  else if major ≤ 0x1F then .copy
  else if major ≤ 0x27 then .guard
  else if major = 0x31 then .copy
  else if major = 0x32 then .guard
  else if major < 0x40 then .none
  else if major ≤ 0x4C then .copy
  else match major with
    | 0x4E | 0x50 | 0x53 | 0x55 | 0x57 | 0x5B | 0x5D | 0x61 | 0x68 => .copy
    | 0x4D | 0x4F | 0x51 | 0x52 | 0x54 | 0x58 | 0x5A | 0x69 | 0x6A | 0x6B | 0x72 => .guard
    | _ => .none

/-- The class of the register destination of a word whose row accepts a copy (R72, R73); none for `vld.q`. -/
def destClass (f : Fields) : Option RClass :=
  match f.major.toNat with
  | 0x09 | 0x0A | 0x0B | 0x0C | 0x0D | 0x0E | 0x42 => some .p
  | 0x46 => if f.minor = 6 then some .s else some .v
  | 0x48 => some .s
  | 0x4C => if f.b.extractLsb' 3 3 = 1 then none else some .v
  | 0x5B => if f.minor.getLsbD 0 then some .s else some .v
  | 0x61 => some .s
  | 0x68 => if f.minor.getLsbD 0 then some .s else some .v
  | m => if m ≤ 0x31 then some .s else some .v

/-- The fields of a lent prefix are ones that a `pre` may have (R73): without a copy no destination, and a predicate's number below 16. A
prefix that comes from sys.pfx may break this. -/
def prefixOk (l : Lent) : Bool :=
  if lentCe l then decide ((lentClass l).toNat ≤ 2) && (lentClass l != 2 || decide ((lentCd l).toNat < 16))
  else lentCd l == 0 && lentClass l == 0

/-- A lent prefix and its successor make a legal pair (R73).
DEDUCED (unsafe, log 13). -/
def pairLegal (l : Lent) (f : Fields) (n : Nat) : Bool :=
  prefixOk l && match accepts f.major.toNat with
  | .none => false
  | .guard => !lentCe l
  | .copy => !lentCe l || match destClass f, (lentClass l).toNat with
    | some .s, 0 => true
    | some .v, 1 => decide ((lentCd l).toNat < n)
    | some .p, 2 => true
    | _, _ => false

/-- The words that a barista executes (R325). -/
def baristaMay (f : Fields) : Bool :=
  let m := f.major.toNat
  let mode := (f.b.extractLsb' 3 3).toNat
  (decide (1 ≤ m) && decide (m ≤ 0x19)) || (m == 0x1A && mode == 2) || m == 0x1C || m == 0x1D || m == 0x1F
    || (decide (0x20 ≤ m) && decide (m ≤ 0x27)) || (m == 0x30 && f.minor == 0)
    || (m == 0x31 && (f.a ++ (f.b ++ f.minor) == (0x040 : BitVec 19) || f.a ++ (f.b ++ f.minor) == (0x032 : BitVec 19)))
    || (m == 0x5E && f.minor.extractLsb' 0 2 == 3) || (m == 0x71)
    || (m == 0x7E && ((packWord f).extractLsb' 13 1 == 0 || (packWord f).extractLsb' 10 3 == 0))

/-- The majors that a loop body may not hold (R81). -/
def bodyForbids (major : Nat) : Bool :=
  (decide (0x20 ≤ major) && decide (major ≤ 0x28)) || major == 0x30 || (decide (0x32 ≤ major) && decide (major ≤ 0x36))
    || major == 0x38 || major == 0x39 || major == 0x56 || major == 0x59 || major == 0x5C
    || (decide (0x6D ≤ major) && decide (major ≤ 0x72))

/-- Every `v` register that the instruction names is declared (R19). -/
def vregsOk (x : Strand) (i : Instr) : Bool := (vregsOf i).all (fun r => decide (r.toNat < x.nreg))

/-! ### Fetching a word (R69) -/

/-- The context of an instruction fetch: a barista fetches from the base view (R324). -/
def State.fetchCtx (s : State) : Ctx := if s.turn.isSome then { s.ctx with view := 0 } else s.ctx

/-- What a barista's code cache holds of an address (R324). -/
def State.codeHit (s : State) (va : Word) : Option CodeSector := match s.turn with
  | none => none
  | some b => (s.barista b).code.find? (fun c => c.asid == s.ctx.asid && c.vsec == va.toNat / 128)

/-- The sector that an instruction fetch reads, with its page: a barista finds it in its code cache first (R324). A translation that fails
gives cause 0x04, and the record says why (R354). -/
def fetchSector (s : State) (va : Word) : Except Stop (Page × Sector) :=
  match s.codeHit va with
  | some c => .ok (c.page, c.sector)
  | none => match translate s s.fetchCtx .fetch va with
    | .error (.trap t) => .error (.trap { t with code := 0x04, data := va, reason := some t.code })
    | .error x => .error x
    | .ok p => (peekSector s s.fetchCtx p va).map (fun x => (p, x))

/-- The word at an address (R69): a failing translation gives cause 0x04 whatever the reason, POISON gives 0x03, an UNDEF sector
reads as zero.
DEDUCED (unsafe, log 8), DEDUCED (unsafe, log 31). -/
def fetchAt (s : State) (va : Word) : Except Stop (BitVec 32) :=
  match fetchSector s va with
  | .error x => .error x
  | .ok (p, x) =>
    if tagVcls x.tag = clsPoison then .error (trapAt s.fetchCtx .fetch 0x03 (va) (p.pa / 128 * 128 + va.toNat % 128))
    else if tagVcls x.tag = clsUndef then .ok 0
    else .ok (BitVec.ofNat 32 (x.bytes (va.toNat % 128) 4))

/-- What the fetch of a word leaves (R318, R324, R327): the sector is in the die's slice, and in the code cache of a barista, whose 448
sectors give up the oldest for a new one and which waits for a sector that the slice still has to fill.
DESIGN CHOICE (unsafe, log 8). -/
def State.fetchedAt (s : State) (va : Word) : State :=
  if (s.codeHit va).isSome then s else
  match fetchSector s va with
  | .error _ => s
  | .ok (p, x) =>
    let t := (s.touch s.fetchCtx p va (BitVec.twoPow 4 (p.pa / 128 % 4)) false false).keep p.walked
    match s.turn with
    | none => t
    | some b =>
      let y := t.barista b
      let c : CodeSector := { asid := s.ctx.asid, vsec := va.toNat / 128, page := p, sector := x }
      (t.setBarista b { y with code := (if y.code.length < 448 then y.code else y.code.drop 1) ++ [c] }).awaitFill s.fetchCtx p

/-- The word at the program counter: from the replay buffer inside a running loop body (R80, R103), otherwise from memory.
DEDUCED (unsafe, log 8). -/
def fetchWord (s : State) : Except Stop (BitVec 32) :=
  let mem := fetchAt s s.pc
  match s.turn, s.strand.loop with
  | none, some l =>
    let k := (s.pc - l.pc - 4).toNat / 4
    if l.running && decide (k < l.len) then .ok (l.body.getD k 0) else mem
  | _, _ => mem

/-- The word at the program counter comes from the replay buffer (R80, R103). -/
def State.replays (s : State) : Bool := match s.turn, s.strand.loop with
  | none, some l => l.running && decide ((s.pc - l.pc - 4).toNat / 4 < l.len)
  | _, _ => false

/-- What the fetch of the word at the program counter leaves. -/
def State.fetched (s : State) : State := if s.replays then s else s.fetchedAt s.pc

/-- The class field of a copy destination (R70). -/
def classBits : RClass → BitVec 3
  | .s => 0
  | .v => 1
  | .p => 2

/-- What a `pre` lends to its successor (R70, R104). -/
def lentBy : Instr → Option Lent
  | .pre p => some (mkLent p false 0 false 0)
  | .preN p => some (mkLent p true 0 false 0)
  | .preCopy p cls cd => some (mkLent p false cd true (classBits cls))
  | .preNCopy p cls cd => some (mkLent p true cd true (classBits cls))
  | _ => none

/-- The registers that an instruction names are ones that it may name (R19; R161 for the pair of `vamo.cas`). -/
def namesOk (x : Strand) (i : Instr) : Bool := vregsOk x i && match i with
  | .vamoCas d _ _ _ => decide (d.toNat + 1 < x.nreg)
  | _ => true

/-- Capture of a loop body (R80, R81) behind the prefix `prev`: the words from `va`; the stop names the address of the offending word. A
privileged word at PRIV = 0 raises 0x01, since R81 forbids its major, where R80 and R87 give it 0x02 (log 65).
DEDUCED (unsafe, log 65). -/
def captureFrom (s : State) (prev : Option Lent) (va : Word) : Nat → Except Stop (List (BitVec 32))
  | 0 => .ok []
  | n + 1 =>
    match fetchAt s va with
    | .error x => .error x
    | .ok w =>
      let f := unpackWord w
      let pair : Bool := match prev with
        | some l => pairLegal l f s.strand.nreg
        | none => true
      let bad : Bool := !pair || bodyForbids f.major.toNat || (f.major == 0x7E && n == 0) || match decodeLow f with
        | .error _ => true
        | .ok i => !namesOk s.strand i
      let next : Option Lent := match decodeLow f with
        | .ok i => lentBy i
        | .error _ => none
      if bad then .error (trapOf 0x01 va)
      else match captureFrom s next (va + 4) n with
        | .error x => .error x
        | .ok l => .ok (w :: l)

/-- What the capture of a loop body leaves. -/
def State.fetchedBody (s : State) (va : Word) (n : Nat) : State :=
  (List.range n).foldl (fun s i => s.fetchedAt (va + BitVec.ofNat 64 (4 * i))) s

/-- Capture of a loop body from `va`. -/
def captureBody (s : State) (va : Word) (n : Nat) : Except Stop (List (BitVec 32)) := captureFrom s none va n

end Sys2Proof.Machine
end

