-- ==== Sys2Proof/Machine/System.lean ====
section
/-! DEFINITION. The system group (R105 to R113), special registers (R114, R115, R8, R9, R21) and the privileged instructions
(R107, R113, R116 to R119), with the events that end their waits (R110, R111, R117, R26). -/

namespace Sys2Proof.Machine

/-! ### Shared operations -/

/-- Update a strand by its global number. -/
def State.modStrand (s : State) (g : Nat) (f : Strand → Strand) : State := s.setStrandAt g (f (s.strandAt g))

/-- A wait during which the schedule clock of an exposed region advances (R25, R111, R181, R340). The waits of a fence, a release and a
spawn for copies, and that for a free copy entry, freeze the region (R159, R164, R264, R307). -/
def stalls : Wait → Bool
  | .drain | .event | .sleep _ | .vwait _ | .queue _ _ | .message _ | .barrier _ _ | .commits | .older | .pushes | .copies | .copy _ _ => true
  | _ => false

/-- The wait of a strand is over. A freeze that ends leaves the region frozen to the end of the clock, unless an instruction issues in it.
-/
def Strand.endWait (x : Strand) : Strand := { x with wait := none, ticked := x.ticked || x.wait.any (fun w => !stalls w) }

/-- A waiting instruction of a strand is done: control goes on at the next word. Its schedule clocks have passed while it waited (R7). -/
def Strand.complete (x : Strand) : Strand := { x.endWait with pc := x.pc + 4, lent := none }

/-- A wait ends and the instruction runs again.
DESIGN CHOICE (safe, log 39). -/
def Strand.rerun (x : Strand) : Strand := x.endWait

/-- What an instruction that has begun waited for has come: it finishes before its strand does anything else (R280: WaitStarted).
DEDUCED (unsafe, log 14). -/
def Strand.finishing (x : Strand) : Strand := { x with wait := some .finish }

/-- A strand is drained (R26): no pending commit and an empty engine queue. At TIP = 1 only what it issued since trap entry counts. -/
def drained (s : State) (g : Nat) : Bool :=
  (s.strandAt g).sched.commits.isEmpty && (copiesOf s g).all (fun r => (s.strandAt g).tip && !r.inHandler)

/-- An instruction that first drains its strand (R26, R108). -/
def State.afterDrain (s : State) (f : State → State) : State :=
  if drained s s.strandId then f s else s.stop (.wait .drain)

/-- An instruction that PRIV = 0 may not run (R77, R119). -/
def State.privileged (s : State) (i : Instr) (f : State → State) : State :=
  s.onStrand (fun s => if s.strand.priv then f s else s.stop (privilege i))

/-- The world-escape fault of an instruction that makes no memory access (R217, R218). -/
def escape : Stop := trapOf 0x30 0

/-- Whether a scope of strand `g` covers strand `h` (R195). -/
def covers (scope : Scope) (g h : Nat) : Bool :=
  match scope with
  | .strand => g == h
  | .core => coreOf g == coreOf h
  | .cluster => clusterOf g == clusterOf h
  | .die => dieOf g == dieOf h
  | .package => true
  | .fabric => true

/-- An event on strand `g` in a state of its wait. -/
def State.onWait (s : State) (g : Nat) (ready : Strand → Bool) (f : Strand → Strand) : State :=
  let x := s.strandAt g
  if x.phase = .running ∧ ready x then s.setStrandAt g (f x) else s

/-! ### The system group -/

/-- R105: nop. -/
def execNop (s : State) : Out := .next s.retire

/-- R106: trap takes cause 0x0C with the code as edata.
DEDUCED (unsafe, log 13). -/
def execTrap (code : SReg) (s : State) : Out :=
  .next (s.onStrand (fun s => s.guarded (fun s => s.stop (trapOf 0x0C (code.setWidth 64)))))

/-- R106: brk takes cause 0x0D.
DEDUCED (unsafe, log 13). -/
def execBrk (s : State) : Out := .next (s.onStrand (fun s => s.guarded (fun s => s.stop (trapOf 0x0D 0))))

/-- The commits of a handler's own exposed region stand in the region that `eret` thaws, at the clocks they still have to go: R30 drains
only where PMODE differs from MODE, and does not say what becomes of them where both are 1.
DESIGN CHOICE (unsafe, log 74). -/
def Strand.carryCommits (x : Strand) : Strand :=
  match x.heldRegion with
  | [] => x
  | r :: l => if x.mode && x.pmode && !x.sched.commits.isEmpty then
      { x with heldRegion := { r with
          commits := r.commits ++ x.sched.commits.map (fun c => { c with
            due := r.clock + (c.due - x.sched.clock), issued := c.issued.map (fun t => r.clock + t) }) } :: l }
    else x

/-- R107: eret performs ReturnFromTrap (R30); a change of mode drains first; a misaligned target traps (R69). -/
def execEret (s : State) : Out :=
  .next (s.privileged .eret (fun s =>
    if s.strand.pmode != s.strand.mode && !drained s s.strandId then s.stop (.wait .drain)
    else if s.strand.sys.epc.toNat % 4 ≠ 0 then s.stop (trapOf 0x05 s.strand.sys.epc)
    else { s with strand := s.strand.carryCommits }.returnTrap))

/-- The strand arms the line of a page's address (R110). -/
def State.arm (s : State) (p : Page) : State := { s with strand := { s.strand with monitors := [p.pa / 512] } }

/-- R110: wfe returns at once on its event flag; the compare form arms the line, before the read that a peer or a BUSY sector holds, and
returns when the word differs; otherwise it waits. -/
def execWfe (a b : SReg) (s : State) : Out :=
  .next (s.onStrand (fun s =>
    if s.strand.eventFlag && s.strand.monitors.isEmpty then { s with strand := { s.strand with eventFlag := false } }.retire
    else if a = 0 then s.stop (.wait .event)
    else match translate s s.ctx .read (s.rdS a), loadBytes s (s.rdS a) 8 with
      | .ok p, .ok r =>
        if BitVec.ofNat 64 r.1 ≠ s.rdS b then { r.2 with strand := { r.2.strand with monitors := [] } }.retire
        else (r.2.arm p).stop (.wait .event)
      | .ok p, .error (.ask d w k m) => (s.arm p).stop (.ask d w k m)
      | .ok p, .error (.wait w) => (s.arm p).stop (.wait w)
      | _, .error x => s.stop x
      | .error x, _ => s.stop x))

/-- R109: sev sets the event flag of every strand its scope covers. -/
def execSev (scope : Scope) (s : State) : Out :=
  .next (s.onStrand (fun s =>
    (s.mapStrands (fun h x => if covers scope s.strandId h then { x with eventFlag := true } else x)).retire))

/-- The shape of `mode.x` and `mode.i` (R26, R108): drain, then MODE changes and every class is free. -/
def State.enterMode (s : State) (exposed : Bool) : State :=
  s.onStrand (fun s => s.afterDrain (fun s =>
    let t := s.retire
    { t with strand := { t.strand with
        sys := { t.strand.sys with status := setBit t.strand.sys.status 8 exposed }
        sched := { Sched.reset with clock := t.strand.sched.clock }, ticked := true } }.ordered s.strandId true true false))

/-- R108: mode.x. -/
def execModeX (s : State) : Out := .next (s.enterMode true)

/-- R108: mode.i. -/
def execModeI (s : State) : Out := .next (s.enterMode false)

/-- A fence of whoever has the turn orders the events of one memory agent before the other's (R193, R194): what the first knows the other
knows (R196), and it sees what the first wrote; `sv` from the scalar to the vector agent, `vs` back, `walks` before later walks too
(R352). -/
def State.orders (s : State) (sv vs walks : Bool) : State :=
  let sc : Knower := .agent (agentKey s) false
  let ve : Knower := .agent (agentKey s) true
  let t := if sv then s.informs sc ve else s
  let t := if vs then t.informs ve sc else t
  t.ordered (agentKey s) sv vs walks

/-- R113: icinv orders the strand's earlier stores, those of its copies included (R269), as `fence.all.core` does; fetch reads memory at
every word (log 8), so nothing is held to invalidate.
DEDUCED (unsafe, log 8). -/
def execIcinv (s : State) : Out := .next (s.privileged .icinv (fun s => s.finish (do copiesDone s; .ok (s.orders true true true).retire)))

/-- R111: sleep.until. -/
def execSleepUntil (a : SReg) (s : State) : Out :=
  .next (s.onStrand (fun s => if s.rdS a ≤ s.cycle then s.retire else s.stop (.wait (.sleep (s.rdS a)))))

/-! ### Special registers -/

/-- sys.peer (R391). -/
def peerWord (s : State) : Word := setBit (Config.deviceId.setWidth 64) 12 s.mgmt.fab

/-- The value that `mfs` reads (R114, R21). -/
def readSys (s : State) (r : SysReg) : Word :=
  match r with
  | .status => s.strand.sys.status
  | .cause => s.strand.sys.cause
  | .epc => s.strand.sys.epc
  | .edata => s.strand.sys.edata
  | .tvec => s.strand.sys.tvec
  | .pfx => s.strand.sys.pfx
  | .vcfg => s.strand.sys.vcfg
  | .vstart => s.strand.sys.vstart
  | .lease => s.strand.sys.lease
  | .lanemap => (s.core (coreOf s.strandId)).lanemap
  | .seed => s.strand.sys.seed
  | .stripbase => s.strand.sys.stripbase
  | .blend => s.strand.sys.blend
  | .view => s.strand.sys.view
  | .inldepth => s.strand.sys.inldepth
  | .peer => peerWord s
  | .cycle => s.cycle

/-- R114: mfs.
DEDUCED (unsafe, log 65). -/
def execMfs (d : SReg) (reg : SysReg) (s : State) : Out := .next (s.scalar 1 d (readSys s reg))

/-- The bits [lo, hi] of a mask. -/
def bitsOf (lo hi : Nat) : Word := BitVec.ofNat 64 (2 ^ (hi + 1) - 2 ^ lo)

/-- The access of a special register's fields (R8): reserved bits, RWP bits, RW bits, W1C bits. -/
structure SysAccess where
  reserved : Word
  rwp : Word
  rw : Word
  w1c : Word
deriving DecidableEq, Repr

/-- The field tables of R21 to R23, R54, R204, R225, R306 and R391. -/
def sysAccess (r : SysReg) : SysAccess :=
  match r with
  | .status => { reserved := bitsOf 16 63, rwp := bitsOf 9 14, rw := bitsOf 5 7, w1c := bitsOf 0 4 }
  | .cause => { reserved := bitsOf 10 63, rwp := bitsOf 0 9, rw := 0, w1c := 0 }
  | .epc => { reserved := 0, rwp := bitsOf 0 63, rw := 0, w1c := 0 }
  | .edata => { reserved := 0, rwp := bitsOf 0 63, rw := 0, w1c := 0 }
  | .tvec => { reserved := bitsOf 0 1, rwp := bitsOf 2 63, rw := 0, w1c := 0 }
  | .pfx => { reserved := bitsOf 15 63, rwp := bitsOf 0 14, rw := 0, w1c := 0 }
  | .vcfg => { reserved := bitsOf 5 7 ||| bitsOf 26 31 ||| bitsOf 50 63, rwp := 0, rw := 0, w1c := 0 }
  | .vstart => { reserved := 0, rwp := 0, rw := bitsOf 0 63, w1c := 0 }
  | .lease => { reserved := bitsOf 24 63, rwp := 0, rw := 0, w1c := 0 }
  | .lanemap => { reserved := 0, rwp := 0, rw := 0, w1c := 0 }
  | .seed => { reserved := 0, rwp := 0, rw := bitsOf 0 63, w1c := 0 }
  | .stripbase => { reserved := 0, rwp := 0, rw := bitsOf 0 63, w1c := 0 }
  | .blend => { reserved := bitsOf 2 7 ||| bitsOf 16 63, rwp := bitsOf 0 1, rw := 0, w1c := 0 }
  | .view => { reserved := bitsOf 23 63, rwp := 0, rw := 0, w1c := 0 }
  | .inldepth => { reserved := bitsOf 8 63, rwp := bitsOf 0 3, rw := 0, w1c := 0 }
  | .peer => { reserved := bitsOf 13 63, rwp := 0, rw := 0, w1c := 0 }
  | .cycle => { reserved := 0, rwp := 0, rw := 0, w1c := 0 }

/-- A value that breaks a field limit of its register (R115): RM above 4, BOUND outside 1 to 8. -/
def breaksLimit (r : SysReg) (x : Word) : Bool :=
  match r with
  | .status => decide (4 < field x 5 3)
  | .inldepth => decide (field x 0 4 = 0) || decide (8 < field x 0 4)
  | _ => false

/-- The register's value after a legal `mts` (R115). -/
def mtsValue (a : SysAccess) (old x : Word) : Word :=
  ((old &&& ~~~(a.rwp ||| a.rw)) ||| (x &&& (a.rwp ||| a.rw))) &&& ~~~(a.w1c &&& x)

/-- Write a special register; those that are read-only as a whole keep their value. -/
def Strand.writeSys (t : Strand) (r : SysReg) (v : Word) : Strand :=
  { t with sys := match r with
    | .status => { t.sys with status := v }
    | .cause => { t.sys with cause := v }
    | .epc => { t.sys with epc := v }
    | .edata => { t.sys with edata := v }
    | .tvec => { t.sys with tvec := v }
    | .pfx => { t.sys with pfx := v }
    | .vcfg => { t.sys with vcfg := v }
    | .vstart => { t.sys with vstart := v }
    | .lease => { t.sys with lease := v }
    | .seed => { t.sys with seed := v }
    | .stripbase => { t.sys with stripbase := v }
    | .blend => { t.sys with blend := v }
    | .view => { t.sys with view := v }
    | .inldepth => { t.sys with inldepth := v }
    | .lanemap | .peer | .cycle => t.sys }

/-- R115: mts; reserved bits and limits rank 4, the privilege of RWP fields ranks 5. -/
def execMts (reg : SysReg) (src : SReg) (s : State) : Out :=
  .next (s.onStrand (fun s => s.guarded (fun s =>
    let x := s.rdS src
    let a := sysAccess reg
    let old := readSys s reg
    if x &&& a.reserved ≠ 0 ∨ breaksLimit reg x then s.stop (illegal s (.mts reg src))
    else if !s.strand.priv ∧ (x ^^^ old) &&& a.rwp ≠ 0 then s.stop (privilege (.mts reg src))
    else { s with strand := s.strand.writeSys reg (mtsValue a old x) }.retire)))

/-! ### Privileged instructions -/

/-- R116: blendw writes one entry of bank 1 to 3 of the core. Its operand checks raise cause 0x0E with s_a, as its own entry and the table
of R87 say; R88 names it among the checks that raise 0x01.
DEDUCED (unsafe, log 65). -/
def execBlendw (a b : SReg) (s : State) : Out :=
  .next (s.privileged (.blendw a b) (fun s =>
    let x := s.rdS a
    let y := s.rdS b
    let e : Byte := y.setWidth 8
    if s.strand.depth ≠ 0 then s.stop escape
    else if field x 12 2 = 0 ∨ field x 14 50 ≠ 0 ∨ field y 8 56 ≠ 0
        ∨ malformedEntry (BitVec.ofNat 6 (field x 6 6)) (BitVec.ofNat 6 (field x 0 6)) e then s.stop (trapOf 0x0E x)
    else
      let c := s.core (coreOf s.strandId)
      (s.setCore (coreOf s.strandId)
        { c with blend := insertNat (field x 12 2 * 4096 + field x 6 6 * 64 + field x 0 6) e c.blend }).retire))

/-- What a barista holds of the ASIDs that `p` names goes with their directory entries: code sectors (R326) and queued events, which
DROPQ counts (R342, R344). -/
def Barista.dropped (x : Barista) (p : Nat → Bool) : Barista :=
  { x with
    code := x.code.filter (fun c => !p c.asid.toNat)
    queue := x.queue.filter (fun e => !p e.asid.toNat)
    counters := (x.queue.filter (fun e => p e.asid.toNat)).foldl (fun c _ => { c with dropq := satInc c.dropq }) x.counters }

/-- The root tables and the directory entries of the ASIDs that `p` names are dropped on every die, with their code (R326, R346): queued
events of the ASID are dropped, and a running invocation aborts with 0xF6, charged for its last clock (R336, R344).
DEDUCED (unsafe, log 33). -/
def dropDirectory (s : State) (p : Nat → Bool) : State :=
  let mine (x : Barista) : Bool := match x.invocation with
    | some v => p v.event.asid.toNat
    | none => false
  let s := s.baristas.foldl (fun s q => if mine q.2 then s.chargeInvocation q.1 else s) s
  let s : State := { s with
    dies := s.dies.map (fun d => (d.1, { d.2 with
      roots := d.2.roots.filter (fun e => !p e.1), directory := d.2.directory.filter (fun e => !p e.1) }))
    baristas := s.baristas.map (fun q => (q.1, q.2.dropped p)) }
  s.baristas.foldl (fun s q => if mine q.2 then s.abortHandler q.1 0xF6 else s) s

/-- R117: tlbinv drops the directory entries of its ASIDs, and for KIND 10 brings the written window map into force (R392); the
translations go when it completes, at TLBINV_COMPLETE. Its operand check stands before world-escape, which no rule ranks.
DEDUCED (unsafe, log 22), DEDUCED (unsafe, log 65). -/
def execTlbinv (a b : SReg) (s : State) : Out :=
  .next (s.privileged (.tlbinv a b) (fun s =>
    let y := s.rdS b
    let kind := field y 12 2
    if kind = 3 ∨ field y 14 50 ≠ 0 then s.stop (illegal s (.tlbinv a b))
    else if s.strand.depth ≠ 0 then s.stop escape
    else
      let s := if kind = 0 then s else dropDirectory s (fun k => kind == 2 || k == field y 0 12)
      let s := if kind = 2 then { s with mgmt := { s.mgmt with fwmapForce := s.mgmt.fwmap } } else s
      s.tickSched.stop (.wait (.tlbinv kind (field y 0 12) (s.rdS a)))))

/-- R118: asid.set. Its operand check stands before world-escape, which no rule ranks.
DEDUCED (unsafe, log 65). -/
def execAsidSet (a : SReg) (s : State) : Out :=
  .next (s.privileged (.asidSet a) (fun s =>
    let x := s.rdS a
    if field x 12 52 ≠ 0 then s.stop (illegal s (.asidSet a))
    else if s.strand.depth ≠ 0 then s.stop escape
    else { s with strand := { s.strand with asid := x.setWidth 12 } }.retire))

/-! ### Events that end waits -/

/-- R110: a waiting `wfe` consumes the event flag, disarms and returns.
DESIGN CHOICE (safe, log 11). -/
def execWfeWake (g : Nat) (s : State) : Out :=
  .next (s.onWait g (fun x => x.wait == some .event && x.eventFlag)
    (fun x => { x.complete with eventFlag := false, monitors := [] }))

/-- R111: the time of a `sleep.until` has come. -/
def execSleepUntilExpiry (g : Nat) (s : State) : Out :=
  .next (s.onWait g (fun x => match x.wait with
    | some (.sleep t) => decide (t ≤ s.cycle)
    | _ => false) Strand.complete)

/-- An entry that a `tlbinv` drops (R117): the page of an access in an address space. -/
def dropsPage (kind asid : Nat) (va : Word) (of_ : Nat) (at_ : Word) (p : Page) : Bool :=
  kind == 2 || (asid == of_ && (kind == 1 || va.toNat / p.size == at_.toNat / p.size))

/-- An access of an address space at an address may have translated through an entry that a `tlbinv` drops, whatever its page's size. -/
def dropsNear (kind asid : Nat) (va : Word) (of_ : BitVec 12) (at_ : Word) : Bool :=
  kind == 2 || (asid == of_.toNat && (kind == 1 || va.toNat / 2 ^ 33 == at_.toNat / 2 ^ 33))

/-- An answer of a peer is awaited. -/
def awaitsPeer : Option Wait → Bool
  | some (.response _ _ _) => true
  | _ => false

/-- An access that translated through a dropped entry has not performed (R117): a sector of a copy, a prefetch, a destination sector of a
collective, a write that is not acknowledged (R397), a read or an atomic whose answer is on its way (R393).
DEDUCED (unsafe, log 22). -/
def dropPending (s : State) (kind asid : Nat) (va : Word) : Bool :=
  let hit (of_ : BitVec 12) (e : CopyEnd) : Bool := match e with
    | .mem a p => dropsPage kind asid va of_.toNat a p
    | .strip _ => false
  s.unacked.any (fun u => dropsNear kind asid va u.2.asid u.2.addr)
    || s.occupied.any (fun p => awaitsPeer p.2.wait && (kind == 2 || asid == p.2.asid.toNat))
    || s.baristas.any (fun b => awaitsPeer b.2.wait && (kind == 2 || b.2.invocation.any (fun v => asid == v.event.asid.toNat)))
    ||
  s.cores.any (fun c => c.2.copies.any (fun r => (r.moves.drop r.moved).any (fun m => hit r.asid m.src || hit r.asid m.dst)))
    || s.baristas.any (fun b => b.2.prefetches.any (fun f => dropsPage kind asid va f.asid.toNat f.vline f.page))
    || s.collectives.any (fun c => c.status.isNone && c.dst.any (fun d => dropsPage kind asid va c.asid.toNat d.1 d.2))

/-- A waiting `tlbinv` can complete (R117). -/
def tlbinvDone (s : State) (x : Strand) : Bool := match x.wait with
  | some (.tlbinv kind asid va) => !dropPending s kind asid va
  | _ => false

/-- The translations that a `tlbinv` drops (R117, R353): all, those of an address space, or those on the way to an address.
DESIGN CHOICE (unsafe, log 78). -/
def State.dropTranslations (s : State) (kind asid : Nat) (va : Word) : State :=
  { s with translations := s.translations.filter (fun t =>
      !(kind == 2 || (asid == t.asid.toNat && (kind == 1 || t.serves (BitVec.ofNat 12 asid) va)))) }

/-- R117: every waiting `tlbinv` completes once the accesses that translated through its entries have performed; from then on none of its
entries is used (R353). -/
def execTlbinvComplete (s : State) : Out :=
  let t := s.occupied.foldl (fun t p => match p.2.wait with
    | some (.tlbinv kind asid va) => if tlbinvDone s p.2 then t.dropTranslations kind asid va else t
    | _ => t) s
  .next (t.mapStrands (fun _ x => if tlbinvDone s x then x.complete else x))

/-- R26: a drain ends when the strand's commits have landed and its engine queue is empty; the instruction runs. -/
def execDrainComplete (g : Nat) (s : State) : Out :=
  .next (s.onWait g (fun x => x.wait == some .drain && drained s g) Strand.rerun)

/-! ### Words that do not run -/

/-- R76: a word that is no instruction raises the illegal-instruction trap with the word as edata; a barista aborts (R325). -/
def execIllegalInstruction (word : BitVec 32) (s : State) : Out := .next (s.stop (illegalWith s (word.setWidth 64)))

/-- The stop of a fetch that failed at the program counter. -/
def fetchStop (s : State) (fault : FetchFault) : Stop :=
  match fetchAt s s.pc with
  | .error x => x
  | .ok _ => trapOf (match fault with
    | .poison => 0x03
    | .translation => 0x04) s.pc

/-- R69, R87: an instruction fetch that failed.
DEDUCED (unsafe, log 31). -/
def execInstructionFetchFault (fault : FetchFault) (s : State) : Out := .next (s.stop (fetchStop s fault))

end Sys2Proof.Machine
end

