-- ==== Sys2Proof/Machine/ScalarMem.lean ====
section
/-! DEFINITION. Scalar memory instructions: loads and stores (R95, R96), element loads and stores with conversion (R97 to
R99), acquire and release accesses (R158), atomics (R160) and bounded loads (R165, R166). -/

namespace Sys2Proof.Machine

/-- A scalar load (R95): `z` bytes from the address, extended, with L = 8. -/
def State.load (s : State) (d base : SReg) (off : BitVec 10) (z : Nat) (signed : Bool) : State :=
  s.memory (fun s => do
    let r ← loadBytes s (effAddr (s.rdS base) off z) z
    .ok (r.2.putS 8 d (extendLoad signed z r.1) 0))

/-- A scalar store (R95): the low `z` bytes of the register. -/
def State.store (s : State) (d base : SReg) (off : BitVec 10) (z : Nat) : State :=
  s.memory (fun s => storeBytes s (effAddr (s.rdS base) off z) z ((s.rdS d).toNat % 2 ^ (8 * z)))

/-- R95: a load of 1 byte, sign-extended. -/
def execLdB (d base : SReg) (off : BitVec 10) (s : State) : Out := .next (s.load d base off 1 true)

/-- R95: a load of 1 byte, zero-extended. -/
def execLdBU (d base : SReg) (off : BitVec 10) (s : State) : Out := .next (s.load d base off 1 false)

/-- R95: a load of 2 bytes, sign-extended. -/
def execLdH (d base : SReg) (off : BitVec 10) (s : State) : Out := .next (s.load d base off 2 true)

/-- R95: a load of 2 bytes, zero-extended. -/
def execLdHU (d base : SReg) (off : BitVec 10) (s : State) : Out := .next (s.load d base off 2 false)

/-- R95: a load of 4 bytes, sign-extended. -/
def execLdW (d base : SReg) (off : BitVec 10) (s : State) : Out := .next (s.load d base off 4 true)

/-- R95: a load of 4 bytes, zero-extended. -/
def execLdWU (d base : SReg) (off : BitVec 10) (s : State) : Out := .next (s.load d base off 4 false)

/-- R95: a load of 8 bytes, sign-extended. -/
def execLdD (d base : SReg) (off : BitVec 10) (s : State) : Out := .next (s.load d base off 8 true)

/-- R95, R96: a store of 1 byte. -/
def execStB (d base : SReg) (off : BitVec 10) (s : State) : Out := .next (s.store d base off 1)

/-- R95, R96: a store of 2 bytes. -/
def execStH (d base : SReg) (off : BitVec 10) (s : State) : Out := .next (s.store d base off 2)

/-- R95, R96: a store of 4 bytes. -/
def execStW (d base : SReg) (off : BitVec 10) (s : State) : Out := .next (s.store d base off 4)

/-- R95, R96: a store of 8 bytes. -/
def execStD (d base : SReg) (off : BitVec 10) (s : State) : Out := .next (s.store d base off 8)

/-! ### Element accesses (R97 to R99) -/

/-- The value of one element of a sector (R98), with the flags of its conversion (R55). -/
def elementRead (x : Sector) (p : Page) (va : Word) (j : Nat) (side : Side) (rm : Rounding) : Except Stop (Word × Sticky) :=
  let slot := p.grid.width 32
  let undef := tagVcls x.tag == clsUndef
  let e := sectorElem slot x.bits (tagFormat x.tag) j
  match side with
  | .raw => .ok (((x.tag.setWidth 64) <<< 48) ||| (if undef then 0 else e), 0)
  | _ =>
    if tagFormat x.tag = .raw then .error (trapOf 0x09 (sectorVa va))
    else if undef then .error (trapOf 0x0A va)
    else
      let v := sectorVal slot p.grid x j
      let fl := readFlags (tagFormat x.tag) e
      match side with
      | .f32 => let r := encodeEl .fp32 127 127 rm false v; .ok (r.1.setWidth 32 |>.setWidth 64, r.2 ||| fl)
      | _ => let r := encodeEl .int32 127 127 rm false v; .ok ((r.1.setWidth 32).signExtend 64, r.2 ||| fl)

/-- `lde` (R98). -/
def lde (s : State) (d base : SReg) (off : BitVec 10) (side : Side) : Except Stop State := do
  let va := effAddr (s.rdS base) off 1
  let p ← translate s s.ctx .read va
  let w := p.grid.width 32 / 8
  checkAlign va w
  let r ← loadSector s s.ctx p va false
  checkTag s .read p va r.1.tag
  checkPoison s .read p va r.1.tag
  let v ← elementRead r.1 p va (va.toNat % 128 / w) side (s.strand.rounding 0)
  .ok (r.2.putS 10 d v.1 v.2)

/-- The formats that `ste` does not write (R99): RAW and microscaled ones but for `.raw` into a sector that holds them. -/
def elementForbidden (x : Sector) (p : Page) (side : Side) : Bool :=
  if tagVcls x.tag = clsUndef then
    let f := (Fmt.ofCode p.dfmt).getD .raw
    f == .raw || Fmt.isMicro f
  else side != .raw && (tagFormat x.tag == .raw || Fmt.isMicro (tagFormat x.tag))

/-- The storage bytes that element j of width w touches (R45). -/
def elementBytes (j w : Nat) : BitVec 128 := byteMask (j * w / 8) ((j * w + w + 7) / 8 - j * w / 8)

/-- `ste` (R99): one read-modify-write of the sector. -/
def ste (s : State) (d base : SReg) (off : BitVec 10) (side : Side) : Except Stop State := do
  let va := effAddr (s.rdS base) off 1
  let p ← translate s s.ctx .write va
  let w := p.grid.width 32 / 8
  checkAlign va w
  let x ← peekSector s s.ctx p va
  let j := va.toNat % 128 / w
  let upd : StoreOp := .element p.grid p.dfmt j (s.rdS d) side s.strand.roundState
  let r := upd.run x
  let t ← storeSector s s.ctx p va (elementBytes j (Fmt.width (p.grid.width 32) (tagFormat r.1.tag)))
    (some (BitVec.twoPow 128 j)) upd false
  checkTag s .write p va x.tag
  if elementForbidden x p side then .error (trapOf 0x09 (sectorVa va))
  else .ok { t with strand := t.strand.raise r.2 }

/-- R98: lde.f32. -/
def execLdeF32 (d base : SReg) (off : BitVec 10) (s : State) : Out := .next (s.memory (fun s => lde s d base off .f32))

/-- R98: lde.i64. -/
def execLdeI64 (d base : SReg) (off : BitVec 10) (s : State) : Out := .next (s.memory (fun s => lde s d base off .i64))

/-- R98: lde.raw. -/
def execLdeRaw (d base : SReg) (off : BitVec 10) (s : State) : Out := .next (s.memory (fun s => lde s d base off .raw))

/-- R99: ste.f32. -/
def execSteF32 (d base : SReg) (off : BitVec 10) (s : State) : Out := .next (s.memory (fun s => ste s d base off .f32))

/-- R99: ste.i64. -/
def execSteI64 (d base : SReg) (off : BitVec 10) (s : State) : Out := .next (s.memory (fun s => ste s d base off .i64))

/-- R99: ste.raw. -/
def execSteRaw (d base : SReg) (off : BitVec 10) (s : State) : Out := .next (s.memory (fun s => ste s d base off .raw))

/-! ### Acquire and release (R158, R197, R198, R397, R398) -/

/-- The writes without acknowledgement that the scalar agent (`sc`) or the vector agent (`ve`) of whoever has the turn knows of: its own
and those of R196 (R397). -/
def State.pendingAcks (s : State) (sc ve : Bool) : List Nat :=
  let me := agentKey s
  s.unacked.filterMap (fun u =>
    if (sc && u.2.known.contains (.agent me false)) || (ve && u.2.known.contains (.agent me true)) then some u.1 else none)

/-- A release or fence at fabric scope waits for the acknowledgements of the writes that it orders (R397).
DEDUCED (unsafe, log 23). -/
def fabricRelease (s : State) (scope : Scope) (sc ve : Bool) : Except Stop Unit :=
  match scope, s.pendingAcks sc ve with
  | .fabric, id :: _ => .error (.wait (.acknowledge id))
  | _, _ => .ok ()

/-- What an acquire at `va` has read is known to the other agent too (R197). -/
def State.acquire (s : State) (va : Word) : State := match translate s s.ctx .read va with
  | .ok p => (s.acquires (agentKey s)).learns (s.vecCtx false) (servingKey s s.ctx p)
  | .error _ => s

/-- What either agent knows, a release at `va` passes on (R198). -/
def State.release (s : State) (va : Word) : State := match translate s s.ctx .write va with
  | .ok p => (s.releases (agentKey s)).tells (s.vecCtx false) (slotKey (p.pa / 128) s.ctx.view)
  | .error _ => s

/-- R158: ld.acq loads 8 bytes; what it orders beyond its own strand holds in every step (log 1).
DESIGN CHOICE (unsafe, log 1). -/
def execLdAcq (d base : SReg) (_scope : Scope) (off : BitVec 10) (s : State) : Out :=
  .next (s.memory (fun s => do
    let va := effAddr (s.rdS base) off 8
    let r ← loadBytes s va 8
    .ok ((r.2.acquire va).putS 8 d (extendLoad false 8 r.1) 0)))

/-- R158: st.rel stores 8 bytes after what its scope orders has performed. -/
def execStRel (d base : SReg) (scope : Scope) (off : BitVec 10) (s : State) : Out :=
  .next (s.memory (fun s => do
    let va := effAddr (s.rdS base) off 8
    checkAlign va 8
    copiesDone s .copies
    fabricRelease s scope true true
    let t ← storeBytes s va 8 (s.rdS d).toNat
    .ok (t.release va)))

/-! ### Atomics (R160) -/

def AmoOp.code : AmoOp → Nat
  | .add => 0 | .and => 1 | .or => 2 | .xor => 3 | .min => 4 | .max => 5 | .minu => 6 | .maxu => 7 | .swap => 8 | .cas => 9

/-- An atomic at a wider scope than the die executes at the LLC (R323). -/
def atLlc : Scope → Bool
  | .package | .fabric => true
  | _ => false

/-- The read-modify-write of the 8 bytes at an address (R160): translation with RD and WR, world faults, tag traps. -/
def amoAt (s : State) (va : Word) (op : AmoOp) (b c : Word) (scope : Scope) : Except Stop (Word × State) := do
  checkAlign va 8
  let p ← translate s s.ctx .rmw va
  let off := va.toNat % 128
  match (match physClass p.pa with
    | .window slot => if s.ctx.view = 0 then (match targetOf s p.pa slot with
      | .peer dev addr => some (dev, addr)
      | _ => none) else none
    | _ => none) with
  | some (dev, addr) =>
    let i := addr / 128 % 4
    let m ← askPeer s s.ctx va dev addr (2 ^ 64 + p.pa)
      { port := 0, header := cemenHeader 4 (2 ^ i) dev addr 0 (op.code + 8192 * (Scope.code scope).toNat), mask := 0
        blocks := [BitVec.ofNat 1024 (b.toNat + 2 ^ 64 * c.toNat)] }
    .ok (BitVec.ofNat 64 (m.blocks.headD 0).toNat, (s.notifyLine (p.pa / 512)).keep p.walked)
  | none =>
    let x ← peekSector s s.ctx p va
    let t ← storeSector s { s.ctx with llc := atLlc scope } p va (byteMask off 8) none (.amo op off b c) false
    checkTag s .rmw p va x.tag
    checkPoison s .rmw p va x.tag
    .ok (BitVec.ofNat 64 (plainBytes x va 8), (t.learns s.ctx (servingKey s s.ctx p)).awaitFill s.ctx p)

/-- The shape of every scalar atomic: `s_d` receives the old value, with L = 30. -/
def State.amo (s : State) (op : AmoOp) (d a b : SReg) (scope : Scope) : State :=
  s.memory (fun s => do
    let r ← amoAt s (s.rdS a) op (s.rdS b) (s.rdS d) scope
    .ok (r.2.putS 30 d r.1 0))

/-- R160: amo.add. -/
def execAmoAdd (d a b : SReg) (scope : Scope) (s : State) : Out := .next (s.amo .add d a b scope)

/-- R160: amo.and. -/
def execAmoAnd (d a b : SReg) (scope : Scope) (s : State) : Out := .next (s.amo .and d a b scope)

/-- R160: amo.or. -/
def execAmoOr (d a b : SReg) (scope : Scope) (s : State) : Out := .next (s.amo .or d a b scope)

/-- R160: amo.xor. -/
def execAmoXor (d a b : SReg) (scope : Scope) (s : State) : Out := .next (s.amo .xor d a b scope)

/-- R160: amo.min. -/
def execAmoMin (d a b : SReg) (scope : Scope) (s : State) : Out := .next (s.amo .min d a b scope)

/-- R160: amo.max. -/
def execAmoMax (d a b : SReg) (scope : Scope) (s : State) : Out := .next (s.amo .max d a b scope)

/-- R160: amo.minu. -/
def execAmoMinu (d a b : SReg) (scope : Scope) (s : State) : Out := .next (s.amo .minu d a b scope)

/-- R160: amo.maxu. -/
def execAmoMaxu (d a b : SReg) (scope : Scope) (s : State) : Out := .next (s.amo .maxu d a b scope)

/-- R160: amo.swap. -/
def execAmoSwap (d a b : SReg) (scope : Scope) (s : State) : Out := .next (s.amo .swap d a b scope)

/-- R160: amo.cas. -/
def execAmoCas (d a b : SReg) (scope : Scope) (s : State) : Out := .next (s.amo .cas d a b scope)

/-! ### Bounded loads (R165, R166) -/

/-- A scalar bounded load: 8 bytes as `ld.d`, the sector as R166 obtains it for the round `s_t - k`. -/
def State.loadBound (s : State) (d base : SReg) (k : BitVec 4) (t : SReg) (stall : Bool) : State :=
  s.onStrand (fun s => s.memory (fun s => do
    let va := s.rdS base
    let need := s.rdS t - k.setWidth 64
    let r ← loadWith s va 8 (fun p => boundedLoad s s.ctx p va need stall)
    .ok (r.2.putS 8 d (BitVec.ofNat 64 r.1) 0)))

/-- R165: ld.bnd.s waits until the shadow reaches the required round. -/
def execLdBndS (d base : SReg) (bound : BitVec 4) (t : SReg) (s : State) : Out := .next (s.loadBound d base bound t true)

/-- R165: ld.bnd.f never waits for rounds. -/
def execLdBndF (d base : SReg) (bound : BitVec 4) (t : SReg) (s : State) : Out := .next (s.loadBound d base bound t false)

end Sys2Proof.Machine
end

