-- ==== Sys2Proof/Machine/Transc.lean ====
section
/-! DEFINITION. The functions of R130, correctly rounded: each is enclosed between two fixed-point numbers, and the precision
doubles until both ends encode alike. R131's special inputs come first. -/

namespace Sys2Proof.Machine

/-- An enclosure: lo / 2^p and hi / 2^p. -/
structure Enc where
  lo : Int
  hi : Int
deriving DecidableEq, Repr

/-- floor and ceiling of a / b for a positive b. -/
def floorDiv (a : Int) (b : Nat) : Int := a / (b : Int)
def ceilDiv (a : Int) (b : Nat) : Int := -((-a) / (b : Int))

/-- The terms of e^y for 0 ≤ y < 1 in fixed point, added while they are not 0: the sum rounded down, and the last count. -/
def expTerms (p : Nat) (y : Nat) : Nat → Nat → Nat → Nat → Nat × Nat
  | 0, i, _, acc => (acc, i)
  | fuel + 1, i, t, acc =>
    let t' := t * y / 2 ^ p / (i + 1)
    if t' = 0 then (acc, i + 1) else expTerms p y fuel (i + 1) t' (acc + t')

/-- Squared j times, the low end down and the high end up. -/
def squareEnc (p : Nat) : Nat → Nat × Nat → Nat × Nat
  | 0, e => e
  | j + 1, e => squareEnc p j (e.1 * e.1 / 2 ^ p, (e.2 * e.2 + 2 ^ p - 1) / 2 ^ p)

/-- e^(n/d) for n/d ≥ 0, enclosed at precision p: e^(x / 2^j), then j squarings. -/
def expPos (p n d : Nat) : Nat × Nat :=
  let j := (n / d).log2 + 2
  let y := n * 2 ^ p / (d * 2 ^ j)
  let t := expTerms p y (p + 8) 0 (2 ^ p) (2 ^ p)
  let u := expTerms p (y + 1) (p + 8) 0 (2 ^ p) (2 ^ p)
  squareEnc p j (t.1, u.1 + 4 * u.2 + 8)

/-- e^x of a signed quotient. -/
def expEnc (p : Nat) (neg : Bool) (n d : Nat) : Enc :=
  let e := expPos p n d
  if neg then { lo := ((2 ^ (2 * p)) / e.2 : Nat), hi := ((2 ^ (2 * p)) / e.1 + 1 : Nat) }
  else { lo := (e.1 : Nat), hi := (e.2 : Nat) }

/-- The terms z^(2i+1)/(2i+1) of atanh (`alt` false) or atan (`alt` true) of z / 2^p, with the sum and the count. -/
def atanTerms (p : Nat) (z2 : Nat) (alt : Bool) : Nat → Nat → Nat → Int → Int × Nat
  | 0, i, _, acc => (acc, i)
  | fuel + 1, i, t, acc =>
    let a : Int := (t / (2 * i + 1) : Nat)
    let acc := if alt && i % 2 == 1 then acc - a else acc + a
    let t' := t * z2 / 2 ^ p
    if t' = 0 then (acc, i + 1) else atanTerms p z2 alt fuel (i + 1) t' acc

/-- atanh or atan of a / b, with 0 ≤ a / b ≤ 1/3, within (4 i + 8) units of the last place. -/
def atanEnc (p a b : Nat) (alt : Bool) : Enc :=
  let z := a * 2 ^ p / b
  let t := atanTerms p (z * z / 2 ^ p) alt (p + 8) 0 z 0
  { lo := t.1 - (4 * t.2 + 8), hi := t.1 + (4 * t.2 + 8) }

/-- ln 2 = 2 atanh (1/3). -/
def ln2Enc (p : Nat) : Enc :=
  let e := atanEnc p 1 3 false
  { lo := 2 * e.lo, hi := 2 * e.hi }

/-- ln (n/d): n/d = f * 2^k with 1 ≤ f < 2, and ln f = 2 atanh ((f - 1) / (f + 1)). -/
def lnEnc (p n d : Nat) : Enc :=
  let k := floorLog2 n d
  let fd : Nat × Nat := if 0 ≤ k then (n, d * 2 ^ k.toNat) else (n * 2 ^ (-k).toNat, d)
  let e := atanEnc p (fd.1 - fd.2) (fd.1 + fd.2) false
  let l := ln2Enc p
  if 0 ≤ k then { lo := 2 * e.lo + k * l.lo, hi := 2 * e.hi + k * l.hi }
  else { lo := 2 * e.lo + k * l.hi, hi := 2 * e.hi + k * l.lo }

/-- pi by Machin: 16 atan (1/5) - 4 atan (1/239). -/
def piEnc (p : Nat) : Enc :=
  let a := atanEnc p 1 5 true
  let b := atanEnc p 1 239 true
  { lo := 16 * a.lo - 4 * b.hi, hi := 16 * a.hi - 4 * b.lo }

/-- The terms of sin (from `t` = r, `i` = 1) or cos (from `t` = 1, `i` = 0) for |r| < 1, alternating. -/
def trigTerms (p : Nat) (r2 : Nat) : Nat → Nat → Nat → Bool → Int → Int × Nat
  | 0, i, _, _, acc => (acc, i)
  | fuel + 1, i, t, minus, acc =>
    let acc := if minus then acc - (t : Int) else acc + (t : Int)
    let t' := t * r2 / 2 ^ p / ((i + 1) * (i + 2))
    if t' = 0 then (acc, i + 2) else trigTerms p r2 fuel (i + 2) t' (!minus) acc

/-- sin (r / 2^p) for |r| < 2^p. -/
def sinPoint (p : Nat) (r : Int) : Enc :=
  let m := r.natAbs
  let t := trigTerms p (m * m / 2 ^ p) (p + 8) 1 m false 0
  let e : Int := 8 * t.2 + 8
  if 0 ≤ r then { lo := t.1 - e, hi := t.1 + e } else { lo := -t.1 - e, hi := -t.1 + e }

/-- cos (r / 2^p) for |r| < 2^p. -/
def cosPoint (p : Nat) (r : Int) : Enc :=
  let m := r.natAbs
  let t := trigTerms p (m * m / 2 ^ p) (p + 8) 0 (2 ^ p) false 0
  let e : Int := 8 * t.2 + 8
  { lo := t.1 - e, hi := t.1 + e }

/-- sin of an enclosed r with |r| < 1: sin grows there. -/
def sinOf (p : Nat) (r : Enc) : Enc := { lo := (sinPoint p r.lo).lo, hi := (sinPoint p r.hi).hi }

/-- cos of an enclosed r with |r| < 1: cos falls with |r|. -/
def cosOf (p : Nat) (r : Enc) : Enc :=
  let a := cosPoint p r.lo
  let b := cosPoint p r.hi
  let lo := if a.lo ≤ b.lo then a.lo else b.lo
  let hi := if a.hi ≤ b.hi then b.hi else a.hi
  if r.lo ≤ 0 ∧ 0 ≤ r.hi then { lo := lo, hi := 2 ^ p } else { lo := lo, hi := hi }

/-- sin or cos of n/d ≥ 0 at precision p: x = q * pi/2 + r, with |r| at most about pi/4, and pi to enough further bits. -/
def trigEnc (p : Nat) (cosine : Bool) (n d : Nat) : Enc :=
  let g := p + (n / d).log2 + 16
  let pi := piEnc g
  let x : Nat := n * 2 ^ g / d
  let q : Nat := (2 * x * 2 + pi.lo.toNat) / (2 * pi.lo.toNat)
  let r : Enc := { lo := floorDiv (2 * (x : Int) - (q : Int) * pi.hi) 2, hi := ceilDiv (2 * ((x : Int) + 1) - (q : Int) * pi.lo) 2 }
  let sh : Nat := 2 ^ (g - p)
  let r' : Enc := { lo := floorDiv r.lo sh, hi := ceilDiv r.hi sh }
  let m := (if cosine then q + 1 else q) % 4
  let e := if m % 2 = 1 then cosOf p r' else sinOf p r'
  if 2 ≤ m then { lo := -e.hi, hi := -e.lo } else e

/-- A fixed-point end as a value. -/
def fixVal (p : Nat) (z : Int) : Val := .fin (decide (z < 0)) z.natAbs (2 ^ p)

/-- The bits of the integer square root, from the highest. -/
def sqrtBits : Nat → Nat → Nat → Nat
  | 0, _, r => r
  | i + 1, n, r =>
    let c := r + 2 ^ i
    sqrtBits i n (if c * c ≤ n then c else r)

/-- The integer square root. -/
def natSqrt (n : Nat) : Nat := sqrtBits (n.log2 / 2 + 1) n 0

/-- Round an enclosed value once: the precision doubles from 128 bits while the two ends encode differently. An enclosure
that 4,096 bits still leave open takes the free choice `Config.roundingTie` (log 30). -/
def roundEnclosed (enc : Val → Word × Sticky) (f : Nat → Enc) : Nat → Nat → Word × Sticky
  | 0, p => let e := f p; if Config.roundingTie p then enc (fixVal p e.hi) else enc (fixVal p e.lo)
  | fuel + 1, p =>
    let e := f p
    let a := enc (fixVal p e.lo)
    let b := enc (fixVal p e.hi)
    if a = b then a else roundEnclosed enc f fuel (2 * p)

/-- The functions of major 0x41. -/
inductive Func where
  | exp | log | rcp | rsqrt | tanh | sigm | sin | cos
deriving DecidableEq, Repr

/-- Arguments beyond this magnitude put e^x beyond every format, so one value stands for all of them. -/
def bigArg : Nat := 2048

/-- e^x clamped to magnitude `bigArg`. -/
def expClamped (p : Nat) (neg : Bool) (n d : Nat) : Enc :=
  if bigArg * d < n then expEnc p neg bigArg 1 else expEnc p neg n d

/-- The enclosure of a function at n/d ≠ 0 with its sign, for the functions that need one. -/
def funcEnc (fn : Func) (neg : Bool) (n d : Nat) (p : Nat) : Enc :=
  match fn with
  | .exp => expClamped p neg n d
  | .log => lnEnc p n d
  | .tanh =>
    let e := expClamped p false (2 * n) d
    let num (z : Int) : Int := z - 2 ^ p
    let den (z : Int) : Nat := z.toNat + 2 ^ p
    let r : Enc := { lo := floorDiv (num e.lo * 2 ^ p) (den e.lo), hi := ceilDiv (num e.hi * 2 ^ p) (den e.hi) }
    let r : Enc := { r with hi := if (2 : Int) ^ p ≤ r.hi then 2 ^ p else r.hi }
    if neg then { lo := -r.hi, hi := -r.lo } else r
  | .sigm =>
    let e := expClamped p (!neg) n d
    { lo := (2 ^ (2 * p) / (2 ^ p + e.hi.toNat) : Nat), hi := (2 ^ (2 * p) / (2 ^ p + e.lo.toNat) + 1 : Nat) }
  | .sin =>
    let e := trigEnc p false n d
    if neg then { lo := -e.hi, hi := -e.lo } else e
  | .cos => trigEnc p true n d
  | .rcp | .rsqrt => { lo := 0, hi := 0 }

/-- A transcendental at an exact input (R130, R131): special inputs, then the one rounding. `enc` encodes into the result
format under the instruction's rounding. -/
def transc (fn : Func) (enc : Val → Word × Sticky) (x : Val) : Word × Sticky :=
  let exact (v : Val) (fl : Sticky) : Word × Sticky := let e := enc v; (e.1, e.2 ||| fl)
  match fn, x with
  | _, .nan => enc .nan
  | .exp, .inf s => if s then exact (.fin false 0 1) 0 else exact (.inf false) 0
  | .log, .inf s => if s then exact .nan flagNV else exact (.inf false) 0
  | .rcp, .inf s => exact (.fin s 0 1) 0
  | .rsqrt, .inf s => if s then exact .nan flagNV else exact (.fin false 0 1) 0
  | .tanh, .inf s => exact (.fin s 1 1) 0
  | .sigm, .inf s => if s then exact (.fin false 0 1) 0 else exact (.fin false 1 1) 0
  | .sin, .inf _ => exact .nan flagNV
  | .cos, .inf _ => exact .nan flagNV
  | fn, .fin s n d =>
    if n = 0 then
      match fn with
      | .exp | .cos => exact (.fin false 1 1) 0
      | .log => exact (.inf true) flagOF
      | .rcp | .rsqrt => exact (.inf s) flagOF
      | .tanh | .sin => exact (.fin s 0 1) 0
      | .sigm => exact (.fin false 1 2) 0
    else
      match fn with
      | .rcp => enc (.fin s d n)
      | .log => if s then exact .nan flagNV else if n = d then exact (.fin false 0 1) 0
        else roundEnclosed enc (funcEnc .log s n d) 5 128
      | .rsqrt =>
        if s then exact .nan flagNV
        else
          let r := natSqrt (n * d)
          if r * r = n * d then enc (.fin false r n)
          else roundEnclosed (fun v => enc (match v with | .fin t a b => .fin t a (b * n) | v => v))
            (fun p => let q := natSqrt (n * d * 4 ^ p); { lo := (q : Nat), hi := (q + 1 : Nat) }) 5 128
      | fn => roundEnclosed enc (funcEnc fn s n d) 5 128

end Sys2Proof.Machine
end

