-- ==== Sys2Proof/Machine/Vector.lean ====
section
/-! DEFINITION. How a vector instruction runs (R123 to R126): the gate of its trap checks, its active positions, its schedule,
the write of its register, and the blend lookup with its actions (R43, R44, R56, R57). -/

namespace Sys2Proof.Machine

/-- Every trap of a vector instruction sets sys.cause.VEC (R147). -/
def vecStop : Stop → Stop
  | .trap t => .trap { t with vec := true }
  | x => x

/-- The gate of a vector instruction: its registers are declared (R19), `pre` is its operand check (R125, priority 4), and it
has a lane cluster (R17). -/
def State.vecGate (s : State) (i : Instr) (pre : Bool) (f : State → State) : State :=
  s.onStrand (fun s =>
    if !vregsOk s.strand i || !pre then s.stop (vecStop (illegal s i))
    else if s.strand.grant = 0 then s.stop (vecStop leaseAbsent)
    else f s)

/-- Element i is active (R71, R148). -/
def State.active (s : State) (i : Nat) : Bool :=
  decide (s.strand.sys.vstart.toNat ≤ i) && decide (i < s.strand.vl) && s.guardAt i

/-- Some position is active. -/
def State.anyActive (s : State) : Bool := (List.range s.strand.vl).any s.active

/-- The first active position that satisfies a test. -/
def State.firstActive (s : State) (f : Nat → Bool) : Option Nat :=
  (List.range s.strand.vl).find? (fun i => s.active i && f i)

/-- The beat count of R126 for slots of width `w` and the positions below `k`, where the instruction ends. -/
def Strand.beatsTo (x : Strand) (k w : Nat) : Nat := Nat.max 1 ((k * w + x.live * 256 - 1) / (x.live * 256))

/-- The beat count of a whole instruction. -/
def Strand.beats (x : Strand) (w : Nat) : Nat := x.beatsTo x.vl w

def clsFree (l : List (Cls × Nat)) (c : Cls) : Nat := match l.find? (fun p => p.1 == c) with
  | some p => p.2
  | none => 0

/-- Schedule (R126): the class is taken for `b` beats; the answer is the exposed latency.
DEDUCED (unsafe, log 20). -/
def State.occupy (s : State) (c : Cls) (base extra b : Nat) : State × Nat :=
  if !s.exposed then (s, 0) else
  let d := s.strand.sched
  let start := Nat.max d.clock (clsFree d.free c)
  ({ s with strand := { s.strand with sched := { d with free := (c, start + b) :: d.free.filter (fun p => p.1 != c) } } },
    start + base + extra + b - 1 - d.clock)

/-- The width condition of a format (R44): wider than a slot, or a 64-bit-slot format with more elements than it holds. -/
def Strand.tooWide (x : Strand) (f : Fmt) : Bool :=
  if Fmt.isWide f then decide (x.regBytes / 8 < x.vl) else decide (x.wmax < Fmt.width x.wmax f)

def widthTrap : Stop := trapOf 0x07 0
def formatTrap : Stop := trapOf 0x09 0
def undefinedTrap : Stop := trapOf 0x0A 0
def poisonTrap : Stop := trapOf 0x0B 0

/-- A check that raises a trap. -/
def need (ok : Bool) (x : Stop) : Except Stop Unit := if ok then .ok () else .error x

/-- A lookup's outcome (R56): format and action; TRAP is an error. -/
def State.lookup (s : State) (a b : Fmt) : Except Stop (Fmt × Act) :=
  let r := blend (s.core (coreOf s.strandId)) s.strand.bank a b
  if r.2 = .trap then .error formatTrap else .ok r

/-- A value rounded to a format under a scale, with its flags. -/
def roundTo (f : Fmt) (sc u : Byte) (rm : Rounding) (sat : Bool) (v : Val) : Val × Sticky :=
  let e := encodeEl f sc u rm sat v
  (decodeEl f sc u e.1, e.2)

/-- The micro-scale of a block over the values of its active elements; none where one is a NaN or an infinity (R51). -/
def activeMicro (s : State) (f : Fmt) (sc : Byte) (val : Nat → Val) (b : Nat) : Option Byte :=
  let vs := (List.range 32).filterMap (fun j => if s.active (32 * b + j) then some (val (32 * b + j)) else none)
  (blockMax ((sc.toNat : Int) - 127) vs).map (fun p => microScaleOf f p.1 p.2)

/-- CONV (R57): a value rounded to a format under RM with the element's index; a microscaled format is formed block by block
over the active elements. -/
def State.convValue (s : State) (f : Fmt) (sc : Byte) (val : Nat → Val) (i : Nat) : Val × Sticky :=
  if Fmt.isMicro f then
    match activeMicro s f sc val (i / 32) with
    | some u => roundTo f sc u (s.strand.rounding i) true (val i)
    | none => (.nan, match val i with
      | .inf _ => flagOF
      | _ => 0)
  else roundTo f sc 127 (s.strand.rounding i) false (val i)

/-- The scale of a CONV rounding of an operand (R57). -/
def convScale (f : Fmt) (sc : Byte) : Byte := if Fmt.isFolding f then 127 else sc

/-- What a vector instruction computes: the format, scale and saturation of its result, whether it sets FS, whether an operand
is UNDEF, which positions carry a poison mark that it reads, what it puts at a position, how it rounds there, and which masked-off
positions MZ = 1 makes zero (R123; none in the forms whose entry keeps them). -/
structure VecOp where
  fmt : Fmt
  scale : Byte
  sat : Bool
  fs : Bool
  undef : Bool
  marked : Nat → Bool
  el : Nat → Elem
  rm : Nat → Rounding
  zero : Nat → Bool := fun _ => true

/-- The register after a vector instruction that runs the positions below `k`, and its flags (R47, R123, R124). -/
def State.vecResult (s : State) (d : VIdx) (o : VecOp) (k : Nat) : VReg × Sticky :=
  let x := s.strand
  let old := x.v[d.toNat]
  let el (i : Nat) : Elem :=
    if decide (x.sys.vstart.toNat ≤ i) && decide (i < k) then
      (if s.guardAt i then o.el i else if x.mz && o.zero i then .bits 0 else .keep)
    else .keep
  let r := writeReg x.wmax (x.positions old.fmt) (x.positions o.fmt) k old (if o.undef then clsUndef else clsValid)
    o.fmt o.scale o.sat o.rm el
  (r.1, if o.fs && (List.range k).any s.active then r.2 ||| flagFS else r.2)

/-- The end of a vector instruction: a poison stop at `k` leaves sys.vstart there and traps, otherwise sys.vstart is 0. -/
def State.vecEnd (s : State) (stop : Option Nat) : State :=
  match stop with
  | some k => { s with strand := s.strand.setVstart k }.stop (vecStop poisonTrap)
  | none => { s with strand := s.strand.setVstart 0 }.retire

/-- A result of a vector instruction: it lands at its offset, or at once where a stop ends the instruction, for the elements below the
stop are complete when the trap is taken (R123, R149). -/
def State.putUpTo (s : State) (stop : Option Nat) (latency : Nat) (d : VIdx) (r : VReg) (fl : Sticky) : State :=
  match stop with
  | none => s.putV latency d r fl
  | some _ => s.landV d r fl

/-- An instruction that issues with sys.vstart at or above VL changes nothing (R123, R148); its class is taken all the same (R126). -/
def State.vecSkip (s : State) (c : Cls) (base extra b : Nat) : State := (s.occupy c base extra b).1.vecEnd none

/-- RunVector (R123): the checks of `prep` in their order, then the elements. -/
def State.runVec (s : State) (i : Instr) (d : VIdx) (c : Cls) (base : Nat) (fixed : Bool) (wide : Bool)
    (prep : State → Except Stop VecOp) : State :=
  s.vecGate i true (fun s =>
    match prep s with
    | .error x => s.stop (vecStop x)
    | .ok o =>
      let w := if wide || Fmt.isWide o.fmt then 64 else s.strand.wmax
      if s.strand.vl ≤ s.strand.sys.vstart.toNat then s.vecSkip c base 0 (if fixed then 1 else s.strand.beats w)
      else
        let stop := s.firstActive o.marked
        let k := stop.getD s.strand.vl
        let q := s.occupy c base 0 (if fixed then 1 else s.strand.beatsTo k w)
        let r := s.vecResult d o k
        (q.1.putUpTo stop q.2 d r.1 r.2).vecEnd stop)

/-- A vector register of the strand. -/
def State.vreg (s : State) (r : VIdx) : VReg := s.strand.v[r.toNat]

/-- The exact value of an operand element. -/
def State.vval (s : State) (r : VIdx) (i : Nat) : Val := (s.vreg r).val i

/-- The flags of reading an operand element (R39). -/
def State.vflags (s : State) (r : VIdx) (i : Nat) : Sticky := readFlags (s.vreg r).fmt ((s.vreg r).slot i)

/-- An operand in a 64-bit-slot format. -/
def State.wideReg (s : State) (r : VIdx) : Bool := Fmt.isWide (s.vreg r).fmt

end Sys2Proof.Machine
end

