-- ==== Sys2Proof/Machine/VectorArith.lean ====
section
/-! DEFINITION. Vector arithmetic (R120, R121, R127 to R142): configuration, add to divide, transcendentals, compare, select,
bitwise operations, shifts, conversions, tags and broadcasts. -/

namespace Sys2Proof.Machine

/-! ### Configuration -/

/-- The registers after `vcfg` with a new shape (R120). The predicates count as written (R282). -/
def Strand.clearShape (x : Strand) : Strand :=
  { x with
    v := Vector.replicate 64 VReg.reset, p := Vector.replicate 16 0, pWritten := 0xFFFE
    leaseZero := x.leaseZero.map (fun z => { z with v := Vector.replicate 64 VReg.reset, p := Vector.replicate 16 0 }) }

/-- R120: vcfg waits for the strand's older vector results, which is a stall. -/
def execVcfg (d : SReg) (nreg wmax : BitVec 2) (mz : BitVec 1) (s : State) : Out :=
  .next (s.onStrand (fun s =>
    if vectorPending s.strand then s.stop (.wait .older) else
    let x := s.strand
    let same := decide (field x.sys.vcfg 0 2 = nreg.toNat ∧ field x.sys.vcfg 2 2 = wmax.toNat)
    let x := if same then x else x.clearShape
    let n := vlmaxOf (8 * 2 ^ nreg.toNat) (8 * 2 ^ wmax.toNat) x.live
    let w := BitVec.ofNat 64 (nreg.toNat + 4 * wmax.toNat + 16 * mz.toNat + 2 ^ 32 * n)
    let s := { s with strand := (x.setVcfg w).setVstart 0 }
    (s.putS 1 d (BitVec.ofNat 64 n) 0).retire))

/-- R121: setvl runs the strip boundary and sets VL; it waits for a pending grant. -/
def execSetvl (d a : SReg) (s : State) : Out :=
  .next (s.onStrand (fun s =>
    let k := (s.rdS a).toInt
    if olderPending s then s.stop (.wait .older) else
    let r := stripBoundary s
    if r.2 then waitForGrant r.1
    else
      let t := r.1
      let vl := if k ≤ 0 then 0 else Nat.min k.toNat t.strand.vlmax
      let t := { t with strand := (t.strand.setVl vl).setVstart 0 }
      (t.putS 1 d (BitVec.ofNat 64 vl) 0).retire))

/-! ### Arithmetic (R127 to R129) -/

/-- The scale classes of R43. -/
inductive ScaleClass where
  | additive | product | quotient
deriving DecidableEq, Repr

/-- What an operation puts whose NaN results set no flag (R128, R131): the canonical NaN, +0 in a format without one, where R51 would
set NV for the conversion of a NaN. -/
def quietNan (f : Fmt) (v : Val) (fl : Sticky) : Elem :=
  if v.isNan && Fmt.isFloat f && !Fmt.isMicro f then .coded (canonicalNan f) fl else .val v fl

def ScaleClass.scale (c : ScaleClass) (f : Fmt) (a b : Byte) : Byte :=
  finishScale f (match c with
    | .additive => scaleMax (scaleTerm a) (scaleTerm b)
    | .product => scaleProduct a b
    | .quotient => scaleQuotient a b)

/-- The checks and the formats of a two-operand instruction: width, lookup, width of the result, a result of RAW. -/
def State.prepPair (s : State) (a b : VIdx) : Except Stop (Fmt × Act) := do
  need (!s.strand.tooWide (s.vreg a).fmt && !s.strand.tooWide (s.vreg b).fmt) widthTrap
  let r ← s.lookup (s.vreg a).fmt (s.vreg b).fmt
  need (!s.strand.tooWide r.1) widthTrap
  .ok r

/-- The exact result of R127 where an operand's code is reserved: NV stands among the flags `fl` of its reads (R39), a float result is the
canonical NaN (R128), and an integer one takes the operand as 0 (R39).
DEDUCED (unsafe, log 73). -/
def reservedNan (f : Fmt) (fl : Sticky) (v : Val) : Val := if Fmt.isFloat f && fl != 0 then .nan else v

/-- A two-operand instruction (R127): `op` gives the exact result and its flags; `quiet` says that a NaN result sets no flag (R128). -/
def prepBinary (a b : VIdx) (c : ScaleClass) (op : Fmt → Val → Val → Val × Sticky) (truncate quiet : Bool) (s : State) :
    Except Stop VecOp := do
  let r ← s.prepPair a b
  need (r.1 != .raw) formatTrap
  let ra := s.vreg a
  let rb := s.vreg b
  let first (i : Nat) : Val × Sticky :=
    if r.2 = .conv then s.convValue r.1 (convScale r.1 (tagScale ra.tag)) ra.val i else (ra.val i, 0)
  .ok { fmt := r.1, scale := c.scale r.1 (tagScale ra.tag) (tagScale rb.tag), sat := r.2 == .sat, fs := r.2 == .sat
        undef := ra.isUndef || rb.isUndef, marked := fun i => ra.marked i || rb.marked i
        el := fun i =>
          let x := first i
          let y := op r.1 x.1 (rb.val i)
          let fl := s.vflags a i ||| s.vflags b i
          (if quiet then quietNan r.1 else Elem.val) (reservedNan r.1 fl y.1) (y.2 ||| x.2 ||| fl)
        rm := fun i => if truncate && Fmt.isInt r.1 then .zero else s.strand.rounding i }

/-- A one-operand instruction of major 0x40 (R127): the result format is that of the operand, the scale unary. An infinity of E5M2 is
encoded under R50, which saturates it with OF, where R128 says that only the sign changes.
DESIGN CHOICE (unsafe, log 73). -/
def prepUnary (a : VIdx) (op : Val → Val) (s : State) : Except Stop VecOp := do
  let ra := s.vreg a
  need (!s.strand.tooWide ra.fmt) widthTrap
  need (ra.fmt != .raw) formatTrap
  .ok { fmt := ra.fmt, scale := finishScale ra.fmt (scaleTerm (tagScale ra.tag)), sat := false, fs := false
        undef := ra.isUndef, marked := ra.marked, el := fun i => quietNan ra.fmt (op (ra.val i)) (s.vflags a i)
        rm := s.strand.rounding }

/-- Rounding toward minus infinity, which gives an exact zero sum its sign (R38). -/
def State.roundsDown (s : State) : Bool := s.strand.rm == 3

/-- Division (R128, R129). -/
def divOp (f : Fmt) (x y : Val) : Val × Sticky :=
  if x.isNan || y.isNan then (.nan, 0)
  else if y.isZero then
    (if x.isZero then (if Fmt.isInt f then (.fin false 0 1, flagNV) else (.nan, flagNV))
    else if Fmt.isInt f then (.fin x.sign (2 ^ 512) 1, flagOF)
    else (.inf (x.sign != y.sign), if x.isInf then 0 else flagOF))
  else if x.isInf && y.isInf then (.nan, flagNV)
  else (x.div y, 0)

/-- The product of a fused form with the CONV of its lookups (R56, R57), and its flags. Where the combined action is SAT, neither lookup
rounds an operand or the product: the entries combine to one action, and SAT is as USE but for saturation.
DEDUCED (unsafe, log 16). -/
def fusedProduct (s : State) (a b : VIdx) (first : Fmt × Act) (second : Act) (act : Act) (i : Nat) : Val × Sticky :=
  let ra := s.vreg a
  let rb := s.vreg b
  let x (j : Nat) : Val × Sticky :=
    if act = .conv ∧ first.2 = .conv then s.convValue first.1 (convScale first.1 (tagScale ra.tag)) ra.val j else (ra.val j, 0)
  let prod (j : Nat) : Val := (x j).1.mul (rb.val j)
  let fl := (x i).2 ||| productFlags (x i).1 (rb.val i) ||| s.vflags a i ||| s.vflags b i
  if act = .conv ∧ second = .conv then
    let sc := convScale first.1 (match scaleProduct (tagScale ra.tag) (tagScale rb.tag) with
      | some z => if z < 0 then 0 else if 254 < z then 254 else BitVec.ofNat 8 z.toNat
      | none => 0xFF)
    let r := s.convValue first.1 sc prod i
    (r.1, r.2 ||| fl)
  else (prod i, fl)

/-- The fused forms (R127): two lookups, the old destination as third operand, whose masked-off positions are kept whatever MZ holds. -/
def prepFused (d a b : VIdx) (negate : Bool) (s : State) : Except Stop VecOp := do
  need (!s.strand.tooWide (s.vreg a).fmt && !s.strand.tooWide (s.vreg b).fmt && !s.strand.tooWide (s.vreg d).fmt) widthTrap
  let r1 ← s.lookup (s.vreg a).fmt (s.vreg b).fmt
  let r2 ← s.lookup r1.1 (s.vreg d).fmt
  need (!s.strand.tooWide r2.1) widthTrap
  need (r2.1 != .raw) formatTrap
  let act := r1.2.join r2.2
  let ra := s.vreg a
  let rb := s.vreg b
  let rd := s.vreg d
  let f := r2.1
  .ok { fmt := f
        scale := finishScale f (scaleMax (scaleProduct (tagScale ra.tag) (tagScale rb.tag)) (scaleTerm (tagScale rd.tag)))
        sat := act == .sat, fs := act == .sat, undef := ra.isUndef || rb.isUndef || rd.isUndef
        marked := fun i => ra.marked i || rb.marked i || rd.marked i
        el := fun i =>
          let p := fusedProduct s a b r1 r2.2 act i
          let q := if negate then p.1.neg else p.1
          let fl := s.vflags a i ||| s.vflags b i ||| s.vflags d i
          .val (reservedNan f fl (q.add s.roundsDown (rd.val i))) (p.2 ||| sumFlags q (rd.val i) ||| s.vflags d i)
        rm := s.strand.rounding, zero := fun _ => false }

/-- R127: a + b. -/
def execVadd (d a b : VIdx) (s : State) : Out :=
  .next (s.runVec (.vadd d a b) d .add 4 false (s.wideReg a || s.wideReg b) (prepBinary a b .additive (addOp s.roundsDown) false false))

/-- R127: a - b. -/
def execVsub (d a b : VIdx) (s : State) : Out :=
  .next (s.runVec (.vsub d a b) d .add 4 false (s.wideReg a || s.wideReg b) (prepBinary a b .additive (subOp s.roundsDown) false false))

/-- R127: a times b. -/
def execVmul (d a b : VIdx) (s : State) : Out :=
  .next (s.runVec (.vmul d a b) d .mul 4 false (s.wideReg a || s.wideReg b) (prepBinary a b .product mulOp false false))

/-- R127: the smaller. -/
def execVmin (d a b : VIdx) (s : State) : Out :=
  .next (s.runVec (.vmin d a b) d .add 2 false (s.wideReg a || s.wideReg b) (prepBinary a b .additive minOp false true))

/-- R127: the larger. -/
def execVmax (d a b : VIdx) (s : State) : Out :=
  .next (s.runVec (.vmax d a b) d .add 2 false (s.wideReg a || s.wideReg b) (prepBinary a b .additive maxOp false true))

/-- R127, R129: a / b. -/
def execVdiv (d a b : VIdx) (s : State) : Out :=
  .next (s.runVec (.vdiv d a b) d .xf 16 false (s.wideReg a || s.wideReg b) (prepBinary a b .quotient divOp true false))

/-- R127: a times b + d. -/
def execVfma (d a b : VIdx) (s : State) : Out :=
  .next (s.runVec (.vfma d a b) d .mul 5 false (s.wideReg a || s.wideReg b || s.wideReg d) (prepFused d a b false))

/-- R127: d - a times b. -/
def execVfms (d a b : VIdx) (s : State) : Out :=
  .next (s.runVec (.vfms d a b) d .mul 5 false (s.wideReg a || s.wideReg b || s.wideReg d) (prepFused d a b true))

/-- R127, R128: magnitude. -/
def execVabs (d a : VIdx) (s : State) : Out :=
  .next (s.runVec (.vabs d a) d .add 2 false (s.wideReg a) (prepUnary a Val.abs))

/-- R127, R128: changed sign. -/
def execVneg (d a : VIdx) (s : State) : Out :=
  .next (s.runVec (.vneg d a) d .add 2 false (s.wideReg a) (prepUnary a Val.neg))

/-! ### Transcendentals (R130, R131) -/

/-- The result format of R130. -/
def transcFormat : Fmt → Option Fmt
  | .mxe4m3 | .mxe2m3 | .mxe2m1 => some .bf16
  | .a48 => some .fp32
  | f => if Fmt.isFloat f then some f else none

/-- The shape of every transcendental: the function at the decoded value, rounded once, under SCALE 127. -/
def prepTransc (fn : Func) (a : VIdx) (s : State) : Except Stop VecOp :=
  let ra := s.vreg a
  match transcFormat ra.fmt with
  | none => do
    need (!s.strand.tooWide ra.fmt) widthTrap
    .error formatTrap
  | some f => do
    need (!s.strand.tooWide ra.fmt && !s.strand.tooWide f) widthTrap
    .ok { fmt := f, scale := 127, sat := false, fs := false, undef := ra.isUndef, marked := ra.marked
          el := fun i =>
            if (ra.val i).isNan then .coded (canonicalNan f) 0 else
            let r := transc fn (encodeEl f 127 127 (s.strand.rounding i) false) (ra.val i)
            .coded r.1 r.2
          rm := s.strand.rounding }

/-- R130: vexp. -/
def execVexp (d a : VIdx) (s : State) : Out :=
  .next (s.runVec (.vexp d a) d .xf 12 false (s.wideReg a) (prepTransc .exp a))

/-- R130: vlog. -/
def execVlog (d a : VIdx) (s : State) : Out :=
  .next (s.runVec (.vlog d a) d .xf 12 false (s.wideReg a) (prepTransc .log a))

/-- R130: vrcp. -/
def execVrcp (d a : VIdx) (s : State) : Out :=
  .next (s.runVec (.vrcp d a) d .xf 12 false (s.wideReg a) (prepTransc .rcp a))

/-- R130: vrsqrt. -/
def execVrsqrt (d a : VIdx) (s : State) : Out :=
  .next (s.runVec (.vrsqrt d a) d .xf 12 false (s.wideReg a) (prepTransc .rsqrt a))

/-- R130: vtanh. -/
def execVtanh (d a : VIdx) (s : State) : Out :=
  .next (s.runVec (.vtanh d a) d .xf 12 false (s.wideReg a) (prepTransc .tanh a))

/-- R130: vsigm. -/
def execVsigm (d a : VIdx) (s : State) : Out :=
  .next (s.runVec (.vsigm d a) d .xf 12 false (s.wideReg a) (prepTransc .sigm a))

/-- R130: vsin. -/
def execVsin (d a : VIdx) (s : State) : Out :=
  .next (s.runVec (.vsin d a) d .xf 12 false (s.wideReg a) (prepTransc .sin a))

/-- R130: vcos. -/
def execVcos (d a : VIdx) (s : State) : Out :=
  .next (s.runVec (.vcos d a) d .xf 12 false (s.wideReg a) (prepTransc .cos a))

/-! ### Compare and select (R132, R133) -/

/-- The predicate that a compare writes: active positions below `k` take the bit, masked-off ones follow MZ. -/
def State.cmpResult (s : State) (d : PReg) (k : Nat) (bitAt : Nat → Bool) : PosBits :=
  let old := if d = 0 then 0 else s.strand.p[d.toNat]
  let v := s.strand.sys.vstart.toNat
  (List.range k).foldl (fun p i =>
    if i < v then p
    else
      let b := if s.guardAt i then bitAt i else if s.strand.mz then false else p.getLsbD i
      if b then p ||| BitVec.twoPow 131072 i else p &&& ~~~(BitVec.twoPow 131072 i)) old

/-- The shape of every vector compare (R132): `rel` decides on the exact values, `ordered` says that a NaN sets NV. -/
def State.compare (s : State) (i : Instr) (d : PReg) (a b : VIdx) (ordered : Bool) (rel : Val → Val → Bool) : State :=
  s.vecGate i true (fun s =>
    let ra := s.vreg a
    let rb := s.vreg b
    let raw := ra.fmt == .raw && rb.fmt == .raw
    let check : Except Stop Unit := do
      need (!s.strand.tooWide ra.fmt && !s.strand.tooWide rb.fmt) widthTrap
      let _ ← s.lookup ra.fmt rb.fmt
      need (!((ra.isUndef || rb.isUndef) && s.anyActive)) undefinedTrap
    match check with
    | .error x => s.stop (vecStop x)
    | .ok _ =>
      let w := if s.wideReg a || s.wideReg b then 64 else s.strand.wmax
      if s.strand.vl ≤ s.strand.sys.vstart.toNat then s.vecSkip .add 3 0 (s.strand.beats w)
      else
        let stop := s.firstActive (fun i => ra.marked i || rb.marked i)
        let k := stop.getD s.strand.vl
        let va (i : Nat) : Val := if raw then .fin false (ra.slot i).toNat 1 else ra.val i
        let vb (i : Nat) : Val := if raw then .fin false (rb.slot i).toNat 1 else rb.val i
        let fl := (List.range k).foldl (fun (f : Sticky) i =>
          if s.active i then f ||| s.vflags a i ||| s.vflags b i |||
            (if ordered && ((va i).isNan || (vb i).isNan) then flagNV else 0)
          else f) 0
        let q := s.occupy .add 3 0 (s.strand.beatsTo k w)
        let p := s.cmpResult d k (fun i => rel (va i) (vb i))
        (match stop with
          | none => q.1.putP q.2 d p fl true
          | some _ => q.1.landP d p fl).vecEnd stop)

/-- R132: a = b. -/
def execVcmpEq (d : PReg) (a b : VIdx) (s : State) : Out := .next (s.compare (.vcmpEq d a b) d a b false Val.eq)

/-- R132: a differs from b. -/
def execVcmpNe (d : PReg) (a b : VIdx) (s : State) : Out := .next (s.compare (.vcmpNe d a b) d a b false (fun x y => !Val.eq x y))

/-- R132: a < b. -/
def execVcmpLt (d : PReg) (a b : VIdx) (s : State) : Out := .next (s.compare (.vcmpLt d a b) d a b true Val.lt)

/-- R132: a at most b. -/
def execVcmpLe (d : PReg) (a b : VIdx) (s : State) : Out := .next (s.compare (.vcmpLe d a b) d a b true (fun x y => Val.lt x y || Val.eq x y))

/-- R132: a > b. -/
def execVcmpGt (d : PReg) (a b : VIdx) (s : State) : Out := .next (s.compare (.vcmpGt d a b) d a b true (fun x y => Val.lt y x))

/-- R132: a at least b. -/
def execVcmpGe (d : PReg) (a b : VIdx) (s : State) : Out := .next (s.compare (.vcmpGe d a b) d a b true (fun x y => Val.lt y x || Val.eq x y))

/-- The selection of R133. -/
def prepSel (a b : VIdx) (c : PReg) (s : State) : Except Stop VecOp := do
  let r ← s.prepPair a b
  need (r.1 != .raw || ((s.vreg a).fmt == .raw && (s.vreg b).fmt == .raw)) formatTrap
  let ra := s.vreg a
  let rb := s.vreg b
  let pick (i : Nat) : VReg := if (s.rdP c).getLsbD i then ra else rb
  .ok { fmt := r.1, scale := if r.1 = .raw then 127 else ScaleClass.scale .additive r.1 (tagScale ra.tag) (tagScale rb.tag)
        sat := r.2 == .sat, fs := r.2 == .sat, undef := ra.isUndef || rb.isUndef, marked := fun i => (pick i).marked i
        el := fun i =>
          let first := (s.rdP c).getLsbD i
          if r.1 = .raw then .bits ((pick i).slot i)
          else
            let x : Val × Sticky := if first && r.2 == .conv then
                s.convValue r.1 (convScale r.1 (tagScale ra.tag)) ra.val i
              else ((pick i).val i, 0)
            .val x.1 (x.2 ||| (if first then s.vflags a i else s.vflags b i))
        rm := s.strand.rounding }

/-- R133: vsel. -/
def execVsel (d a b : VIdx) (c : PReg) (s : State) : Out :=
  .next (s.runVec (.vsel d a b c) d .add 2 false (s.wideReg a || s.wideReg b) (prepSel a b c))

/-! ### Bitwise operations and shifts (R134, R135) -/

/-- RAW or an integer format from INT32 to TRN2 (R134). -/
def bitwiseFormat (f : Fmt) : Bool := f == .raw || (Fmt.isInt f && !Fmt.isWide f)

/-- The shape of every bitwise operation: bits of equal formats, the tag of `v_a`. -/
def prepBits (a b : VIdx) (op : Word → Word → Word) (s : State) : Except Stop VecOp := do
  let ra := s.vreg a
  let rb := s.vreg b
  need (!s.strand.tooWide ra.fmt && !s.strand.tooWide rb.fmt) widthTrap
  need (ra.fmt == rb.fmt && bitwiseFormat ra.fmt && (ra.fmt == .raw || tagScale ra.tag == tagScale rb.tag)) formatTrap
  .ok { fmt := ra.fmt, scale := if ra.fmt = .raw then 127 else tagScale ra.tag, sat := false, fs := false
        undef := ra.isUndef || rb.isUndef, marked := fun i => ra.marked i || rb.marked i
        el := fun i => .bits (op (ra.slot i) (rb.slot i)), rm := s.strand.rounding }

/-- A shift of the low `w` bits by an amount (R135). -/
inductive ShiftOp where
  | sll | srl | sra
deriving DecidableEq, Repr

def ShiftOp.apply (op : ShiftOp) (w : Nat) (x : Word) (n : Nat) : Word :=
  let u := x.toNat % 2 ^ w
  match op with
  | .sll => if w ≤ n then 0 else BitVec.ofNat 64 (u * 2 ^ n % 2 ^ w)
  | .srl => if w ≤ n then 0 else BitVec.ofNat 64 (u / 2 ^ n)
  | .sra =>
    let neg := decide (2 ^ (w - 1) ≤ u)
    let fill := if neg then 2 ^ w - 1 else 0
    if w ≤ n then BitVec.ofNat 64 fill else BitVec.ofNat 64 (u / 2 ^ n + (fill - fill / 2 ^ n))

/-- The shape of every vector shift (R135). -/
def prepShift (a b : VIdx) (op : ShiftOp) (s : State) : Except Stop VecOp := do
  let ra := s.vreg a
  let rb := s.vreg b
  need (!s.strand.tooWide ra.fmt && !s.strand.tooWide rb.fmt) widthTrap
  need (bitwiseFormat ra.fmt && (rb.fmt == .raw || Fmt.isInt rb.fmt)) formatTrap
  let wa := Fmt.width s.strand.wmax ra.fmt
  let wb := Fmt.width s.strand.wmax rb.fmt
  .ok { fmt := ra.fmt, scale := if ra.fmt = .raw then 127 else tagScale ra.tag, sat := false, fs := false
        undef := ra.isUndef || rb.isUndef, marked := fun i => ra.marked i || rb.marked i
        el := fun i => .bits (op.apply wa (ra.slot i) ((rb.slot i).toNat % 2 ^ wb)), rm := s.strand.rounding }

/-- R134: vand. -/
def execVand (d a b : VIdx) (s : State) : Out :=
  .next (s.runVec (.vand d a b) d .add 1 false false (prepBits a b (fun x y => x &&& y)))

/-- R134: vor. -/
def execVor (d a b : VIdx) (s : State) : Out :=
  .next (s.runVec (.vor d a b) d .add 1 false false (prepBits a b (fun x y => x ||| y)))

/-- R134: vxor. -/
def execVxor (d a b : VIdx) (s : State) : Out :=
  .next (s.runVec (.vxor d a b) d .add 1 false false (prepBits a b (fun x y => x ^^^ y)))

/-- R134: vandn. -/
def execVandn (d a b : VIdx) (s : State) : Out :=
  .next (s.runVec (.vandn d a b) d .add 1 false false (prepBits a b (fun x y => x &&& ~~~y)))

/-- R134: vnot. -/
def execVnot (d a : VIdx) (s : State) : Out :=
  .next (s.runVec (.vnot d a) d .add 1 false false (prepBits a a (fun x _ => ~~~x)))

/-- R135: vsll. -/
def execVsll (d a b : VIdx) (s : State) : Out :=
  .next (s.runVec (.vsll d a b) d .add 1 false (s.wideReg b) (prepShift a b .sll))

/-- R135: vsrl. -/
def execVsrl (d a b : VIdx) (s : State) : Out :=
  .next (s.runVec (.vsrl d a b) d .add 1 false (s.wideReg b) (prepShift a b .srl))

/-- R135: vsra. -/
def execVsra (d a b : VIdx) (s : State) : Out :=
  .next (s.runVec (.vsra d a b) d .add 1 false (s.wideReg b) (prepShift a b .sra))

/-! ### Conversion, scale and tag (R136 to R141) -/

/-- A conversion to an explicit format (R137, R138) under a scale. -/
def prepConvert (a : VIdx) (f : Fmt) (sat : Bool) (scale : State → Byte) (s : State) : Except Stop VecOp := do
  let ra := s.vreg a
  need (!s.strand.tooWide ra.fmt && !s.strand.tooWide f) widthTrap
  need (ra.fmt != .raw && f != .raw) formatTrap
  .ok { fmt := f, scale := scale s, sat := sat, fs := false, undef := ra.isUndef, marked := ra.marked
        el := fun i => .val (ra.val i) (s.vflags a i), rm := s.strand.rounding }

/-- The unary result scale (R43). -/
def unaryScale (a : VIdx) (f : Fmt) (s : State) : Byte := finishScale f (scaleTerm (tagScale (s.vreg a).tag))

/-- FitScale (R138) over the active elements. -/
def fitScale (a : VIdx) (f : Fmt) (s : State) : Byte :=
  fitScaleOf f ((List.range s.strand.vl).filterMap (fun i => if s.active i then some (s.vval a i) else none))

/-- R137: vcvt. -/
def execVcvt (d a : VIdx) (fmt : Fmt) (s : State) : Out :=
  .next (s.runVec (.vcvt d a fmt) d .cv 3 false (s.wideReg a) (prepConvert a fmt false (unaryScale a fmt)))

/-- R137: vcvt.sat. -/
def execVcvtSat (d a : VIdx) (fmt : Fmt) (s : State) : Out :=
  .next (s.runVec (.vcvtSat d a fmt) d .cv 3 false (s.wideReg a) (prepConvert a fmt true (unaryScale a fmt)))

/-- R138: vcvt.fit. -/
def execVcvtFit (d a : VIdx) (fmt : Fmt) (s : State) : Out :=
  .next (s.runVec (.vcvtFit d a fmt) d .cv 5 false (s.wideReg a) (prepConvert a fmt true (fitScale a fmt)))

/-- The register's bits under another tag (R139, R141), whose SCALE is 127 for RAW (R33): micro-scales of 127 where the format changes to a
microscaled one, none elsewhere. Marks stay as they are, and the class is the tag's. -/
def VReg.retag (r : VReg) (n : Nat) (t : Tag) : VReg :=
  { r with
    tag := mkTag (tagVcls t) (if tagFormat t = .raw then 127 else tagScale t) (tagFmt t)
    micro := if Fmt.isMicro (tagFormat t) ∧ tagFmt t = tagFmt r.tag then r.micro else [], entry := none, hw := n }

/-- The register under the tag that `vtag` writes (R141): POISON over a register without marks marks every position of it, and while a
mark exists the class reads POISON. -/
def VReg.settag (r : VReg) (n : Nat) (t : Tag) : VReg :=
  let marks : PosBits := if tagVcls t = clsPoison ∧ r.marks = 0 then BitVec.allOnes 131072 >>> (131072 - n) else r.marks
  { r.retag n (if marks = 0 then t else mkTag clsPoison (tagScale t) (tagFmt t)) with marks := marks }

/-- The end of an instruction that runs over no positions: sys.vstart is 0 all the same (R123).
DEDUCED (unsafe, log 16). -/
def State.tagDone (s : State) : State := s.vecEnd none

/-- The shape of the instructions that copy every position under a new tag: no element is read. -/
def State.copyAll (s : State) (d : VIdx) (r : VReg) (base : Nat) (fixed : Bool) : State :=
  let q := s.occupy .cv base 0 (if fixed then 1 else s.strand.beats (if Fmt.isWide r.fmt then 64 else s.strand.wmax))
  (q.1.putV q.2 d r 0).tagDone

/-- R139: vretag; a new tag that would be malformed is format-forbidden, as its own entry says.
DEDUCED (unsafe, log 15). -/
def execVretag (d a : VIdx) (fmt : Fmt) (s : State) : Out :=
  .next (s.vecGate (.vretag d a fmt) true (fun s =>
    let ra := s.vreg a
    let t := mkTag (tagVcls ra.tag) (tagScale ra.tag) (Fmt.code fmt)
    if s.strand.tooWide ra.fmt || s.strand.tooWide fmt then s.stop (vecStop widthTrap)
    else if Fmt.isWide ra.fmt != Fmt.isWide fmt || malformedReg t then s.stop (vecStop formatTrap)
    else s.copyAll d (ra.retag (s.strand.positions fmt) t) 1 true))

/-- The exponent of `vscale`, cut to where every larger one has the same effect. -/
def scaleExponent (k : Int) : Int := if k < -8192 then -8192 else if 8192 < k then 8192 else k

/-- The re-encode path of `vscale` (R140). -/
def prepScale (a : VIdx) (k : Int) (s : State) : Except Stop VecOp :=
  let ra := s.vreg a
  let z := (tagScale ra.tag).toNat + k
  let sc : Byte := if Fmt.isFolding ra.fmt then 127 else if z < 0 then 0 else if 254 < z then 254 else BitVec.ofNat 8 z.toNat
  .ok { fmt := ra.fmt, scale := sc, sat := false, fs := false, undef := ra.isUndef, marked := ra.marked
        el := fun i => .val ((ra.val i).scale (scaleExponent k)) (s.vflags a i), rm := s.strand.rounding }

/-- R140: vscale takes the tag path where the scale can hold the exponent, otherwise it re-encodes; its entry names no width trap. -/
def execVscale (d a : VIdx) (b : SReg) (s : State) : Out :=
  .next (
    let ra := s.vreg a
    let k := (s.rdS b).toInt
    let z := (tagScale ra.tag).toNat + k
    let out := leftOut (tagScale ra.tag)
    if out || (!Fmt.isFolding ra.fmt && decide (0 ≤ z) && decide (z ≤ 254)) then
      s.vecGate (.vscale d a b) true (fun s =>
        if ra.fmt = .raw then s.stop (vecStop formatTrap)
        else
          let t := mkTag (tagVcls ra.tag) (if out then 0xFF else BitVec.ofNat 8 z.toNat) (tagFmt ra.tag)
          s.copyAll d (ra.retag (s.strand.positions ra.fmt) t) 3 false)
    else s.runVec (.vscale d a b) d .cv 3 false (s.wideReg a) (fun s =>
      if ra.fmt = .raw then .error formatTrap else prepScale a k s))

/-- R141: vtag; the width trap ranks above the change between slot widths (R125).
DEDUCED (unsafe, log 15). -/
def execVtag (d : VIdx) (a : SReg) (s : State) : Out :=
  .next (
    let x := s.rdS a
    let t : Tag := x.setWidth 16
    s.vecGate (.vtag d a) (field x 16 48 == 0 && !malformedReg t) (fun s =>
      let old := s.vreg d
      if s.strand.tooWide old.fmt || s.strand.tooWide (tagFormat t) then s.stop (vecStop widthTrap)
      else if Fmt.isWide old.fmt != Fmt.isWide (tagFormat t) then s.stop (vecStop formatTrap)
      else s.copyAll d (old.settag (s.strand.positions (tagFormat t)) t) 1 true))

/-- R141: vtag.rd; it names its register all the same for the width trap (R44). -/
def execVtagRd (d : SReg) (a : VIdx) (s : State) : Out :=
  .next (s.vecGate (.vtagRd d a) true (fun s =>
    if s.strand.tooWide (s.vreg a).fmt then s.stop (vecStop widthTrap)
    else
      let q := s.occupy .cv 1 0 1
      (q.1.putS q.2 d ((s.vreg a).tag.setWidth 64) 0 true).tagDone))

/-! ### Broadcast (R142) -/

/-- A broadcast of one value in a format under SCALE 127. -/
def prepBroadcast (f : Fmt) (v : Val) (s : State) : Except Stop VecOp := do
  need (!s.strand.tooWide f) widthTrap
  need (f != .raw) formatTrap
  .ok { fmt := f, scale := 127, sat := false, fs := false, undef := false, marked := fun _ => false
        el := fun _ => .val v 0, rm := s.strand.rounding }

/-- R142: vbcast.f32. -/
def execVbcastF32 (d : VIdx) (a : SReg) (fmt : Fmt) (s : State) : Out :=
  .next (s.runVec (.vbcastF32 d a fmt) d .cv 2 false false (fun s =>
    prepBroadcast fmt (decodeEl .fp32 127 127 (s.rdS a)) s))

/-- R142: vbcast.i64. -/
def execVbcastI64 (d : VIdx) (a : SReg) (fmt : Fmt) (s : State) : Out :=
  .next (s.runVec (.vbcastI64 d a fmt) d .cv 2 false false (fun s => prepBroadcast fmt (Val.ofInt (s.rdS a).toInt) s))

/-- A block of 32 positions below `k` that holds an active one. -/
def State.activeBlock (s : State) (k b : Nat) : Bool :=
  (List.range 32).any (fun j => decide (32 * b + j < k) && s.active (32 * b + j))

/-- The micro-scales of blocks that an element broadcast fixes (R142): every block with an active position takes `u`. -/
def State.fixedMicro (s : State) (d : VIdx) (o : VecOp) (u : Byte) (k : Nat) : VReg × Sticky :=
  let r := s.vecResult d o k
  if !Fmt.isMicro o.fmt then r else
  let n := s.strand.positions o.fmt
  let old := s.vreg d
  let hit (b : Nat) : Bool := s.activeBlock k b
  let kept (i : Nat) : Word :=
    if old.isUndef || u == 0xFF || decide (s.strand.positions old.fmt ≤ i) then 0
    else if old.fmt = .raw then cutBits (Fmt.width 8 o.fmt) (old.slot i)
    else (encodeEl o.fmt o.scale u .nearest true (old.val i)).1
  let v := s.strand.sys.vstart.toNat
  let slot (i : Nat) : Word :=
    if hit (i / 32) then
      (if s.active i && decide (i < k) then (match o.el i with
        | .bits b => b
        | .coded b _ => b
        | _ => 0)
      else if s.strand.mz && decide (v ≤ i) && decide (i < k) then 0 else kept i)
    else r.1.slot i
  let span := Nat.min n (Nat.max (32 * ((k + 31) / 32)) r.1.slots.length)
  ({ r.1 with
      slots := trimSlots ((List.range span).map slot)
      micro := trimMicro ((List.range ((n + 31) / 32)).map (fun b => if hit b then u else r.1.micro.getD b 127)) }, r.2)

/-- The shape of the broadcasts that put bits: `u` is the micro-scale of every block with an active position. -/
def State.broadcastBits (s : State) (d : VIdx) (o : VecOp) (u : Byte) : State :=
  let w := if Fmt.isWide o.fmt then 64 else s.strand.wmax
  if s.strand.vl ≤ s.strand.sys.vstart.toNat then s.vecSkip .cv 2 0 (s.strand.beats w)
  else
    let q := s.occupy .cv 2 0 (s.strand.beats w)
    let r := s.fixedMicro d o u s.strand.vl
    (q.1.putV q.2 d r.1 r.2).vecEnd none

/-- R142: vbcast.raw puts the low bits, under micro-scale 127. -/
def execVbcastRaw (d : VIdx) (a : SReg) (fmt : Fmt) (s : State) : Out :=
  .next (s.vecGate (.vbcastRaw d a fmt) true (fun s =>
    if s.strand.tooWide fmt then s.stop (vecStop widthTrap)
    else
      let b := cutBits (Fmt.width s.strand.wmax fmt) (s.rdS a)
      s.broadcastBits d { fmt := fmt, scale := 127, sat := false, fs := false, undef := false, marked := fun _ => false
                          el := fun _ => .bits b, rm := s.strand.rounding } 127))

/-- R142: vbcast.el broadcasts element s_b with the tag of `v_a`; a poison mark on it traps before any position is written, and leaves
sys.vstart as it is, since no position has been reached (R123 sets it at a position).
DEDUCED (unsafe, log 16). -/
def execVbcastEl (d a : VIdx) (b : SReg) (s : State) : Out :=
  .next (
    let n := (s.rdS b).toNat
    s.vecGate (.vbcastEl d a b) (!(s.anyActive && decide (s.strand.vl ≤ n))) (fun s =>
      let ra := s.vreg a
      if s.strand.tooWide ra.fmt then s.stop (vecStop widthTrap)
      else if s.anyActive && ra.marked n then s.stop (vecStop poisonTrap)
      else
        let e := cutBits (Fmt.width s.strand.wmax ra.fmt) (ra.slot n)
        let fl : Sticky := if s.anyActive then readFlags ra.fmt e else 0
        let o : VecOp :=
          { fmt := ra.fmt, scale := tagScale ra.tag, sat := false, fs := false, undef := ra.isUndef
            marked := fun _ => false, el := fun _ => .coded e fl, rm := s.strand.rounding
            zero := fun i => !Fmt.isMicro ra.fmt || s.activeBlock s.strand.vl (i / 32) }
        s.broadcastBits d o (ra.microAt n)))

end Sys2Proof.Machine
end

