-- ==== Sys2Proof/Machine/VectorMove.lean ====
section
/-! DEFINITION. Moving elements across the ring (R168 to R172): counts, permutations, rotations, slides, compress and expand. -/

namespace Sys2Proof.Machine

/-- A format whose elements can be an index (R154): INT, UINT, I48 or RAW. -/
def indexFormat (f : Fmt) : Bool := f == .raw || (Fmt.isInt f && f != .trn2)

/-- X(i) (R154): the index bits, signed for INT formats and I48, unsigned for UINT formats and RAW; SCALE is ignored. -/
def VReg.index (r : VReg) (wmax i : Nat) : Int :=
  let w := Fmt.width wmax r.fmt
  let u := (r.slot i).toNat % 2 ^ w
  let signed := match Fmt.range r.fmt with
    | some b => decide (b.1 < 0)
    | none => false
  if signed && decide (2 ^ (w - 1) ≤ u) then (u : Int) - (2 : Int) ^ w else (u : Int)

/-- The rotations that an exposed region counts: m - 1 for m leased clusters (R171). -/
def Strand.rotations (x : Strand) : Nat := x.grantCount - 1

/-- The checks on the source of a move (R168): width, no microscaled format. -/
def State.moveSource (s : State) (a : VIdx) : Except Stop Unit := do
  need (!s.strand.tooWide (s.vreg a).fmt) widthTrap
  need (!Fmt.isMicro (s.vreg a).fmt) formatTrap

/-- The bits that a position receives from position `j` of the source: zero outside 0 to VL - 1 (R168). -/
def State.moved (s : State) (a : VIdx) (j : Int) : Elem :=
  if 0 ≤ j ∧ j.toNat < s.strand.vl then .bits ((s.vreg a).slot j.toNat) else .bits 0

/-- A move (R168): `src` names the source position, none where the position is kept. -/
def prepMove (a : VIdx) (index : Option VIdx) (src : Nat → Option Int) (s : State) : Except Stop VecOp := do
  let wide := match index with
    | some b => s.strand.tooWide (s.vreg b).fmt
    | none => false
  need (!wide) widthTrap
  s.moveSource a
  match index with
  | some b => do
    need (indexFormat (s.vreg b).fmt) formatTrap
    need (!((s.vreg b).isUndef && s.anyActive)) undefinedTrap
  | none => .ok ()
  let ra := s.vreg a
  let marked (i : Nat) : Bool :=
    (match index with
      | some b => (s.vreg b).marked i
      | none => false)
    || match src i with
      | some j => decide (0 ≤ j ∧ j.toNat < s.strand.vl) && ra.marked j.toNat
      | none => false
  .ok { fmt := ra.fmt, scale := tagScale ra.tag, sat := false, fs := false, undef := ra.isUndef || index.any (fun b => (s.vreg b).isUndef)
        marked := marked
        el := fun i => match src i with
          | some j => s.moved a j
          | none => .keep
        rm := s.strand.rounding }

/-- A move runs in class PERM with base 3 and its rotations (R182). -/
def State.runMove (s : State) (i : Instr) (d : VIdx) (wide : Bool) (prep : State → Except Stop VecOp) : State :=
  s.vecGate i true (fun s =>
    match prep s with
    | .error x => s.stop (vecStop x)
    | .ok o =>
      let w := if wide || Fmt.isWide o.fmt then 64 else s.strand.wmax
      if s.strand.vl ≤ s.strand.sys.vstart.toNat then
        s.vecSkip .perm 3 (s.strand.rotations * s.strand.beats w) (s.strand.beats w)
      else
        let stop := s.firstActive o.marked
        let k := stop.getD s.strand.vl
        let b := s.strand.beatsTo k w
        let q := s.occupy .perm 3 (s.strand.rotations * b) b
        let r := s.vecResult d o k
        (q.1.putUpTo stop q.2 d r.1 r.2).vecEnd stop)

/-- The number of active positions below i whose predicate bit is 1 (R169). -/
def State.countBelow (s : State) (p : PosBits) (i : Nat) : Nat :=
  ((List.range i).filter (fun j => s.active j && p.getLsbD j)).length

/-- R169: viota counts in an integer format, saturating. -/
def prepIota (a : PReg) (fmt : BitVec 6) (s : State) : Except Stop VecOp :=
  match Fmt.ofCode fmt with
  | none => .error formatTrap
  | some f => do
    need (!s.strand.tooWide f) widthTrap
    need (Fmt.isPlainInt f || f == .i48) formatTrap
    let p := s.rdP a
    .ok { fmt := f, scale := 127, sat := false, fs := false, undef := false, marked := fun _ => false
          el := fun i => .bits (encodeEl f 127 127 .zero false (Val.ofInt (s.countBelow p i))).1, rm := s.strand.rounding }

/-- R169: viota. -/
def execViota (d : VIdx) (a : PReg) (fmt : BitVec 6) (s : State) : Out :=
  .next (s.runVec (.viota d a fmt) d .perm 3 false false (prepIota a fmt))

/-- R170: vperm. -/
def execVperm (d a b : VIdx) (s : State) : Out :=
  .next (s.runMove (.vperm d a b) d (s.wideReg b)
    (prepMove a (some b) (fun i => some ((s.vreg b).index s.strand.wmax i))))

/-- R170: vrot. -/
def execVrot (d a : VIdx) (b : SReg) (s : State) : Out :=
  .next (s.runMove (.vrot d a b) d false
    (prepMove a none (fun i => some (((i + (s.rdS b).toNat) % s.strand.vl : Nat) : Int))))

/-- R170: vslideup keeps the positions below s. -/
def execVslideup (d a : VIdx) (b : SReg) (s : State) : Out :=
  .next (s.runMove (.vslideup d a b) d false
    (prepMove a none (fun i => if (s.rdS b).toNat ≤ i then some ((i : Int) - (s.rdS b).toNat) else none)))

/-- R170: vslidedn. -/
def execVslidedn (d a : VIdx) (b : SReg) (s : State) : Out :=
  .next (s.runMove (.vslidedn d a b) d false (prepMove a none (fun i => some (((i + (s.rdS b).toNat) : Nat) : Int))))

/-- The shape of `vcompress` and `vexpand` (R172): every chosen source is checked for a mark first; `el` puts bits at a
position, and a position without any follows MZ. -/
def State.choosing (s : State) (i : Instr) (d a : VIdx) (b : PReg) (sources : List Nat → List Nat)
    (el : List Nat → Nat → Option Nat) : State :=
  s.vecGate i true (fun s =>
    match s.moveSource a with
    | .error x => s.stop (vecStop x)
    | .ok _ =>
      let x := s.strand
      let ra := s.vreg a
      let bt := x.beats (slotWidth x.wmax ra.fmt)
      if x.vl ≤ x.sys.vstart.toNat then s.vecSkip .perm 4 (x.rotations * bt) bt
      else
        let p := s.rdP b
        let chosen := (List.range x.vl).filter (fun i => s.active i && p.getLsbD i)
        if (sources chosen).any ra.marked then s.stop (vecStop poisonTrap)
        else
          let put (i : Nat) : Elem :=
            if i < x.sys.vstart.toNat ∨ x.vl ≤ i then .keep
            else match el chosen i with
              | some j => .bits (ra.slot j)
              | none => if x.mz then .bits 0 else .keep
          let old := s.vreg d
          let r := writeReg x.wmax (x.positions old.fmt) (x.positions ra.fmt) x.vl old
            (if ra.isUndef then clsUndef else clsValid) ra.fmt (tagScale ra.tag) false x.rounding put
          let q := s.occupy .perm 4 (x.rotations * bt) bt
          (q.1.putV q.2 d r.1 0).vecEnd none)

/-- R172: vcompress writes the chosen elements from sys.vstart upward. -/
def execVcompress (d a : VIdx) (b : PReg) (s : State) : Out :=
  .next (s.choosing (.vcompress d a b) d a b (fun c => c) (fun c i => (c.drop (i - s.strand.sys.vstart.toNat)).head?))

/-- R172: vexpand writes the elements of `v_a` from 0 upward to the chosen positions. -/
def execVexpand (d a : VIdx) (b : PReg) (s : State) : Out :=
  .next (s.choosing (.vexpand d a b) d a b (fun c => List.range c.length)
    (fun c i => if c.contains i then some (c.filter (fun j => decide (j < i))).length else none))

end Sys2Proof.Machine
end

