-- ==== Sys2Proof/Machine/VectorMem.lean ====
section
/-! DEFINITION. Vector memory: element addresses and checks (R148 to R150), loads (R48, R151, R153, R154), stores (R46, R152),
SC accesses (R157, R375), bounded loads (R165 to R167), scatter-add (R156) and vector atomics (R161). -/

namespace Sys2Proof.Machine

/-! ### Elements -/

/-- One element access: its position, its address, its page and its element of the sector. -/
structure Elt where
  i : Nat
  va : Word
  page : Page
  j : Nat

/-- The sector of an element. -/
def Elt.sec (e : Elt) : Nat := e.page.pa / 128

/-- What an instruction accesses (R149, R150): the address of element i under an element size in bytes, the base address, the
kind, the index register, the registers whose elements it stores, whether it may not run in a world at all (R157), and the class that it
takes, with its base and the register whose slots count its beats (R182). -/
structure VecAccess where
  addr : Nat → Nat → Word
  base : Word
  kind : Access
  index : Option VIdx
  data : List VIdx
  escapes : Bool
  llc : Bool := false
  takes : Option (Cls × Nat × VIdx) := none

/-- On whose behalf: the vector agent, through the page-sorting unit for the forms with an index register (R185, R329); an atomic of a wider
scope executes at the LLC (R323). -/
def VecAccess.ctx (a : VecAccess) (s : State) : Ctx := { s.vecCtx a.index.isSome with llc := a.llc }

/-- A sector that a write reads first; of a peer's sector nothing is read (R393). -/
def oldSector (s : State) (ctx : Ctx) (p : Page) (va : Word) : Except Stop Sector :=
  match physClass p.pa with
  | .window slot => match targetOf s p.pa slot with
    | .peer _ _ => .ok { bits := 0, tag := tagRaw }
    | _ => peekSector s ctx p va
  | _ => peekSector s ctx p va

/-- What the world faults of an instruction are found with: a state that is dropped, and the sectors of it that have been written. -/
abbrev Probe := State × List Nat

/-- The world faults of an element's write, found by a write that changes nothing. A store writes a sector once, so that a view
defers one entry per sector (R216); each element of a read-modify-write writes for itself. -/
def probeWrite (a : VecAccess) (s : State) (probe : Probe) (p : Page) (va : Word) (w : Nat) : Except Stop Probe :=
  if a.kind == .read || (a.kind == .write && probe.2.contains (p.pa / 128)) then .ok probe
  else do
    let t ← storeSector probe.1 (a.ctx s) p va (byteMask (va.toNat % 128) w) none .probe false
    .ok (t, (p.pa / 128) :: probe.2)

/-- Two pages have one grid (R150): a RAW page counts as one of the element width Wmax. -/
def sameGrid (wmax : Nat) (a b : Grid) : Bool := a.width wmax == b.width wmax

/-- The checks of element i in their order (R149): index mark, alignment, translation, grid-mismatch, world faults, mark of a stored
element, and for a read-modify-write the sector's poison.
DEDUCED (unsafe, log 17). -/
def checkElt (a : VecAccess) (g : Grid) (s : State) (probe : Probe) (i : Nat) : Except Stop (Elt × Probe) := do
  let w := g.width s.strand.wmax / 8
  need (!(match a.index with
    | some b => (s.vreg b).marked i
    | none => false)) poisonTrap
  let va := a.addr i w
  checkAlign va w
  let p ← translate s s.ctx a.kind va
  need (sameGrid s.strand.wmax p.grid g) (trapAt s.ctx a.kind 0x20 va p.pa)
  need (!(a.escapes && s.strand.depth != 0)) (trapAt s.ctx a.kind 0x30 va p.pa)
  let probe ← probeWrite a s probe p va w
  need (!a.data.any (fun d => (s.vreg d).marked i)) poisonTrap
  if a.kind == .rmw then do
    let x ← oldSector s s.ctx p va
    checkPoison s .rmw p va x.tag
  .ok ({ i := i, va := va, page := p, j := va.toNat % 128 / w }, probe)

/-- The elements below the first one that fails, and that one with what stops it. -/
def walkElts (check : Probe → Nat → Except Stop (Elt × Probe)) : Probe → List Nat → List Elt × Option (Nat × Stop)
  | _, [] => ([], none)
  | probe, i :: l => match check probe i with
    | .error x => ([], some (i, x))
    | .ok r =>
      let t := walkElts check r.2 l
      (r.1 :: t.1, t.2)

/-- The active positions, rising. -/
def State.actives (s : State) : List Nat := (List.range s.strand.vl).filter s.active

/-- A stop that leaves the instruction to run again as a whole. -/
def Stop.waits : Stop → Bool
  | .wait _ | .ask _ _ _ _ => true
  | _ => false

/-- The end of a vector memory instruction (R149): sys.vstart names the element that failed, or is 0. -/
def State.memEnd (s : State) (why : Option (Nat × Stop)) : State :=
  match why with
  | some (k, x) => { s with strand := s.strand.setVstart k }.stop (vecStop x)
  | none => { s with strand := s.strand.setVstart 0 }.retire

/-- What follows the element checks (R149): `formats` are those of the operand registers, `perform` makes the tag pass and
performs the elements below the one that failed. -/
def State.runElts (s : State) (formats : List VIdx) (els : List Elt) (why : Option (Nat × Stop))
    (perform : State → List Elt → Nat → Except Stop State) : State :=
  let wide := formats.any (fun r => s.strand.tooWide (s.vreg r).fmt)
  match why with
  | some (k, x) =>
    if x.waits then s.stop x
    else if wide then s.stop (vecStop widthTrap)
    else match perform s els k with
      | .error t => s.stop (vecStop t)
      | .ok t => t.memEnd why
  | none =>
    if wide then s.stop (vecStop widthTrap)
    else match perform s els s.strand.vl with
      | .error t => s.stop (vecStop t)
      | .ok t => t.memEnd none

/-- The checks on an index register (R149, priorities 7 and 8). -/
def State.checkIndex (s : State) (index : Option VIdx) : Except Stop Unit :=
  match index with
  | some b => do
    need (indexFormat (s.vreg b).fmt) formatTrap
    need (!((s.vreg b).isUndef && s.anyActive)) undefinedTrap
  | none => .ok ()

/-- A vector memory instruction with no position left to process (R148): its class is taken all the same (R126, R182). -/
def VecAccess.skip (a : VecAccess) (s : State) : State := match a.takes with
  | some (c, base, r) => (s.occupy c base 0 (s.strand.beats (slotWidth s.strand.wmax (s.vreg r).fmt))).1.memEnd none
  | none => s.memEnd none

/-- RunVectorMemory (R149). -/
def State.runMem (s : State) (i : Instr) (pre : Bool) (formats : List VIdx) (a : VecAccess)
    (perform : State → List Elt → Nat → Except Stop State) : State :=
  s.vecGate i pre (fun s =>
    match s.checkIndex a.index with
    | .error t => s.stop (vecStop t)
    | .ok _ =>
      if s.strand.vl ≤ s.strand.sys.vstart.toNat then
        (if formats.any (fun r => s.strand.tooWide (s.vreg r).fmt) then s.stop (vecStop widthTrap) else a.skip s)
      else match s.actives with
        | [] => s.runElts formats [] none perform
        | i :: l => match translate s s.ctx a.kind a.base with
          | .error t => s.runElts formats [] (some (i, t)) perform
          | .ok p =>
            let r := walkElts (checkElt a p.grid s) (s, []) (i :: l)
            s.runElts formats r.1 r.2 perform)

/-! ### The order in which elements perform (R155, R357) -/

/-- Two translations name one page: of one size, at one address. -/
def samePage (size : Nat) (va : Word) (size' : Nat) (va' : Word) : Bool := size == size' && va.toNat / size == va'.toNat / size'

/-- The rank of an element's page: the first element that lies in it. -/
def pageRank (els : List Elt) (e : Elt) : Nat := els.findIdx (fun f => samePage f.page.size f.va e.page.size e.va)

/-- The place of an element in page-sorted order: page, interleave unit, index. -/
def sortKey (s : State) (els : List Elt) (e : Elt) : Nat :=
  pageRank els e * 2 ^ 40 + unitOf s e.page.pa * 2 ^ 20 + e.i

/-- Insert by key. -/
def insertByKey (k : Nat) (e : Elt) : List (Nat × Elt) → List (Nat × Elt)
  | [] => [(k, e)]
  | (j, f) :: l => if k < j then (k, e) :: (j, f) :: l else (j, f) :: insertByKey k e l

/-- Page-sorted order. -/
def pageSorted (s : State) (els : List Elt) : List Elt :=
  (els.foldl (fun l e => insertByKey (sortKey s els e) e l) []).map (·.2)

/-- The order of an instruction's elements: page-sorted for the forms with an index register, otherwise by index. -/
def performOrder (s : State) (a : VecAccess) (els : List Elt) : List Elt :=
  if a.index.isSome then pageSorted s els else els

/-- The first element for each value of a key, in order. -/
def firstOf (key : Elt → Nat) (els : List Elt) : List Elt :=
  (els.foldl (fun (a : List Nat × List Elt) e => if a.1.contains (key e) then a else (key e :: a.1, e :: a.2)) ([], [])).2.reverse

/-- The first element of each sector, in order. -/
def firstOfSectors (els : List Elt) : List Elt := firstOf Elt.sec els

/-! ### Loads -/

/-- The requests of elements. -/
def requestsOf (els : List Elt) : List (Page × Word) := els.map (fun e => (e.page, e.va))

/-- A request of several sectors (R327): one miss and one fill of each line of which it misses a sector, in the order of the first element
that touches each. `els` are the first elements of the sectors that are missed. -/
def fillLines (s : State) (ctx : Ctx) (write : Bool) (els : List Elt) : State :=
  (firstOfLines (requestsOf els)).foldl (fun s q =>
    fillLine s ctx q.1 q.2 (lineMask (requestsOf els) (q.1.pa / 512)) write false) s

/-- The elements whose sectors the slice has to fill. -/
def missedOf (s : State) (ctx : Ctx) (els : List Elt) : List Elt :=
  els.filter (fun e => cacheable s e.page && !slotHeld s ctx.die ctx.view e.sec)

/-- The sectors that a load meets, with those among them that are fetched. -/
def gatherSectors (fetch : State → Elt → Except Stop (Sector × Bool)) (s : State) : List Elt → Except Stop (List (Elt × Sector × Bool))
  | [] => .ok []
  | e :: l => match fetch s e with
    | .error x => .error x
    | .ok r => match gatherSectors fetch s l with
      | .error x => .error x
      | .ok t => .ok ((e, r.1, r.2) :: t)

/-- How a load obtains a sector, and what the read of it leaves. -/
structure Fetch where
  get : State → Elt → Except Stop (Sector × Bool)
  note : State → State → Elt → State

/-- The sectors of a load, and the state once the slice has filled what it missed and the agent has read them. -/
def readSectors (fetch : Fetch) (ctx : Ctx) (s : State) (els : List Elt) : Except Stop (List (Nat × Sector) × State) :=
  match gatherSectors fetch.get s els with
  | .error x => .error x
  | .ok l =>
    let t := fillLines s ctx false (l.filterMap (fun r => if r.2.2 then some r.1 else none))
    .ok (l.map (fun r => (r.1.sec, r.2.1)), l.foldl (fun t r => fetch.note t s r.1) t)

/-- The fold of R48 over formats with the sector addresses where they appear: the result, or the address of the sector whose
step is TRAP. -/
def foldFormats (c : CoreSt) (bank : BitVec 2) (f : Fmt) : List (Fmt × Elt) → Except Elt Fmt
  | [] => .ok f
  | (g, e) :: l =>
    let r := blend c bank f g
    if r.2 = .trap then .error e else foldFormats c bank r.1 l

/-- The distinct formats in order of first appearance. -/
def distinctFormats : List Fmt → List (Fmt × Elt) → List (Fmt × Elt)
  | _, [] => []
  | seen, (f, e) :: l => if seen.contains f then distinctFormats seen l else (f, e) :: distinctFormats (f :: seen) l

/-- The largest SCALE of the tags met, 0xFF left out; none without one. -/
def largestScale (l : List Tag) : Option Int := l.foldl (fun m t => scaleMax m (scaleTerm (tagScale t))) none

/-- The tag pass of a load (R48, R65, R151): width over every format that is known, malformed tags, a TRAP step. Where every sector met has
SCALE 0xFF, so has a register of a non-folding float format.
DEDUCED (unsafe, log 15), DEDUCED (unsafe, log 17), DESIGN CHOICE (unsafe, log 73). -/
def loadTag (s : State) (kind : Access) (met : List (Elt × Sector)) : Except Stop (Fmt × Byte × Bool) :=
  let x := s.strand
  let bad := met.find? (fun m => malformedSector m.1.page.grid m.2.tag)
  let good := met.filter (fun m => !malformedSector m.1.page.grid m.2.tag)
  let fold : Except Elt Fmt := match distinctFormats [] (good.map (fun m => (tagFormat m.2.tag, m.1))) with
    | [] => .ok .raw
    | (f, _) :: l => foldFormats (s.core (coreOf s.strandId)) x.bank f l
  let known := good.any (fun m => x.tooWide (tagFormat m.2.tag))
  match bad, fold with
  | some m, _ => if known then .error widthTrap else .error (trapAt s.ctx kind 0x08 (sectorVa m.1.va) m.1.page.pa)
  | none, .error e => if known then .error widthTrap else .error (trapAt s.ctx kind 0x09 (sectorVa e.va) e.page.pa)
  | none, .ok f =>
    if known || x.tooWide f then .error widthTrap
    else .ok (f, if f = .raw then 127 else finishScale f (largestScale (good.map (fun m => m.2.tag))),
      good.any (fun m => tagVcls m.2.tag == clsUndef))

/-- What a load puts at a position (R48, R151); an element of an UNDEF sector of SCALE 0xFF is a NaN (R48) before it is zero bits (R34),
and of an element of a RAW sector that is wider than Wmax the low Wmax bits are kept.
DESIGN CHOICE (unsafe, log 73). -/
def loadedElem (wmax : Nat) (f : Fmt) (e : Elt) (x : Sector) : Elem :=
  let slot := e.page.grid.width wmax
  let undef := tagVcls x.tag == clsUndef
  if f = .raw then .bits (if undef then 0 else sectorElem slot x.bits (tagFormat x.tag) e.j)
  else if undef then .val (decodeEl (tagFormat x.tag) (tagScale x.tag) 127 0) 0
  else .val (sectorVal slot e.page.grid x e.j) (readFlags (tagFormat x.tag) (sectorElem slot x.bits (tagFormat x.tag) e.j))

/-- The register after a load (R47, R48, R151) of the elements met, up to position `k`, with the flags.
DEDUCED (unsafe, log 15). -/
def loadRegister (s : State) (d : VIdx) (k : Nat) (f : Fmt) (sc : Byte) (undef : Bool) (met : List (Elt × Sector)) :
    VReg × Sticky :=
  let x := s.strand
  let old := x.v[d.toNat]
  let el (i : Nat) : Elem :=
    if i < x.sys.vstart.toNat ∨ k ≤ i then .keep
    else if s.guardAt i then match met.find? (fun m => m.1.i == i) with
      | some m => loadedElem x.wmax f m.1 m.2
      | none => .keep
    else if x.mz then .bits 0 else .keep
  let r := writeReg x.wmax (x.positions old.fmt) (x.positions f) k old (if undef then clsUndef else clsValid) f sc false
    (fun _ => .nearest) el
  let marks := met.foldl (fun (m : PosBits) e =>
    if tagVcls e.2.tag = clsPoison then m ||| BitVec.twoPow 131072 e.1.i else m) 0
  if marks = 0 then r
  else ({ r.1 with marks := r.1.marks ||| marks, tag := mkTag clsPoison sc (Fmt.code f) }, r.2)

/-- The elements and the write of a load; what a load that stops has done is complete when it stops. -/
def performLoad (d : VIdx) (a : VecAccess) (base : Nat) (alone : Bool) (fetch : Fetch)
    (s : State) (els : List Elt) (k : Nat) : Except Stop State := do
  let firsts := firstOfSectors (performOrder s a els)
  let g ← readSectors fetch (a.ctx s) s firsts
  let met := els.filterMap (fun e => (lookupNat e.sec g.1).map (fun x => (e, x)))
  let old := s.vreg d
  let t ← if els.isEmpty then .ok (old.fmt, tagScale old.tag, old.isUndef)
    else match loadTag s a.kind met with
      | .error x => .error (x.after (requestsOf firsts) a.index.isSome)
      | .ok t => .ok t
  let r := loadRegister s d k t.1 t.2.1 t.2.2 met
  let q := if alone then (g.2, 1) else g.2.occupy .ld base 0 (s.strand.beatsTo k (slotWidth s.strand.wmax t.1))
  .ok (if k < s.strand.vl then q.1.landV d r.1 r.2 else q.1.putV q.2 d r.1 r.2)

/-- An ordinary sector read, and whether the slice has to fill it. -/
def plainFetch (ctx : Ctx) : Fetch :=
  { get := fun s e => (readSector s ctx e.page e.va false).map (fun x => (x, cacheable s e.page && !slotHeld s ctx.die ctx.view e.sec))
    note := fun t s e => t.hasRead s ctx e.page e.va }

/-- Element addresses of the unit-stride and the strided forms (R153) and of the indexed forms (R154). -/
def unitAddr (base : Word) (i w : Nat) : Word := base + BitVec.ofNat 64 (i * w)
def strideAddr (base stride : Word) (i _w : Nat) : Word := base + BitVec.ofNat 64 i * stride
def State.indexAddr (s : State) (base : Word) (b : VIdx) (i w : Nat) : Word :=
  base + BitVec.ofInt 64 ((s.vreg b).index s.strand.wmax i) * BitVec.ofNat 64 w

def loadAccess (addr : Nat → Nat → Word) (base : Word) (index : Option VIdx) (takes : Option (Cls × Nat × VIdx)) : VecAccess :=
  { addr := addr, base := base, kind := .read, index := index, data := [], escapes := false, takes := takes }

/-- R151, R153: vld. -/
def execVld (d : VIdx) (base : SReg) (off : BitVec 10) (s : State) : Out :=
  .next (
    let b := effAddr (s.rdS base) off 128
    let a := loadAccess (unitAddr b) b none (some (.ld, 24, d))
    s.runMem (.vld d base off) true [] a (performLoad d a 24 false (plainFetch (a.ctx s))))

/-- R153: vlds. -/
def execVlds (d : VIdx) (a b : SReg) (s : State) : Out :=
  .next (
    let x := loadAccess (strideAddr (s.rdS a) (s.rdS b)) (s.rdS a) none (some (.ld, 24, d))
    s.runMem (.vlds d a b) true [] x (performLoad d x 24 false (plainFetch (x.ctx s))))

/-- R154: vldx. -/
def execVldx (d : VIdx) (a : SReg) (b : VIdx) (s : State) : Out :=
  .next (
    let x := loadAccess (s.indexAddr (s.rdS a) b) (s.rdS a) (some b) (some (.ld, 32, d))
    s.runMem (.vldx d a b) true [b] x (performLoad d x 32 false (plainFetch (x.ctx s))))

/-! ### SC accesses (R157, R375) -/

/-- The Touchstone tickets that the strand's SC instruction holds. -/
def Strand.tickets (x : Strand) : Nat := match x.progress with
  | some (.tickets n) => n
  | _ => 0

/-- An SC instruction performs once it holds a ticket for each of its elements; then its tickets are spent (R375). What traps in the tag
pass takes none (R149), and what finds a sector BUSY waits with its tickets.
DEDUCED (unsafe, log 47). -/
def withTickets (perform : State → List Elt → Nat → Except Stop State) (s : State) (els : List Elt) (k : Nat) :
    Except Stop State :=
  match perform s els k with
  | .error (.trap t) => .error (.trap t)
  | r =>
    if s.strand.tickets < els.length then
      .error (.wait (.touchstone s.cycle.toNat ((els.drop s.strand.tickets).map (fun e => e.page.pa))))
    else r.map (fun t => { t with strand := { t.strand with progress := none } })

/-- R157: vld.sc. -/
def execVldSc (d : VIdx) (base : SReg) (off : BitVec 10) (s : State) : Out :=
  .next (
    let b := effAddr (s.rdS base) off 128
    let a := loadAccess (unitAddr b) b none none
    s.runMem (.vldSc d base off) true [] a (withTickets (performLoad d a 24 true (plainFetch (a.ctx s)))))

/-! ### Bounded loads (R165 to R167) -/

/-- A sector read of a bounded load for the round `need`, and whether the slice has to fetch it. -/
def boundedFetch (ctx : Ctx) (need : Word) (stall : Bool) : Fetch :=
  { get := fun s e => boundedSector s ctx e.page e.va need stall
    note := fun t s e => ((t.sawWrites ctx e.sec).learns ctx (servingKey s ctx e.page)).keep e.page.walked }

/-- The shape of the vector bounded loads: the round required is `s_t - k`. -/
def State.vloadBound (s : State) (i : Instr) (d : VIdx) (base : SReg) (k : BitVec 4) (t : SReg) (stall : Bool) : State :=
  let b := s.rdS base
  let a := loadAccess (unitAddr b) b none (some (.ld, 24, d))
  s.runMem i true [] a (performLoad d a 24 false (boundedFetch (s.vecCtx false) (s.rdS t - k.setWidth 64) stall))

/-- R165: vld.bnd.s. -/
def execVldBndS (d : VIdx) (base : SReg) (bound : BitVec 4) (t : SReg) (s : State) : Out :=
  .next (s.vloadBound (.vldBndS d base bound t) d base bound t true)

/-- R165: vld.bnd.f. -/
def execVldBndF (d : VIdx) (base : SReg) (bound : BitVec 4) (t : SReg) (s : State) : Out :=
  .next (s.vloadBound (.vldBndF d base bound t) d base bound t false)

/-! ### Stores (R46, R152) -/

/-- The stored format and scale (R46, R152); none for the format-forbidden trap. -/
def storedFormat (t : Tag) (grid : Grid) (dfmt : BitVec 6) (dpol : BitVec 2) : Option (Fmt × Byte) :=
  let f := tagFormat t
  let demoted := (Fmt.ofCode dfmt).getD .raw
  if grid = .raw ∨ f = .raw then some (.raw, 127)
  else if Fmt.fits f grid && dpol != 2 then some (f, tagScale t)
  else if dpol = 1 then none
  else some (demoted, if demoted = .raw then 127 else finishScale demoted (scaleTerm (tagScale t)))

/-- The storage bytes of the elements of a store, and its element mask. -/
def storedBytes (slot : Nat) (f : Fmt) (l : Stored) : BitVec 128 :=
  l.foldl (fun m p => m ||| elementBytes p.1 (Fmt.width slot f)) 0
def storedMask (l : Stored) : BitVec 128 := l.foldl (fun m p => m ||| BitVec.twoPow 128 p.1) 0

/-- The elements of a store that fall into one sector. -/
def storedIn (els : List Elt) (sec : Nat) : Stored := els.filterMap (fun e => if e.sec = sec then some (e.j, e.i) else none)

/-- A store writes every element of a sector (R152). -/
def storesAll (s : State) (l : Stored) (e : Elt) : Bool :=
  (List.range (sectorCount (e.page.grid.width s.strand.wmax) e.page.grid)).all (fun j => (storedAt l j).isSome)

/-- The tag pass of a store for one sector (R33, R65, R152): a sector that is written only in part may not be malformed, and the
policy may forbid the format. The stored format does not count for the width check (R65), the FMT of a sector that is written in part does.
DESIGN CHOICE (unsafe, log 73). -/
def storeTag (s : State) (r : VReg) (l : Stored) (e : Elt) : Except Stop (Fmt × Byte) := do
  let x ← oldSector s s.ctx e.page e.va
  need (storesAll s l e || malformedSector e.page.grid x.tag || !s.strand.tooWide (tagFormat x.tag)) widthTrap
  need (storesAll s l e || !malformedSector e.page.grid x.tag) (trapAt s.ctx .write 0x08 (sectorVa e.va) e.page.pa)
  match storedFormat r.tag e.page.grid e.page.dfmt e.page.dpol with
  | some f => .ok f
  | none => .error (trapAt s.ctx .write 0x09 (sectorVa e.va) e.page.pa)

/-- One sector of a store performs. -/
def performSector (ctx : Ctx) (r : VReg) (els : List Elt) (s : State) (fl : Sticky) (e : Elt) : Except Stop (State × Sticky) := do
  let l := storedIn els e.sec
  let slot := e.page.grid.width s.strand.wmax
  let t ← storeTag s r l e
  let x ← oldSector s s.ctx e.page e.va
  let full := storesAll s l e
  let upd : StoreOp := .vector r e.page.grid t.1 t.2 s.strand.wmax s.strand.roundState l
  let rewrite := full || tagFmt x.tag != Fmt.code t.1 || tagScale x.tag != t.2 || Fmt.isMicro t.1
  let s1 ← storeSector s ctx e.page e.va (if rewrite then BitVec.allOnes 128 else storedBytes slot t.1 l)
    (if full then none else some (storedMask l)) upd false
  .ok (s1, fl ||| (upd.run x).2)

/-- Sectors perform one after another. -/
def performSectors (ctx : Ctx) (r : VReg) (els : List Elt) : State → Sticky → List Elt → Except Stop (State × Sticky)
  | s, fl, [] => .ok (s, fl)
  | s, fl, e :: l => match performSector ctx r els s fl e with
    | .error x => .error x
    | .ok t => performSectors ctx r els t.1 t.2 l

/-- The tag pass of every sector of a store. -/
def storeTags (s : State) (r : VReg) (els : List Elt) : List Elt → Except Stop Unit
  | [] => .ok ()
  | e :: l => match storeTag s r (storedIn els e.sec) e with
    | .error x => .error x
    | .ok _ => storeTags s r els l

/-- The first error among the kinds of R65: width, then malformed tags, then forbidden formats. -/
def storeTagPass (s : State) (r : VReg) (els : List Elt) (firsts : List Elt) : Except Stop Unit :=
  let raising (code : BitVec 8) : Option Elt := firsts.find? (fun e => match storeTag s r (storedIn els e.sec) e with
    | .error (.trap t) => t.code == code
    | _ => false)
  match (raising 0x07).or (raising 0x08) with
  | some e => storeTags s r els [e]
  | none => storeTags s r els firsts

/-- The elements of a store.
DEDUCED (unsafe, log 17), DEDUCED (unsafe, log 49). -/
def performStore (d : VIdx) (a : VecAccess) (alone : Bool) (s : State) (els : List Elt) (k : Nat) : Except Stop State := do
  let r := s.vreg d
  storeTagPass s r els (firstOfSectors els)
  let firsts := firstOfSectors (performOrder s a els)
  let t ← performSectors (a.ctx s) r els (fillLines s (a.ctx s) true (missedOf s (a.ctx s) firsts)) 0 firsts
  let q := if alone then (t.1, 1) else t.1.occupy .st 0 0 (s.strand.beatsTo k (slotWidth s.strand.wmax r.fmt))
  .ok (q.1.put 1 [] t.2 true)

def storeAccess (addr : Nat → Nat → Word) (base : Word) (index : Option VIdx) (d : VIdx) (sc : Bool) : VecAccess :=
  { addr := addr, base := base, kind := .write, index := index, data := [d], escapes := sc, takes := if sc then none else some (.st, 0, d) }

/-- R152, R153: vst. -/
def execVst (d : VIdx) (base : SReg) (off : BitVec 10) (s : State) : Out :=
  .next (
    let b := effAddr (s.rdS base) off 128
    let a := storeAccess (unitAddr b) b none d false
    s.runMem (.vst d base off) true [d] a (performStore d a false))

/-- R153: vsts. -/
def execVsts (d : VIdx) (a b : SReg) (s : State) : Out :=
  .next (
    let x := storeAccess (strideAddr (s.rdS a) (s.rdS b)) (s.rdS a) none d false
    s.runMem (.vsts d a b) true [d] x (performStore d x false))

/-- R154: vstx. -/
def execVstx (d : VIdx) (a : SReg) (b : VIdx) (s : State) : Out :=
  .next (
    let x := storeAccess (s.indexAddr (s.rdS a) b) (s.rdS a) (some b) d false
    s.runMem (.vstx d a b) true [d, b] x (performStore d x false))

/-- R157: vst.sc. -/
def execVstSc (d : VIdx) (base : SReg) (off : BitVec 10) (s : State) : Out :=
  .next (
    let b := effAddr (s.rdS base) off 128
    let a := storeAccess (unitAddr b) b none d true
    s.runMem (.vstSc d base off) true [d] a (withTickets (performStore d a true)))

/-! ### Atomics on elements (R156, R161) -/

/-- A peer's sector: the device and the address there. -/
def peerOf (s : State) (p : Page) : Option (Nat × Nat) :=
  match physClass p.pa with
  | .window slot => if s.ctx.view = 0 then (match targetOf s p.pa slot with
    | .peer dev addr => some (dev, addr)
    | _ => none) else none
  | _ => none

/-- The operand block of an element atomic at a peer (R395). -/
def peerBlock (operand new : Nat) (x : Strand) (i : Nat) : Nat :=
  operand + 2 ^ 64 * new + 2 ^ 128 * x.rm.toNat + 2 ^ 160 * (stochBits x.sys.seed x.sys.stripbase i).toNat

/-- The header of an element atomic at a peer (R395): kind 01 or 10. -/
def peerAtomicHeader (e : Elt) (dev addr : Nat) (t : Tag) (op kind : Nat) (scope : Scope) : BitVec 256 :=
  cemenHeader 4 (2 ^ (addr / 128 % 4)) dev (addr / 512 * 512) (t.toNat * 2 ^ (16 * (addr / 128 % 4)))
    (op + 16 * kind + 64 * e.j + 8192 * (Scope.code scope).toNat)

/-- A read-modify-write of one element (R156, R161): the old bits, the state, and the flags. -/
def rmwElement (ctx : Ctx) (s : State) (e : Elt) (op : StoreOp) : Except Stop (Word × State × Sticky) := do
  let slot := e.page.grid.width s.strand.wmax
  let x ← peekSector s s.ctx e.page e.va
  let t ← storeSector s ctx e.page e.va (elementBytes e.j (Fmt.width slot (tagFormat x.tag))) (some (BitVec.twoPow 128 e.j)) op false
  .ok (elementBits slot x e.j, t.learns ctx (servingKey s ctx e.page), (op.run x).2)

/-- Read-modify-writes one after another; the answers keep the positions. -/
def rmwAll (f : State → Elt → Except Stop (Word × State × Sticky)) : State → Sticky → List Elt →
    Except Stop (List (Nat × Word) × State × Sticky)
  | s, fl, [] => .ok ([], s, fl)
  | s, fl, e :: l => match f s e with
    | .error x => .error x
    | .ok r => match rmwAll f r.2.1 (fl ||| r.2.2) l with
      | .error x => .error x
      | .ok t => .ok ((e.i, r.1) :: t.1, t.2)

/-- The first element that a check refuses stops the tag pass. -/
def eachElt (f : Elt → Except Stop Unit) : List Elt → Except Stop Unit
  | [] => .ok ()
  | e :: l => match f e with
    | .error x => .error x
    | .ok _ => eachElt f l

/-- The tag pass of an element read-modify-write (R65, R149), kind by kind; a peer makes its own (R395). -/
def rmwTagPass (s : State) (els : List Elt) (forbidden : Sector → Bool) (unfit : Elt → Sector → Bool) : Except Stop Unit := do
  let local_ := els.filter (fun e => (peerOf s e.page).isNone)
  eachElt (fun e => do
    let x ← oldSector s s.ctx e.page e.va
    need (malformedSector e.page.grid x.tag || !s.strand.tooWide (tagFormat x.tag)) widthTrap) local_
  eachElt (fun e => do
    let x ← oldSector s s.ctx e.page e.va
    checkTag s .rmw e.page e.va x.tag) local_
  eachElt (fun e => do
    let x ← oldSector s s.ctx e.page e.va
    need (!forbidden x) (trapAt s.ctx .rmw 0x09 (sectorVa e.va) e.page.pa)) local_
  eachElt (fun e => do
    let x ← oldSector s s.ctx e.page e.va
    need (!unfit e x) (trapAt s.ctx .rmw 0x27 e.va e.page.pa)) local_

/-- What the slice fills for read-modify-writes that it executes; those of a wider scope execute at the LLC (R323). -/
def rmwFills (s : State) (a : VecAccess) (els : List Elt) : State :=
  if a.llc then s else fillLines s (a.ctx s) true (missedOf s (a.ctx s) (firstOfSectors els))

/-- The lowest element of every distinct address, in order, with the group's positions (R156). -/
def groupsOf (els : List Elt) : List (Elt × List Nat) :=
  (els.filter (fun e => !els.any (fun f => f.va == e.va && decide (f.i < e.i)))).map
    (fun e => (e, els.filterMap (fun f => if f.va = e.va then some f.i else none)))

/-- The exact sum of a group (R156), with the NV of infinities that cancel. -/
def groupSum (s : State) (d : VIdx) (l : List Nat) : Val × Sticky :=
  match l with
  | [] => (.fin false 0 1, 0)
  | i :: l => l.foldl (fun (a : Val × Sticky) j =>
      (a.1.add s.roundsDown (s.vval d j), a.2 ||| sumFlags a.1 (s.vval d j) ||| s.vflags d j)) (s.vval d i, s.vflags d i)

/-- The 128-byte block of a scatter-add group at a peer (R395): sign, exponent, 512-bit magnitude, RM and stochastic bits. -/
def sumBlock (s : State) (v : Val) (i : Nat) : BitVec 1024 × State :=
  match v with
  | .fin neg n d =>
    let e : Int := -(d.log2 : Int)
    (BitVec.ofNat 1024 ((if neg then 1 else 0) + 2 ^ 16 * (BitVec.ofInt 16 e).toNat + 2 ^ 128 * s.strand.rm.toNat
      + 2 ^ 160 * (stochBits s.strand.sys.seed s.strand.sys.stripbase i).toNat + 2 ^ 512 * (n % 2 ^ 512)), s)
  | _ => (Config.carriedSum s.freeTick, { s with freeTick := s.freeTick + 1 })

/-- One group of a scatter-add performs. -/
def scatterGroup (ctx : Ctx) (d : VIdx) (scope : Scope) (els : List Elt) (s : State) (e : Elt) : Except Stop (Word × State × Sticky) :=
  let ids := els.filterMap (fun f => if f.va = e.va then some f.i else none)
  let t := groupSum s d ids
  match peerOf s e.page with
  | some (dev, addr) =>
    let b := sumBlock s t.1 e.i
    match askPeer s s.ctx e.va dev addr (2 ^ 65 * (e.i + 1) + e.page.pa)
        { port := 0, header := peerAtomicHeader e dev addr (s.vreg d).tag 0 2 scope, mask := 0, blocks := [b.1] } with
    | .error x => .error x
    | .ok _ => .ok (0, (b.2.notifyLine (e.page.pa / 512)).keep e.page.walked, t.2)
  | none => rmwElement ctx s e (.scatter (e.page.grid.width s.strand.wmax) e.j t.1 t.2 s.strand.roundState e.i)

/-- The elements of a scatter-add (R156).
DEDUCED (unsafe, log 17). -/
def performScatter (a : VecAccess) (d : VIdx) (scope : Scope) (s : State) (els : List Elt) (k : Nat) : Except Stop State := do
  let c := s.core (coreOf s.strandId)
  let fmtOf (x : Sector) : Fmt := tagFormat x.tag
  rmwTagPass s els (fun x => (blend c s.strand.bank (fmtOf x) (s.vreg d).fmt).2 == .trap)
    (fun _ x => fmtOf x == .raw || Fmt.isMicro (fmtOf x) || Fmt.isWide (fmtOf x))
  let order := pageSorted s ((groupsOf els).map (·.1))
  let r ← rmwAll (scatterGroup (a.ctx s) d scope els) (rmwFills s a order) 0 order
  let q := r.2.1.occupy .st 0 0 (s.strand.beatsTo k (slotWidth s.strand.wmax (s.vreg d).fmt))
  .ok (q.1.put 1 [] r.2.2 true)

def rmwAccess (s : State) (a : SReg) (b : VIdx) (data : List VIdx) (scope : Scope) (takes : Cls × Nat × VIdx) : VecAccess :=
  { addr := s.indexAddr (s.rdS a) b, base := s.rdS a, kind := .rmw, index := some b, data := data, escapes := false
    llc := atLlc scope, takes := some takes }

/-- R156: vsctadd. -/
def execVsctadd (d : VIdx) (a : SReg) (b : VIdx) (scope : Scope) (s : State) : Out :=
  .next (
    let x := rmwAccess s a b [d] scope (.st, 0, d)
    s.runMem (.vsctadd d a b scope) true [d, b] x (performScatter x d scope))

def VamoOp.code : VamoOp → Nat
  | .add => 0 | .min => 1 | .max => 2 | .swap => 3 | .cas => 4

/-- The formats that an operation accepts (R161). -/
def VamoOp.accepts (op : VamoOp) (f : Fmt) (g : Grid) : Bool :=
  match op with
  | .swap | .cas => !Fmt.isMicro f && (Fmt.fits f g || g == .raw)
  | _ => match f with
    | .int8 | .uint8 | .int16 | .int32 | .bf16 | .fp32 => true
    | _ => false

/-- One element of a vector atomic performs. -/
def vamoElement (ctx : Ctx) (op : VamoOp) (d : VIdx) (scope : Scope) (s : State) (e : Elt) : Except Stop (Word × State × Sticky) :=
  let r := s.vreg d
  let w := Fmt.width s.strand.wmax r.fmt
  let b := cutBits w (r.slot e.i)
  let c := cutBits w ((s.vreg (d + 1)).slot e.i)
  match peerOf s e.page with
  | some (dev, addr) =>
    match askPeer s s.ctx e.va dev addr (2 ^ 65 * (e.i + 1) + e.page.pa)
        { port := 0, header := peerAtomicHeader e dev addr r.tag op.code 1 scope, mask := 0
          blocks := [BitVec.ofNat 1024 (peerBlock b.toNat (if op = .cas then c.toNat else 0) s.strand e.i)] } with
    | .error x => .error x
    | .ok m => .ok (BitVec.ofNat 64 (m.blocks.headD 0).toNat, (s.notifyLine (e.page.pa / 512)).keep e.page.walked, 0)
  | none => rmwElement ctx s e (.atomic op (e.page.grid.width s.strand.wmax) e.j r.tag b c s.strand.roundState e.i)

/-- The registers that a vector atomic reads are all defined (R35). -/
def VamoOp.defined (op : VamoOp) (s : State) (d b : VIdx) : Bool :=
  !(s.vreg d).isUndef && !(s.vreg b).isUndef && !(decide (op = .cas) && (s.vreg (d + 1)).isUndef)

/-- The elements of a vector atomic (R161): `v_d` receives the old element bits under its own tag.
DEDUCED (unsafe, log 17), DEDUCED (unsafe, log 49). -/
def performVamo (a : VecAccess) (op : VamoOp) (d : VIdx) (scope : Scope) (s : State) (els : List Elt) (k : Nat) : Except Stop State := do
  let r := s.vreg d
  let x := s.strand
  rmwTagPass s els (fun _ => false) (fun e y =>
    tagFmt y.tag != tagFmt r.tag || (!Fmt.isFolding r.fmt && r.fmt != .raw && tagScale y.tag != tagScale r.tag)
      || !op.accepts r.fmt e.page.grid)
  let order := pageSorted s els
  let t ← rmwAll (vamoElement (a.ctx s) op d scope) (rmwFills s a order) 0 order
  let el (i : Nat) : Elem :=
    if i < x.sys.vstart.toNat ∨ k ≤ i then .keep
    else if s.guardAt i then match lookupNat i t.1 with
      | some b => .bits b
      | none => .keep
    else if x.mz then .bits 0 else .keep
  let n := x.positions r.fmt
  let defined := op.defined s d (a.index.getD d)
  let o := writeReg x.wmax n n k r (if defined then clsValid else clsUndef) r.fmt (tagScale r.tag) false x.rounding el
  let q := t.2.1.occupy .ld 40 0 (x.beatsTo k (slotWidth x.wmax r.fmt))
  .ok (if k < x.vl then q.1.landV d o.1 t.2.2 else q.1.putV q.2 d o.1 t.2.2)

/-- The shape of the vector atomics: `data` are the registers whose elements they read. -/
def State.vamo (s : State) (i : Instr) (pre : Bool) (op : VamoOp) (data : List VIdx) (d : VIdx) (a : SReg) (b : VIdx) (scope : Scope) : State :=
  let x := rmwAccess s a b data scope (.ld, 40, d)
  s.runMem i pre (data ++ [b]) x (performVamo x op d scope)

/-- R161: vamo.add. -/
def execVamoAdd (d : VIdx) (a : SReg) (b : VIdx) (scope : Scope) (s : State) : Out :=
  .next (s.vamo (.vamoAdd d a b scope) true .add [d] d a b scope)

/-- R161: vamo.min. -/
def execVamoMin (d : VIdx) (a : SReg) (b : VIdx) (scope : Scope) (s : State) : Out :=
  .next (s.vamo (.vamoMin d a b scope) true .min [d] d a b scope)

/-- R161: vamo.max. -/
def execVamoMax (d : VIdx) (a : SReg) (b : VIdx) (scope : Scope) (s : State) : Out :=
  .next (s.vamo (.vamoMax d a b scope) true .max [d] d a b scope)

/-- R161: vamo.swap. -/
def execVamoSwap (d : VIdx) (a : SReg) (b : VIdx) (scope : Scope) (s : State) : Out :=
  .next (s.vamo (.vamoSwap d a b scope) true .swap [d] d a b scope)

/-- R161: vamo.cas also names the register after `v_d`. -/
def execVamoCas (d : VIdx) (a : SReg) (b : VIdx) (scope : Scope) (s : State) : Out :=
  .next (s.vamo (.vamoCas d a b scope) (decide (d.toNat + 1 < s.strand.nreg)) .cas [d, d + 1] d a b scope)

end Sys2Proof.Machine
end

