-- ==== Sys2Proof/Machine/Strip.lean ====
section
/-! DEFINITION. Strip handles (R173 to R175) and what a world changes of them (R215). -/

namespace Sys2Proof.Machine

/-- A handle is opened or closed: an older access through it advances the window that it issued under, so its pending advance is dropped
(R174). -/
def Strand.newWindow (x : Strand) (d : HReg) (h : Handle) : Strand :=
  { x with
    h := x.h.set d.toNat h
    sched := { x.sched with commits := x.sched.commits.map (fun c => { c with dests := c.dests.filter (fun e => match e with
      | .pos k _ => k != d
      | _ => true) }) } }

/-- R174: strip.open. -/
def execStripOpen (d : HReg) (a b : SReg) (s : State) : Out :=
  .next (s.onStrand (fun s =>
    let x := s.rdS a
    let y := s.rdS b
    let base := field x 0 32
    let len := field x 32 32
    if field y 3 61 ≠ 0 then s.stop (illegal s (.stripOpen d a b))
    else if base % 128 ≠ 0 ∨ len % 128 ≠ 0 ∨ len = 0 ∨ s.strand.strip.length * 16384 < base + len then
      s.stop (trapOf 0x22 x)
    else
      let h : Handle := { valid := true, base := BitVec.ofNat 32 base, len := BitVec.ofNat 32 len
                          grid := BitVec.ofNat 2 (field y 0 2), wrap := bit y 2, pos := 0 }
      { s with strand := s.strand.newWindow d h }.retire))

/-- R174: strip.close. -/
def execStripClose (d : HReg) (s : State) : Out :=
  .next (s.onStrand (fun s =>
    { s with strand := s.strand.newWindow d { s.strand.h[d.toNat] with valid := false } }.retire))

/-- The page that a window stands for (R173): its grid, and fit-or-trap for a store. `pa` holds the offset in the allocation. -/
def windowPage (grid : Grid) (off : Nat) : Page :=
  { pa := off, size := 2 ^ 33, grid := grid, dfmt := 0, dpol := 1, pack := false, grind := false, res := 0, rgv := false, rgn := 0
    wsh := false, hen := false }

/-- The strip-handle fault (R147).
DEDUCED (unsafe, log 18). -/
def handleFault (h : HReg) (o : Nat) : Stop := trapOf 0x21 (BitVec.ofNat 64 (h.toNat * 2 ^ 60 + o % 2 ^ 32))

/-- A pending commit of the region guards bytes of [off, off + n) of the allocation (R268, R274).
DEDUCED (unsafe, log 20). -/
def guardedAhead (x : Strand) (off n : Nat) : Bool :=
  x.sched.commits.any (fun c => c.dests.any (fun d => match d with
    | .range _ o k => decide (off < o + k) && decide (o < off + n)
    | _ => false))

/-- What a strip access to [off, off + n) meets of the strand's copies (R268): in the exposed region that issued the copy, the
copy-overlap trap before its commit offset; elsewhere a wait. -/
def stripHold (s : State) (off n : Nat) (write : Bool) : Option Stop :=
  let x := s.strand
  let overlap : Stop := trapOf 0x47 (BitVec.ofNat 64 off)
  let met := s.copiesMet s.strandId true write off (off + n)
  let here (r : CopyReq) : Bool := s.exposed && r.commitAt.isSome && r.region == x.heldRegion.length
  if (s.exposed && guardedAhead x off n) || met.any (fun r => here r.2 && r.2.commitAt.any (fun t => decide (x.sched.clock < t))) then
    some overlap
  else (met.find? (fun r => !here r.2)).map (fun r => .wait (.copy r.1 r.2.id))

/-- The check of `stripHold`. -/
def checkStrip (s : State) (off n : Nat) (write : Bool) : Except Stop Unit :=
  match stripHold s off n write with
  | some x => .error x
  | none => .ok ()

/-- The element of position i in a window (R175): past the end it wraps or faults; a rival without a copy of the allocation may
not write (R215); a marked element is not stored.
DEDUCED (unsafe, log 18). -/
def stripElt (s : State) (h : HReg) (store : Option VIdx) (q : Probe) (i : Nat) : Except Stop (Elt × Probe) := do
  let w := s.strand.h[h.toNat]
  let g := Grid.ofBits w.grid
  let e := g.width s.strand.wmax / 8
  let o := w.pos.toNat + i * e
  need (decide (o < w.len.toNat) || w.wrap) (handleFault h o)
  let off := w.base.toNat + (if o < w.len.toNat then o else o % w.len.toNat)
  checkAlign (BitVec.ofNat 64 off) e
  need (store.isNone || ownsStrip s s.strand) escape
  checkStrip s off e store.isSome
  need (!(match store with
    | some d => (s.vreg d).marked i
    | none => false)) poisonTrap
  .ok ({ i := i, va := BitVec.ofNat 64 off, page := windowPage g off, j := off % 128 / e }, q)

/-- A sector of the strand's allocation. -/
def State.stripRead (s : State) (off : Nat) : Sector :=
  match stripSector s.strand.strip off with
  | some sec => (s.core (coreOf s.strandId)).stripAt sec
  | none => { bits := 0, tag := tagUndef }

/-- Write a sector of the strand's allocation. -/
def State.stripWrite (s : State) (off : Nat) (x : Sector) : State :=
  match stripSector s.strand.strip off with
  | some sec => s.setCore (coreOf s.strandId) ((((s.core (coreOf s.strandId)).keepSource sec).demand [sec]).setStrip sec x)
  | none => s

/-- Strip reads of the strand's allocation reach their banks (R295). -/
def State.stripReach (s : State) (offs : List Nat) : State :=
  s.demandStrip (coreOf s.strandId) (offs.filterMap (stripSector s.strand.strip))

/-- A trap of the tag pass as a strip access raises it: it is no memory access, so a forbidden format has no sector address (R87),
and no physical address is known. -/
def stripStop : Stop → Stop
  | .trap t => .trap { t with data := if t.code = 0x09 then 0 else t.data, sub := 0, pa := 0xFFFFFFFFFFFFFFFF }
  | x => x

/-- The elements of `strip.ld` (R151, R175).
DEDUCED (unsafe, log 18). -/
def performStripLoad (d : VIdx) (s : State) (els : List Elt) (k : Nat) : Except Stop State :=
  let met := els.map (fun e => (e, s.stripRead e.page.pa))
  let old := s.vreg d
  match if els.isEmpty then Except.ok (old.fmt, tagScale old.tag, old.isUndef) else loadTag s .read met with
  | .error x => .error (stripStop x)
  | .ok t =>
    let r := loadRegister s d k t.1 t.2.1 t.2.2 met
    let q := (s.stripReach (els.map (fun e => e.page.pa))).occupy .strip 6 0 (s.strand.beatsTo k (slotWidth s.strand.wmax t.1))
    .ok (if k < s.strand.vl then q.1.landV d r.1 r.2 else q.1.putV q.2 d r.1 r.2)

/-- The tag pass of one strip sector of a store: where it is written in part its format's width and a malformed tag, then the format that
must fit. -/
def stripStoreTag (s : State) (r : VReg) (els : List Elt) (e : Elt) : Except Stop (Fmt × Byte) := do
  let full := storesAll s (storedIn els e.sec) e
  let old := (s.stripRead e.page.pa).tag
  need (full || malformedSector e.page.grid old || !s.strand.tooWide (tagFormat old)) widthTrap
  need (full || !malformedSector e.page.grid old) (trapOf 0x08 (sectorVa e.va))
  match storedFormat r.tag e.page.grid e.page.dfmt e.page.dpol with
  | some f => .ok f
  | none => .error formatTrap

/-- The elements of `strip.st` (R152, R175).
DEDUCED (unsafe, log 18). -/
def performStripStore (d : VIdx) (s : State) (els : List Elt) (k : Nat) : Except Stop State := do
  let r := s.vreg d
  let firsts := firstOfSectors els
  let only (code : BitVec 8) : Except Stop Unit := eachElt (fun e => match stripStoreTag s r els e with
    | .error (.trap t) => if t.code = code then .error (.trap t) else .ok ()
    | _ => .ok ()) firsts
  only 0x07
  only 0x08
  eachElt (fun e => (stripStoreTag s r els e).map (fun _ => ())) firsts
  let t := firsts.foldl (fun (a : State × Sticky) e =>
    match stripStoreTag s r els e with
    | .error _ => a
    | .ok f =>
      let n := storeElems s.strand.wmax s.strand.roundState r e.page.grid f.1 f.2 (storedIn els e.sec) (a.1.stripRead e.page.pa)
      (a.1.stripWrite e.page.pa n.1, a.2 ||| n.2)) (s, (0 : Sticky))
  let q := t.1.occupy .strip 0 0 (s.strand.beatsTo k (slotWidth s.strand.wmax r.fmt))
  .ok (q.1.put 1 [] t.2 true)

/-- The advance of a handle (R175): all VL positions count, and only a completed instruction advances. -/
def Strand.advance (x : Strand) (h : HReg) : Strand :=
  let w := x.h[h.toNat]
  let e := (Grid.ofBits w.grid).width x.wmax / 8
  { x with h := x.h.set h.toNat { w with pos := BitVec.ofNat 32 ((w.pos.toNat + x.vl * e) % w.len.toNat) } }

/-- StripAccess (R175) of a register, which a store reads. -/
def State.stripAccess (s : State) (i : Instr) (h : HReg) (d : VIdx) (stores advance : Bool)
    (perform : State → List Elt → Nat → Except Stop State) : State :=
  let formats := if stores then [d] else []
  s.vecGate i true (fun s =>
    if !s.strand.h[h.toNat].valid then s.stop (vecStop (handleFault h 0))
    else if s.strand.vl ≤ s.strand.sys.vstart.toNat then
      (if formats.any (fun r => s.strand.tooWide (s.vreg r).fmt) then s.stop (vecStop widthTrap)
      else s.vecSkip .strip (if stores then 0 else 6) 0 (s.strand.beats (slotWidth s.strand.wmax (s.vreg d).fmt)))
    else
      let r := walkElts (stripElt s h (if stores then some d else none)) (s, []) s.actives
      s.runElts formats r.1 r.2 (fun s els k =>
        match perform s els k with
        | .error x => .error x
        | .ok t => .ok (if advance && r.2.isNone then { t with strand := t.strand.advance h } else t)))

/-- R175: strip.ld. -/
def execStripLd (d : VIdx) (a : HReg) (s : State) : Out :=
  .next (s.stripAccess (.stripLd d a) a d false true (performStripLoad d))

/-- R175: strip.ld.na. -/
def execStripLdNa (d : VIdx) (a : HReg) (s : State) : Out :=
  .next (s.stripAccess (.stripLdNa d a) a d false false (performStripLoad d))

/-- R175: strip.st. -/
def execStripSt (d : VIdx) (a : HReg) (s : State) : Out :=
  .next (s.stripAccess (.stripSt d a) a d true true (performStripStore d))

/-- R175: strip.st.na. -/
def execStripStNa (d : VIdx) (a : HReg) (s : State) : Out :=
  .next (s.stripAccess (.stripStNa d a) a d true false (performStripStore d))

end Sys2Proof.Machine
end

