-- ==== Sys2Proof/Machine/Copies.lean ====
section
/-! DEFINITION. The copy engine (R261 to R269): requests, promises, sector moves, misses and stops, and the events it raises to a
strand (R244, R266). -/

namespace Sys2Proof.Machine

/-- The copy-range fault (R262). -/
def copyRangeFault : Stop := trapOf 0x48 0

/-- The strip-allocation fault (R147) of an endpoint. -/
def allocationFault (off : Word) : Stop := trapOf 0x22 off

/-- Rows of a request as its operands give them: start of source and destination, and their length in bytes. -/
structure CopyRow where
  src : Word
  dst : Word
  len : Nat

/-- A strip endpoint lies in the allocation (R261, R262). -/
def inAllocation (x : Strand) (off : Word) (len : Nat) : Bool := decide (off.toNat + len ≤ x.strip.length * 16384)

/-- The sector addresses of rows. -/
def rowSectors (rows : List (Word × Nat)) : List Word :=
  rows.flatMap (fun r => (List.range (r.2 / 128)).map (fun i => r.1 + BitVec.ofNat 64 (128 * i)))

/-- A translation fault of a request names the first address of the failing page (R355): of the page that a leaf maps where its
permission fails, and otherwise of the 8 KiB around the address.
DEDUCED (unsafe, log 32). -/
def pageFault (x : Stop) : Stop := match x with
  | .trap t =>
    let permission := decide (0x12 ≤ t.code.toNat) && decide (t.code.toNat ≤ 0x14)
    if 0x10 ≤ t.code.toNat ∧ t.code.toNat ≤ 0x16 then
      .trap { t with data := t.data &&& ~~~BitVec.ofNat 64 (pageSize (if permission then t.sub.toNat % 4 else 3) - 1) }
    else x
  | _ => x

/-- The endpoints of one side of a request (R263): offsets, or addresses translated for reading or writing. -/
def copyEnds (s : State) (strip : Bool) (acc : Access) : List Word → Except Stop (List CopyEnd)
  | [] => .ok []
  | a :: l =>
    if strip then match copyEnds s strip acc l with
      | .error x => .error x
      | .ok r => .ok (.strip a.toNat :: r)
    else match translate s s.ctx acc a with
      | .error x => .error (pageFault x)
      | .ok p => match copyEnds s strip acc l with
        | .error x => .error x
        | .ok r => .ok (.mem a p :: r)

def CopyEnd.page? : CopyEnd → Option (Word × Page)
  | .mem va p => some (va, p)
  | .strip _ => none

/-- World rules of a destination (R263). -/
def copyEscapes (s : State) (e : CopyEnd) : Bool :=
  s.strand.depth != 0 && match e with
    | .strip _ => !ownsStrip s s.strand
    | .mem _ p => p.wsh || match physClass p.pa with
      | .hbm => false
      | _ => true

/-- The bounding bytes of rows. -/
def boundingRange (strip : Bool) (rows : List (Word × Nat)) : CopyRange :=
  { strip := strip
    lo := (leastOf (rows.map (fun r => r.1.toNat))).getD 0
    hi := rows.foldl (fun m r => Nat.max m (r.1.toNat + r.2)) 0 }
where
  /-- The least of a list, if it has one. -/
  leastOf : List Nat → Option Nat
    | [] => none
    | a :: l => match leastOf l with
      | none => some a
      | some b => some (Nat.min a b)

/-- Bytes per clock and latency (R264). -/
def copyRate (memEnd : Bool) : Nat := if memEnd then 64 else 1024
def copyLat (memEnd : Bool) : Nat := if memEnd then 800 else 32

/-- X of R264. -/
def copyTime (memEnd : Bool) (bytes rows : Nat) : Nat :=
  (bytes + copyRate memEnd - 1) / copyRate memEnd + 2 * (rows - 1)

/-- A later copy is a later access (R268): its source must not meet a pending destination, nor its destination a pending range. -/
def copyMeets (s : State) (src dst : CopyRange) : Except Stop Unit := do
  let meet (r : CopyRange) (write : Bool) : Except Stop Unit :=
    if r.strip then checkStrip s r.lo (r.hi - r.lo) write
    else match s.copiesMet s.strandId false write r.lo r.hi with
      | q :: _ => .error (.wait (.copy q.1 q.2.id))
      | [] => .ok ()
  meet src false
  meet dst true

/-- The checks of R262 on a request's rows and their order (R263), up to its admission (R264). `ok` is what the form checks of its own
operands, `bases` its endpoints; `index` and `poison` are the checks of the index register of `cp.gth`. -/
def checkCopy (s : State) (ends : BitVec 2) (ok : Bool) (bases : List (Bool × Word)) (rows : List CopyRow)
    (index poison : Except Stop Unit) : Except Stop (List CopyMove) := do
  let fromStrip := ends.getLsbD 0
  let toStrip := ends.getLsbD 1
  let total : Nat := rows.foldl (fun n r => n + r.len) 0
  need (ok && rows.all (fun r => r.src.toNat % 128 == 0 && r.dst.toNat % 128 == 0) && decide (128 ≤ total) && decide (total ≤ 2 ^ 23))
    copyRangeFault
  match bases.find? (fun b => b.1 && field b.2 32 32 != 0) with
  | some b => Except.error (allocationFault b.2)
  | none => .ok ()
  match rows.find? (fun r => fromStrip && !inAllocation s.strand r.src r.len) with
  | some r => Except.error (allocationFault r.src)
  | none => .ok ()
  match rows.find? (fun r => toStrip && !inAllocation s.strand r.dst r.len) with
  | some r => Except.error (allocationFault r.dst)
  | none => .ok ()
  index
  let src ← copyEnds s fromStrip .read (rowSectors (rows.map (fun r => (r.src, r.len))))
  let dst ← copyEnds s toStrip .write (rowSectors (rows.map (fun r => (r.dst, r.len))))
  let pages := (src ++ dst).filterMap CopyEnd.page?
  if !fromStrip && !toStrip then
    match pages with
    | [] => Except.ok ()
    | p :: l => match l.find? (fun q => q.2.grid != p.2.grid) with
      | some q => .error (trapAt s.ctx .read 0x20 q.1 q.2.pa)
      | none => .ok ()
  else .ok ()
  match dst.find? (copyEscapes s) with
  | some (.mem va p) => Except.error (trapAt s.ctx .write 0x30 va p.pa)
  | some (.strip _) => .error escape
  | none => .ok ()
  poison
  .ok ((src.zip dst).map (fun m => { src := m.1, dst := m.2, kept := none }))

/-- A request is made (R264, R267): it waits for a free entry and for the ranges it meets, then the promise lands with L = 2. -/
def makeCopy (s : State) (d : SReg) (ends : BitVec 2) (rows : List CopyRow) (moves : List CopyMove) : Except Stop State := do
  let fromStrip := ends.getLsbD 0
  let toStrip := ends.getLsbD 1
  let src := boundingRange fromStrip (rows.map (fun r => (r.src, r.len)))
  let dst := boundingRange toStrip (rows.map (fun r => (r.dst, r.len)))
  copyMeets s src dst
  let c := coreOf s.strandId
  let k := s.core c
  need (decide ((copiesOf s s.strandId).length < 16) && decide (k.copies.length < 64)) (.wait .copyEntry)
  let memEnd := !(fromStrip && toStrip)
  let bytes := 128 * moves.length
  let lat := copyLat memEnd
  let x := copyTime memEnd bytes rows.length
  let start := Nat.max s.cycle.toNat k.copyTail
  let promise := BitVec.ofNat 64 (start + lat + x)
  let r : CopyReq :=
    { id := k.copySeq, gid := some s.strandId, origin := s.strandId, save := areaOf s.strand.task
      frame := frameOf s.strand.task, asid := s.strand.asid
      user := !s.strand.priv, view := s.strand.vid, granules := s.strand.strip, moves := moves, moved := 0
      rowSectors := (rows.head?.map (fun r => r.len / 128)).getD 1, memEnd := memEnd, src := src, dst := dst
      issued := s.cycle.toNat, promise := promise, missed := false
      commitAt := if s.exposed && (toStrip || fromStrip) then some (s.strand.sched.clock + lat + x) else none
      region := s.strand.heldRegion.length, inHandler := s.strand.tip }
  let k := { k with
    copies := k.copies ++ [r], copySeq := k.copySeq + 1, copyTail := start + (bytes + copyRate memEnd - 1) / copyRate memEnd }
  let t := (s.setCore c k).putS 2 d promise 0
  .ok (if s.exposed && toStrip then t.put (lat + x) [.range 0 dst.lo (dst.hi - dst.lo)] 0 else t)


/-- The shape of `cp.start` and `cp.2d`: a scalar successor of a prefix (R261). -/
def State.copyRequest (s : State) (d : SReg) (ends : BitVec 2) (ok : Bool) (bases : List (Bool × Word)) (rows : List CopyRow) : State :=
  s.onStrand (fun s => s.guarded (fun s =>
    let r : Except Stop State := do
      let moves ← checkCopy s ends ok bases rows (.ok ()) (.ok ())
      makeCopy s d ends rows moves
    match r with
    | .ok t => t.retire
    | .error x => s.stop x))

/-- A length within R262. -/
def copyLength (n : Nat) : Bool := n % 128 == 0 && decide (128 ≤ n) && decide (n ≤ 2 ^ 23)

/-- R261: cp.start. -/
def execCpStart (d a : SReg) (ends : BitVec 2) (s : State) : Out :=
  .next (
    let src := s.rdS a
    let dst := s.rdS (a + 1)
    let len := (s.rdS (a + 2)).toNat
    s.copyRequest d ends (copyLength len) [(ends.getLsbD 0, src), (ends.getLsbD 1, dst)]
      [{ src := src, dst := dst, len := len }])

/-- R261: cp.2d. -/
def execCp2d (d a : SReg) (ends : BitVec 2) (s : State) : Out :=
  .next (
    let src := s.rdS a
    let dst := s.rdS (a + 1)
    let len := field (s.rdS (a + 2)) 0 32
    let count := field (s.rdS (a + 2)) 32 32
    let ss := s.rdS (a + 3)
    let ds := s.rdS (a + 4)
    let ok := copyLength len && decide (1 ≤ count) && decide (count ≤ 4096) && decide (len * count ≤ 2 ^ 23)
      && ss.toNat % 128 == 0 && ds.toNat % 128 == 0
    s.copyRequest d ends ok [(ends.getLsbD 0, src), (ends.getLsbD 1, dst)]
      (if ok then (List.range count).map (fun r =>
        { src := src + BitVec.ofNat 64 r * ss, dst := dst + BitVec.ofNat 64 r * ds, len := len }) else []))

/-- The page of the first memory endpoint of a row's moves: its source's, otherwise its destination's. -/
def rowPage (row : List CopyMove) : Option (Word × Page) := match row with
  | [] => none
  | m :: _ => m.src.page?.or m.dst.page?

/-- Insert a row by key. -/
def insertRow (k : Nat) (r : List CopyMove) : List (Nat × List CopyMove) → List (Nat × List CopyMove)
  | [] => [(k, r)]
  | (j, q) :: l => if k < j then (k, r) :: (j, q) :: l else (j, q) :: insertRow k r l

/-- The rows of moves, each of `n` sectors. -/
def rowsOf (n : Nat) (moves : List CopyMove) : Nat → List (List CopyMove)
  | 0 => []
  | k + 1 => moves.take n :: rowsOf n (moves.drop n) k

/-- The moves of `cp.gth` as the page-sorting unit orders its elements, which are its rows (R357): by page in the order of the first row
of each, within a page by interleave unit, then by row.
DEDUCED (unsafe, log 25). -/
def sortRows (s : State) (count n : Nat) (moves : List CopyMove) : List CopyMove :=
  let rows := rowsOf n moves count
  let same (a b : List CopyMove) : Bool := match rowPage a, rowPage b with
    | some p, some q => samePage p.2.size p.1 q.2.size q.1
    | none, none => true
    | _, _ => false
  let key (r : List CopyMove) : Nat :=
    rows.findIdx (same r) * 2 ^ 20 + ((rowPage r).map (fun p => unitOf s p.2.pa)).getD 0
  ((rows.foldl (fun l r => insertRow (key r) r l) []).map (·.2)).flatten

/-- R261, R262: cp.gth; the active positions of the index register give the rows. One that its guard leaves no position makes no request;
without a prefix, no position is a row count of 0.
DEDUCED (unsafe, log 25). -/
def execCpGth (d a : SReg) (b : VIdx) (ends : BitVec 2) (s : State) : Out :=
  .next (s.vecGate (.cpGth d a b ends) true (fun s =>
    let src := s.rdS a
    let dst := s.rdS (a + 1)
    let len := (s.rdS (a + 2)).toNat
    let l := s.actives
    let rows : List CopyRow := (l.zip (List.range l.length)).map (fun p =>
      { src := src + BitVec.ofInt 64 ((s.vreg b).index s.strand.wmax p.1) * BitVec.ofNat 64 len
        dst := dst + BitVec.ofNat 64 (p.2 * len), len := len })
    if l.isEmpty && s.lent.isSome then s.vecEnd none
    else
      let ok := copyLength len && decide (len * l.length ≤ 2 ^ 23) && src.toNat % 128 == 0 && dst.toNat % 128 == 0
        && decide (l.length ≤ 4096)
      let index : Except Stop Unit := do
        need (indexFormat (s.vreg b).fmt) formatTrap
        need (!(s.vreg b).isUndef) undefinedTrap
      let poison := need (!(l.any (s.vreg b).marked)) poisonTrap
      let r : Except Stop State := do
        let moves ← checkCopy s ends ok [(ends.getLsbD 0, src), (ends.getLsbD 1, dst)] rows index poison
        makeCopy s d ends rows (sortRows s rows.length (len / 128) moves)
      match r with
      | .ok t => { t with strand := t.strand.setVstart 0 }.retire
      | .error x => s.stop (vecStop x)))

end Sys2Proof.Machine
end

