-- ==== Sys2Proof/Machine/Matrix.lean ====
section
/-! DEFINITION. The matrix path: the tile state (R245, R246, R249), the matrix instructions (R250 to R254), weight slots and
codebooks (R247, R248, R255 to R257), accumulator transfers (R258, R259) and the schedule of their engines (R260). -/

namespace Sys2Proof.Machine

/-! ### The schedule (R260) -/

/-- The latest of some times of a keyed list. -/
def latest (l : List (Nat × Nat)) (keys : List Nat) (back : Nat) : Nat :=
  keys.foldl (fun m k => Nat.max m ((lookupNat k l).getD 0 - back)) 0

/-- What an engine instruction reads and writes, by number (R260). -/
structure EngineUse where
  tilesRead : List Nat
  slotsRead : List Nat
  cbRead : List Nat
  tile : Option Nat
  slot : Option Nat
  cb : Option Nat
deriving DecidableEq, Repr

def EngineUse.none : EngineUse := { tilesRead := [], slotsRead := [], cbRead := [], tile := .none, slot := .none, cb := .none }

/-- The schedule clock at which an engine instruction starts. -/
def State.engineStart (s : State) (c : Cls) (base : Nat) (u : EngineUse) : Nat :=
  let d := s.strand.sched
  Nat.max (Nat.max d.clock (clsFree d.free c))
    (Nat.max (latest d.tileReady u.tilesRead (base - 1)) (Nat.max (latest d.slotReady u.slotsRead 0) (latest d.cbReady u.cbRead 0)))

def putTime (l : List (Nat × Nat)) (k : Option Nat) (t : Nat) : List (Nat × Nat) := match k with
  | some k => insertNat k t l
  | none => l

/-- ScheduleEngine (R260): the state with the class, the units and the codebooks taken, and the exposed latency. -/
def State.engine (s : State) (c : Cls) (base work : Nat) (u : EngineUse) : State × Nat :=
  if !s.exposed then (s, 0) else
  let d := s.strand.sched
  let start := s.engineStart c base u
  let commit := Nat.max (start + base + work - 1) (latest d.cbInUse u.cb.toList 0)
  let d := { d with
    free := (c, start + work) :: d.free.filter (fun p => p.1 != c)
    tileReady := putTime d.tileReady u.tile commit
    slotReady := putTime d.slotReady u.slot commit
    cbReady := putTime d.cbReady u.cb commit
    cbInUse := u.cbRead.foldl (fun l k => insertNat k (Nat.max (start + work) ((lookupNat k l).getD 0)) l) d.cbInUse }
  ({ s with strand := { s.strand with sched := d } }, commit - s.strand.sched.clock)

/-- The strand at the clock at which an instruction of an exposed region reads: with the commits up to it landed (R260). -/
def State.strandWhen (s : State) (clock : Nat) : Strand := if s.exposed then s.strandBy clock else s.strand

/-- The gate of an engine instruction: its registers are declared (R19), its operands are legal, and it has a lane cluster where
it needs one (R17). -/
def State.engineGate (s : State) (i : Instr) (lease : Bool) (f : State → Except Stop State) : State :=
  s.onStrand (fun s =>
    if !vregsOk s.strand i then s.stop (illegal s i)
    else if lease && s.strand.grant == 0 then s.stop leaseAbsent
    else match f s with
      | .ok t => t.retire
      | .error x => s.stop x)

/-! ### The tile state -/

/-- The tile state is current (R246). -/
def Strand.tileCurrent (x : Strand) : Bool :=
  x.tileState.valid && x.tileState.grantAt.toNat == x.grant && x.tileState.vlmaxAt == x.vlmax

def tileStateFault : Stop := trapOf 0x40 0
def weightSlotFault (b : WSlot) : Stop := trapOf 0x41 (b.setWidth 64)
def capacityFault (bytes : Nat) : Stop := trapOf 0x42 (BitVec.ofNat 64 bytes)
def codebookFault (c : CBook) : Stop := trapOf 0x43 (c.setWidth 64)

/-- A signed size clamped to 0 .. hi. -/
def clampSize (w : Word) (hi : Nat) : Nat := if w.toInt < 0 then 0 else Nat.min w.toNat hi

/-- The largest K that a lease grants (R249). -/
def kLimit (vlmax : Nat) : Nat :=
  let k := vlmax / 64
  Nat.min (if 32 ≤ k then k - k % 32 else k) 512

/-- R249: tile.set. -/
def execTileSet (d a : SReg) (s : State) : Out :=
  .next (s.engineGate (.tileSet d a) false (fun s =>
    let m := clampSize (s.rdS a) 64
    let n := clampSize (s.rdS (a + 1)) 64
    let k := clampSize (s.rdS (a + 2)) (kLimit s.strand.vlmax)
    let ok : Bool := s.strand.grant != 0 && m != 0 && n != 0 && k != 0
    let z (v : Nat) : Nat := if ok then v else 0
    let t : TileState :=
      { valid := ok, m := z m, n := z n, k := z k, grantAt := BitVec.ofNat 8 s.strand.grant, vlmaxAt := s.strand.vlmax }
    .ok (s.put 2 [.tileState t, .s d (BitVec.ofNat 64 (z m)), .s (d + 1) (BitVec.ofNat 64 (z n)),
      .s (d + 2) (BitVec.ofNat 64 (z k))] 0)))

/-! ### Matrix instructions -/

/-- The B operand of a matrix instruction: a register, or a weight slot. -/
inductive BSource where
  | reg (r : VIdx)
  | slot (b : WSlot)
deriving DecidableEq, Repr

/-- A tile operand as a matrix instruction reads it: format, UNDEF, marks and values by flat index, and reading flags. -/
structure Operand where
  fmt : Fmt
  undef : Bool
  marked : Nat → Bool
  val : Nat → Val
  flags : Nat → Sticky

/-- A register as a tile operand (R251). -/
def regOperand (r : VReg) : Operand :=
  let a := r.slots.toArray
  let slot (i : Nat) : Word := a.getD i 0
  { fmt := r.fmt, undef := r.isUndef, marked := r.marked
    val := fun i => decodeEl r.fmt (tagScale r.tag) (if Fmt.isMicro r.fmt then r.microAt i else 127) (slot i)
    flags := fun i => readFlags r.fmt (slot i) }

/-- A weight slot as a tile operand: its own elements, or the entries of its codebook that they name (R252). -/
def slotOperand (w : WeightSlot) (cb : Option Codebook) : Operand :=
  let a := w.elems.toArray
  let u := w.micro.toArray
  match cb with
  | none =>
    let f := tagFormat w.tag
    { fmt := f, undef := tagVcls w.tag == clsUndef, marked := fun i => w.marks.contains i
      val := fun i => decodeEl f (tagScale w.tag) (u.getD i 127) (a.getD i 0)
      flags := fun i => readFlags f (a.getD i 0) }
  | some c =>
    let f := tagFormat c.tag
    let e := c.elems.toArray
    let idx (i : Nat) : Nat := (a.getD i 0).toNat
    { fmt := f, undef := tagVcls w.tag == clsUndef || tagVcls c.tag == clsUndef
      marked := fun i => w.marks.contains i || c.marks.contains (idx i)
      val := fun i => decodeEl f (tagScale c.tag) 127 (e.getD (idx i) 0)
      flags := fun i => readFlags f (e.getD (idx i) 0) }

/-- The exact sum of the products of a chunk, and whether an operation in it had no value (R252): infinite products of both signs, or
zero times infinity. -/
def chunkSum (l : List (Val × Val)) : Val × Bool :=
  let ps := l.map (fun p => (Val.mul p.1 p.2, (p.1.isZero && p.2.isInf) || (p.1.isInf && p.2.isZero)))
  let bad := ps.any (·.2) || (ps.any (fun p => p.1 == .inf true) && ps.any (fun p => p.1 == .inf false))
  if bad then (.nan, true)
  else match ps.map (·.1) with
    | [] => (.fin false 0 1, false)
    | v :: vs => (vs.foldl (Val.add false) v, false)

/-- An accumulator element after the chunks of its row and column, and its flags (R63, R252). -/
def accumulate (af : Fmt) (sat : Bool) (chunks : List (List (Val × Val))) (acc : Word) : Word × Sticky :=
  chunks.foldl (fun (a : Word × Sticky) c =>
    let x := chunkSum c
    let old := elementValue af a.1
    let clash : Bool := match old, x.1 with
      | .inf s, .inf t => s != t
      | _, _ => false
    let e := encodeEl af 127 127 .nearest sat (Val.add false old x.1)
    (e.1, a.2 ||| e.2 ||| (if x.2 || clash then flagNV else 0))) (acc, 0)

/-- Cut a list into pieces of 32; `fuel` bounds their number. -/
def chunks32 {α : Type} : Nat → List α → List (List α)
  | 0, _ => []
  | fuel + 1, l => if l.isEmpty then [] else l.take 32 :: chunks32 fuel (l.drop 32)

def Tile.fmt (t : Tile) : Fmt := if t.i48 then .i48 else .a48

/-- The κ values that a slice consumes in a clock (R254). -/
def macRate (ternary : Bool) (w : Nat) : Nat :=
  if ternary then 128 else if w ≤ 6 then 64 else if w ≤ 8 then 32 else if w ≤ 16 then 16 else 4

/-- The clocks of work of a matrix instruction (R254). -/
def macWork (m n k g p : Nat) : Nat := ((m + 15) / 16) * (((n + 7) / 8 + g - 1) / g) * ((k + p - 1) / p)

/-- The result format of a matrix instruction and the action of its lookup (R252). -/
def matFormat (s : State) (ternary : Bool) (fa fb : Fmt) : Except Stop (Fmt × Act) :=
  let shut (f : Fmt) : Bool := f == .raw || Fmt.isWide f
  if ternary then (if (fa = .int8 ∨ fa = .uint8) ∧ fb = .trn2 then .ok (.i48, .use) else .error formatTrap)
  else if shut fa || shut fb then .error formatTrap
  else s.lookup fa fb

/-- The A operand under CONV (R57, R252): each element of the tile rounded to the result format, block by block for a microscaled one. -/
def convOperand (s : State) (f : Fmt) (sc : Byte) (count : Nat) (val : Nat → Val) (i : Nat) : Val × Sticky :=
  if Fmt.isMicro f then
    let vs := (List.range 32).filterMap (fun j => if 32 * (i / 32) + j < count then some (val (32 * (i / 32) + j)) else none)
    match (blockMax ((sc.toNat : Int) - 127) vs).map (fun p => microScaleOf f p.1 p.2) with
    | some u => roundTo f sc u (s.strand.rounding i) true (val i)
    | none => (.nan, match val i with
      | .inf _ => flagOF
      | _ => 0)
  else roundTo f sc 127 (s.strand.rounding i) false (val i)

/-- The tile that a matrix instruction writes, and its flags (R251, R252). -/
def matTile (s : State) (old : Tile) (z : Bool) (t : TileState) (f : Fmt) (act : Act) (sa : Byte) (a b : Operand) :
    Tile × Sticky :=
  let af : Fmt := if Fmt.isFloat f then .a48 else .i48
  let av : List (Val × Sticky) := (List.range (t.m * t.k)).map (fun p =>
    let r : Val × Sticky := if act = .conv then convOperand s f (convScale f sa) (t.m * t.k) a.val p else (a.val p, 0)
    (r.1, r.2 ||| a.flags p))
  let bv : List (Val × Sticky) := (List.range (t.n * t.k)).map (fun p => (b.val p, b.flags p))
  let aa := av.toArray
  let ba := bv.toArray
  let zero : Val × Sticky := (.fin false 0 1, 0)
  let oldA := old.elems.toArray
  let cells : List (Word × Sticky) := (List.range 4096).map (fun e =>
    let i := e / 64
    let j := e % 64
    let was : Word := if z then 0 else (oldA.getD e 0).setWidth 64
    if i < t.m ∧ j < t.n then
      accumulate af (act == .sat) (chunks32 16 ((List.range t.k).map (fun q =>
        ((aa.getD (i * t.k + q) zero).1, (ba.getD (j * t.k + q) zero).1)))) was
    else (was, 0))
  let fl := (av ++ bv).foldl (fun (m : Sticky) p => m ||| p.2) 0
  let fl := cells.foldl (fun m p => m ||| p.2) fl
  ({ i48 := af == .i48, elems := trimElems (cells.map (fun p => p.1.setWidth 48)) }, if act = .sat then fl ||| flagFS else fl)

/-- The B operand with its checks (R252, priorities 7 and 8), and the codebook it reads. -/
def bOperand (s : State) (x : Strand) (t : TileState) (b : BSource) : Except Stop (Operand × Option CBook) :=
  match b with
  | .reg r => .ok (regOperand (s.vreg r), none)
  | .slot w => match x.weights[w.toNat] with
    | none => .error (weightSlotFault w)
    | some sl =>
      if sl.n ≠ t.n ∨ sl.k ≠ t.k then .error (weightSlotFault w)
      else match sl.codebook with
        | none => .ok (slotOperand sl none, none)
        | some c => match x.codebooks[c.toNat] with
          | none => .error (codebookFault c)
          | some e => .ok (slotOperand sl (some e), some c)

/-- An index of an indexed slot reaches the entry count of its codebook (R252, priority 11). -/
def indexesEnd (x : Strand) (b : BSource) : Option CBook :=
  match b with
  | .reg _ => none
  | .slot w => match x.weights[w.toNat] with
    | none => none
    | some sl => match sl.codebook with
      | none => none
      | some c => match x.codebooks[c.toNat] with
        | none => none
        | some e => if sl.elems.any (fun i => decide (e.elems.length ≤ i.toNat)) then some c else none

/-- The slots and the codebook that a matrix instruction reads. -/
def matUse (s : State) (d : AReg) (b : BSource) (z : Bool) : EngineUse :=
  let cb : List Nat := match b with
    | .reg _ => []
    | .slot w => match (s.strandBy (latest s.strand.sched.slotReady [w.toNat] 0)).weights[w.toNat] with
      | some sl => (sl.codebook.map (fun c => c.toNat)).toList
      | none => []
  { EngineUse.none with
    tilesRead := if z then [] else [d.toNat]
    slotsRead := match b with
      | .reg _ => []
      | .slot w => [w.toNat]
    cbRead := if s.exposed then cb else []
    tile := some d.toNat }

/-- Mma (R252). Operands in slots and codebooks are read when the instruction starts, the tile one clock before its commit point
(R260). -/
def State.matrix (s : State) (i : Instr) (d : AReg) (a : VIdx) (b : BSource) (z ternary : Bool) : State :=
  s.engineGate i true (fun s => do
    need s.strand.tileCurrent tileStateFault
    let t := s.strand.tileState
    let u := matUse s d b z
    let start := s.engineStart .mma 12 u
    let x := s.strandWhen start
    let oa := regOperand (s.vreg a)
    let ob ← bOperand s x t b
    let r ← matFormat s ternary oa.fmt ob.1.fmt
    let old := (s.strandWhen (start + 11)).tiles[d.toNat]
    need (z || decide (old.i48 = !Fmt.isFloat r.1)) formatTrap
    need (!(oa.undef || ob.1.undef)) undefinedTrap
    match indexesEnd x b with
    | some c => Except.error (codebookFault c)
    | none => .ok ()
    need (!((List.range (t.m * t.k)).any oa.marked || (List.range (t.n * t.k)).any ob.1.marked)) poisonTrap
    let v := matTile s old z t r.1 r.2 (tagScale (s.vreg a).tag) oa ob.1
    let w := Nat.max (Fmt.width 64 oa.fmt) (Fmt.width 64 ob.1.fmt)
    let q := s.engine .mma 12 (macWork t.m t.n t.k s.strand.grantCount (macRate ternary w)) u
    .ok (q.1.put q.2 [.tile d v.1] v.2 true))

/-- R250, R252: mma.
DEDUCED (unsafe, log 24). -/
def execMma (d : AReg) (a b : VIdx) (s : State) : Out := .next (s.matrix (.mma d a b) d a (.reg b) false false)

/-- R250, R252: mma.w. -/
def execMmaW (d : AReg) (a : VIdx) (slot : WSlot) (s : State) : Out :=
  .next (s.matrix (.mmaW d a slot) d a (.slot slot) false false)

/-- R250, R252: mma.z. -/
def execMmaZ (d : AReg) (a b : VIdx) (s : State) : Out := .next (s.matrix (.mmaZ d a b) d a (.reg b) true false)

/-- R250, R252: mma.wz. -/
def execMmaWz (d : AReg) (a : VIdx) (slot : WSlot) (s : State) : Out :=
  .next (s.matrix (.mmaWz d a slot) d a (.slot slot) true false)

/-- R250, R253: mma.t. -/
def execMmaT (d : AReg) (a b : VIdx) (s : State) : Out := .next (s.matrix (.mmaT d a b) d a (.reg b) false true)

/-- R250, R253: mma.t with a weight slot. -/
def execMmaTW (d : AReg) (a : VIdx) (slot : WSlot) (s : State) : Out :=
  .next (s.matrix (.mmaTW d a slot) d a (.slot slot) false true)

/-- R250, R253: mma.t from zero. -/
def execMmaTZ (d : AReg) (a b : VIdx) (s : State) : Out := .next (s.matrix (.mmaTZ d a b) d a (.reg b) true true)

/-- R250, R253: mma.t with a weight slot, from zero. -/
def execMmaTWz (d : AReg) (a : VIdx) (slot : WSlot) (s : State) : Out :=
  .next (s.matrix (.mmaTWz d a slot) d a (.slot slot) true true)

/-! ### Weights and codebooks -/

/-- The elements at some addresses, with their pages: alignment, translation, then one grid (R255, R256, priorities 7 to 9). -/
def translateEach (s : State) (acc : Access) : Nat → List Word → Except Stop (List (Nat × Word × Page))
  | _, [] => .ok []
  | i, va :: l => do
    let p ← translate s s.ctx acc va
    let r ← translateEach s acc (i + 1) l
    .ok ((i, va, p) :: r)

/-- The elements that a weight or codebook load reads: `addr` gives the address of element i for an element size in bytes. -/
def engineElts (s : State) (base : Word) (stride : Option Word) (count : Nat) (addr : Nat → Nat → Word) :
    Except Stop (Grid × List Elt) := do
  let p0 ← translate s s.ctx .read base
  let w := p0.grid.width s.strand.wmax / 8
  checkAlign base w
  match stride with
  | some d => if d.toNat % w = 0 then Except.ok () else .error (trapOf 0x05 (base + d))
  | none => .ok ()
  let l ← translateEach s .read 0 ((List.range count).map (fun i => addr i w))
  match l.find? (fun e => e.2.2.grid != p0.grid) with
  | some e => Except.error (trapAt s.ctx .read 0x20 e.2.1 e.2.2.pa)
  | none => .ok ()
  .ok (p0.grid, l.map (fun e => { i := e.1, va := e.2.1, page := e.2.2, j := e.2.1.toNat % 128 / w }))

/-- The sectors that an engine load meets, read in page-sorted order. -/
def engineSectors (s : State) (els : List Elt) : Except Stop (List (Elt × Sector) × State) := do
  let g ← readSectors (plainFetch (s.vecCtx true)) (s.vecCtx true) s (firstOfSectors (pageSorted s els))
  .ok (els.filterMap (fun e => (lookupNat e.sec g.1).map (fun x => (e, x))), g.2)

/-- The fold of R48 over the tags met: format, SCALE, UNDEF; malformed tags first, then what `allowed` refuses. -/
def engineTag (s : State) (met : List (Elt × Sector)) (allowed : Fmt → Bool) : Except Stop (Fmt × Byte × Bool) :=
  match met.find? (fun m => malformedSector m.1.page.grid m.2.tag) with
  | some m => .error (trapAt s.ctx .read 0x08 (sectorVa m.1.va) m.1.page.pa)
  | none =>
    let fold : Except Elt Fmt := match distinctFormats [] (met.map (fun m => (tagFormat m.2.tag, m.1))) with
      | [] => .ok .raw
      | (f, _) :: l => foldFormats (s.core (coreOf s.strandId)) s.strand.bank f l
    match fold, met with
    | .error e, _ => .error (trapAt s.ctx .read 0x09 (sectorVa e.va) e.page.pa)
    | .ok _, [] => .error formatTrap
    | .ok f, m :: _ =>
      if !allowed f then .error (trapAt s.ctx .read 0x09 (sectorVa m.1.va) m.1.page.pa)
      else .ok (f, finishScale f (largestScale (met.map (fun m => m.2.tag))), met.any (fun m => tagVcls m.2.tag == clsUndef))

/-- The micro-scale code u + s - 127 of an element that keeps its bits under SCALE 127 (R42, R255). -/
def joinMicro (sc u : Byte) : Byte :=
  if sc = 0xFF ∨ u = 0xFF then 0xFF
  else
    let e : Int := (u.toNat : Int) + (sc.toNat : Int) - 127
    if e < 0 then 0 else if 254 < e then 254 else BitVec.ofNat 8 e.toNat

/-- An element as a slot or codebook stores it (R48, R255): bits, micro-scale, flags. -/
def storedElem (wmax : Nat) (f : Fmt) (sc : Byte) (m : Elt × Sector) : Word × Byte × Sticky :=
  let slot := m.1.page.grid.width wmax
  let g := tagFormat m.2.tag
  if tagVcls m.2.tag = clsUndef then (0, 127, 0)
  else
    let v := sectorVal slot m.1.page.grid m.2 m.1.j
    let bits := sectorElem slot m.2.bits g m.1.j
    let fl := readFlags g bits
    if Fmt.isMicro f then
      let u := joinMicro (tagScale m.2.tag) (sectorMicro slot m.1.page.grid m.2.bits f m.1.j)
      if tagScale m.2.tag = 127 then (bits, u, fl)
      else let e := encodeEl f sc u .nearest true v; (e.1, u, e.2)
    else let e := encodeEl f sc 127 .nearest false v; (e.1, 127, e.2 ||| fl)

/-- A block of 32 elements of a column for a microscaled slot (R51): sectors of the slot's own format keep their micro-scales (R255), and a
block that meets another format is converted as a whole (R48). -/
def storedBlock (wmax : Nat) (f : Fmt) (sc : Byte) (l : List (Elt × Sector)) : List (Word × Byte × Sticky) :=
  if l.all (fun m => tagVcls m.2.tag == clsUndef || tagFormat m.2.tag == f) then l.map (storedElem wmax f sc)
  else
    let a := l.toArray
    let el (q : Nat) : Elem := match a[q]? with
      | some m =>
        let slot := m.1.page.grid.width wmax
        if tagVcls m.2.tag = clsUndef then .val (.fin false 0 1) 0
        else .val (sectorVal slot m.1.page.grid m.2 m.1.j) (readFlags (tagFormat m.2.tag) (sectorElem slot m.2.bits (tagFormat m.2.tag) m.1.j))
      | none => .keep
    let r := encodeBlock f sc (fun _ => .nearest) 0 false (fun _ => .fin false 0 1) (fun _ => 0) el l.length
    r.1.map (fun w => (w, r.2.1, r.2.2))

/-- The elements that a load met, as its slot stores them: block by block in a microscaled format, `k` to a column. -/
def storedCells (wmax : Nat) (f : Fmt) (sc : Byte) (k : Nat) (met : List (Elt × Sector)) : List (Word × Byte × Sticky) :=
  if !Fmt.isMicro f then met.map (storedElem wmax f sc)
  else (List.range (met.length / k)).flatMap (fun j => (List.range ((k + 31) / 32)).flatMap (fun b =>
    storedBlock wmax f sc ((met.drop (j * k + 32 * b)).take (Nat.min 32 (k - 32 * b)))))

/-- Bytes that a column of a weight slot takes in its buffer, micro-scales included (R247): each column is rounded up to whole bytes, with a
byte for the micro-scale of each of its blocks, and these bytes are the stored bytes of R260.
DESIGN CHOICE (unsafe, log 24). -/
def columnBytes (k w : Nat) (micro : Bool) : Nat := (k * w + 7) / 8 + (if micro then (k + 31) / 32 else 0)

/-- Bytes that the column groups of one buffer take: group c lies in buffer c mod G (R247). -/
def bufferBytes (n g col b : Nat) : Nat :=
  (List.range ((n + 7) / 8)).foldl (fun t c => if c % g = b then t + Nat.min 8 (n - 8 * c) * col else t) 0

/-- The indexed form's one format (R255): UINT4 or UINT8, the same in every sector. -/
def indexTag (s : State) (met : List (Elt × Sector)) : Except Stop (Fmt × Byte × Bool) :=
  let first : Fmt := (met.head?.map (fun m => tagFormat m.2.tag)).getD .raw
  match met.find? (fun m => malformedSector m.1.page.grid m.2.tag) with
  | some m => .error (trapAt s.ctx .read 0x08 (sectorVa m.1.va) m.1.page.pa)
  | none => match met.find? (fun m => !(tagFormat m.2.tag == first && (first == .uint4 || first == .uint8))) with
    | some m => .error (trapAt s.ctx .read 0x09 (sectorVa m.1.va) m.1.page.pa)
    | none => .ok (first, 127, met.any (fun m => tagVcls m.2.tag == clsUndef))

/-- The width at which a weight load would store its elements, for the capacity check that ranks above the tag checks: the result
of the fold as far as it is known. -/
def foldedWidth (s : State) (met : List (Elt × Sector)) : Nat × Bool :=
  match distinctFormats [] ((met.filter (fun m => !malformedSector m.1.page.grid m.2.tag)).map (fun m => (tagFormat m.2.tag, m.1))) with
  | [] => (0, false)
  | (f, _) :: l => match foldFormats (s.core (coreOf s.strandId)) s.strand.bank f l with
    | .ok g => (Fmt.width s.strand.wmax g, Fmt.isMicro g)
    | .error _ => (0, false)

/-- The shape of `wb.load` (R255). -/
def State.weightLoad (s : State) (i : Instr) (w : WSlot) (a b : SReg) (cb : Option CBook) : State :=
  s.engineGate i true (fun s => do
    need s.strand.tileCurrent tileStateFault
    let t := s.strand.tileState
    let base := s.rdS a
    let stride := s.rdS b
    let e ← engineElts s base (some stride) (t.n * t.k)
      (fun i z => base + BitVec.ofNat 64 (i / t.k) * stride + BitVec.ofNat 64 (i % t.k * z))
    let r ← engineSectors s e.2
    let g := s.strand.grantCount
    let known := foldedWidth s r.1
    let size (x : Nat × Bool) : Nat :=
      (List.range g).foldl (fun m q => Nat.max m (bufferBytes t.n g (columnBytes t.k x.1 x.2) q)) 0
    need (decide (size known ≤ 32768)) (capacityFault (size known))
    let tag ← if cb.isSome then indexTag s r.1 else engineTag s r.1 (fun f => !(f == .raw || Fmt.isWide f))
    let cells := if cb.isSome then r.1.map (fun m =>
        ((if tagVcls m.2.tag = clsUndef then 0 else sectorElem (e.1.width s.strand.wmax) m.2.bits tag.1 m.1.j), 127, 0))
      else storedCells s.strand.wmax tag.1 tag.2.1 t.k r.1
    let slot : WeightSlot :=
      { k := t.k, n := t.n, tag := mkTag (if tag.2.2 then clsUndef else clsValid) tag.2.1 (Fmt.code tag.1)
        elems := cells.map (·.1), micro := if Fmt.isMicro tag.1 then cells.map (·.2.1) else []
        marks := (r.1.filter (fun m => tagVcls m.2.tag == clsPoison)).map (fun m => m.1.i), codebook := cb }
    let total := t.n * columnBytes t.k (Fmt.width s.strand.wmax tag.1) (Fmt.isMicro tag.1)
    let q := r.2.engine .wb 24 ((total + 256 * g - 1) / (256 * g)) { EngineUse.none with slot := some w.toNat }
    .ok (q.1.put q.2 [.weight w slot] (cells.foldl (fun m c => m ||| c.2.2) 0) true))

/-- R255: wb.load.
DEDUCED (unsafe, log 24). -/
def execWbLoad (slot : WSlot) (a b : SReg) (s : State) : Out :=
  .next (s.weightLoad (.wbLoad slot a b) slot a b none)

/-- R255: wb.load.cb. -/
def execWbLoadCb (slot : WSlot) (a b : SReg) (cb : CBook) (s : State) : Out :=
  .next (s.weightLoad (.wbLoadCb slot a b cb) slot a b (some cb))

/-- R256: cb.load.
DEDUCED (unsafe, log 24). -/
def execCbLoad (cb : CBook) (a b : SReg) (s : State) : Out :=
  .next (s.engineGate (.cbLoad cb a b) false (fun s => do
    let count := (s.rdS b).toNat
    need (decide (1 ≤ count) && decide (count ≤ 256)) (illegal s (.cbLoad cb a b))
    let base := s.rdS a
    let e ← engineElts s base none count (fun i z => base + BitVec.ofNat 64 (i * z))
    let r ← engineSectors s e.2
    let tag ← engineTag s r.1 (fun f => !(f == .raw || Fmt.isMicro f || Fmt.isWide f || decide (16 < Fmt.width 64 f)))
    let cells := r.1.map (storedElem s.strand.wmax tag.1 tag.2.1)
    let book : Codebook :=
      { tag := mkTag (if tag.2.2 then clsUndef else clsValid) tag.2.1 (Fmt.code tag.1), elems := cells.map (·.1)
        marks := (r.1.filter (fun m => tagVcls m.2.tag == clsPoison)).map (fun m => m.1.i) }
    let q := r.2.engine .wb 24 1 { EngineUse.none with cb := some cb.toNat }
    .ok (q.1.put q.2 [.codebook cb book] (cells.foldl (fun m c => m ||| c.2.2) 0) true)))

/-! ### Accumulator transfers -/

/-- R258: acc.zero. -/
def execAccZero (d : AReg) (i48 : BitVec 1) (s : State) : Out :=
  .next (s.engineGate (.accZero d i48) true (fun s =>
    let q := s.engine .mma 2 1 { EngineUse.none with tile := some d.toNat }
    .ok (q.1.put q.2 [.tile d { i48 := i48 == 1, elems := [] }] 0 true)))

/-- The sectors of a tile image with their pages: alignment, translation, what a write meets, then the RAW grid (R258). -/
def imageSectors (s : State) (acc : Access) (base : Word) (probe : State → Word → Page → Except Stop State) :
    Except Stop (List (Nat × Word × Page)) := do
  need (decide (base.toNat % 128 = 0)) (trapOf 0x05 base)
  let l ← translateEach s acc 0 ((List.range 256).map (fun i => base + BitVec.ofNat 64 (128 * i)))
  let _ ← l.foldlM (fun t e => probe t e.2.1 e.2.2) s
  match l.find? (fun e => e.2.2.grid != .raw) with
  | some e => .error (trapAt s.ctx acc 0x09 (sectorVa e.2.1) e.2.2.pa)
  | none => .ok l

/-- The 64-bit words of an image as `acc.ld` reads them: an UNDEF sector as zero. -/
def imageWords (x : Sector) : List Word :=
  (List.range 16).map (fun i => if tagVcls x.tag = clsUndef then 0 else BitVec.ofNat 64 (x.bytes (8 * i) 8))

/-- The element of an image that `acc.ld` refuses: bits [62:48], or a bit 63 unlike the first's (R258). -/
def imageFault (base : Word) (l : List Word) : Option Word :=
  let k := l.findIdx (fun w => field w 48 15 != 0 || bit w 63 != bit (l.headD 0) 63)
  if k < l.length then some (base + BitVec.ofNat 64 (8 * k)) else none

/-- The sectors of an image as the engine requests them. -/
def imageElts (l : List (Nat × Word × Page)) : List Elt := l.map (fun e => { i := e.1, va := e.2.1, page := e.2.2, j := 0 })

/-- R258: acc.ld.
DEDUCED (unsafe, log 24). -/
def execAccLd (d : AReg) (a : SReg) (s : State) : Out :=
  .next (s.engineGate (.accLd d a) true (fun s => do
    let base := s.rdS a
    let l ← imageSectors s .read base (fun t _ _ => .ok t)
    let els := imageElts l
    let r ← engineSectors s els
    let after (x : Stop) : Stop := x.after (requestsOf els) true
    match r.1.find? (fun p => tagVcls p.2.tag == clsPoison) with
    | some p => Except.error (after (trapAt s.ctx .read 0x0B p.1.va p.1.page.pa))
    | none => .ok ()
    let ws := r.1.flatMap (fun p => imageWords p.2)
    match imageFault base ws with
    | some va => Except.error (after (trapOf 0x44 va))
    | none => .ok ()
    let g := s.strand.grantCount
    let q := r.2.engine .mma 40 ((128 + g - 1) / g) { EngineUse.none with tile := some d.toNat }
    .ok (q.1.put q.2 [.tile d { i48 := bit (ws.headD 0) 63, elems := trimElems (ws.map (fun w => w.setWidth 48)) }] 0 true)))

/-- Sector `i` of a tile's image under the tag 0x1FC0 (R258). -/
def imageSector (t : Tile) (i : Nat) : Sector :=
  { bits := BitVec.ofNat 1024 ((List.range 16).foldl (fun b j =>
      b + ((t.elem (16 * i + j)).toNat + (if t.i48 then 2 ^ 63 else 0)) * 2 ^ (64 * j)) 0)
    tag := tagRaw }

/-- R258: acc.st; every sector's world checks are made before the first is written. -/
def execAccSt (d : AReg) (a : SReg) (s : State) : Out :=
  .next (s.engineGate (.accSt d a) true (fun s => do
    let base := s.rdS a
    let u : EngineUse := { EngineUse.none with tilesRead := [d.toNat] }
    let tile := (s.strandWhen (s.engineStart .mma 4 u + 3)).tiles[d.toNat]
    let all : BitVec 128 := BitVec.allOnes 128
    let l ← imageSectors s .write base (fun t va p => storeSector t (t.vecCtx true) p va all none .probe false)
    let s := s.touchAll (s.vecCtx true) (requestsOf (imageElts l)) true false
    let t ← l.foldlM (fun t e => storeSector t (t.vecCtx true) e.2.2 e.2.1 all none (.whole (imageSector tile e.1)) false) s
    let g := s.strand.grantCount
    .ok (t.engine .mma 4 ((128 + g - 1) / g) u).1))

/-- R259: acc.rd. -/
def execAccRd (d : VIdx) (a : AReg) (b : SReg) (s : State) : Out :=
  .next (s.vecGate (.accRd d a b) true (fun s =>
    let u : EngineUse := { EngineUse.none with tilesRead := [a.toNat] }
    let tile := (s.strandWhen (s.engineStart .mma 4 u + 3)).tiles[a.toNat]
    if s.strand.tooWide tile.fmt then s.stop (vecStop widthTrap)
    else if s.strand.vl ≤ s.strand.sys.vstart.toNat then (s.engine .mma 4 (s.strand.beats 64) u).1.vecEnd none
    else
      let base := (s.rdS b).toNat
      let o : VecOp :=
        { fmt := tile.fmt, scale := 127, sat := false, fs := false, undef := false, marked := fun _ => false
          el := fun i => .bits ((tile.elem (base + i)).setWidth 64), rm := fun _ => .nearest }
      let r := s.vecResult d o s.strand.vl
      let q := s.engine .mma 4 (s.strand.beats 64) u
      (q.1.putV q.2 d r.1 r.2).vecEnd none))

/-- R259: acc.rd.s. -/
def execAccRdS (d : SReg) (a : AReg) (b : SReg) (s : State) : Out :=
  .next (s.onStrand (fun s => s.guarded (fun s =>
    let e := s.rdS b
    if 4096 ≤ e.toNat then s.stop (illegal s (.accRdS d a b))
    else if s.strand.grant = 0 then s.stop leaseAbsent
    else
      let u : EngineUse := { EngineUse.none with tilesRead := [a.toNat] }
      let tile := (s.strandWhen (s.engineStart .mma 4 u + 3)).tiles[a.toNat]
      let v := tile.elem e.toNat
      let q := s.engine .mma 4 1 u
      (q.1.putS q.2 d (if tile.i48 then v.signExtend 64 else v.setWidth 64) 0 true).retire)))

end Sys2Proof.Machine
end

