-- ==== Sys2Proof/Machine/QueueOps.lean ====
section
/-! DEFINITION. Tagged queues (R176 to R181, R241, R242): bindings, pushes, pops, peeks and the queue branch. -/

namespace Sys2Proof.Machine

/-- A queue of the strand's core, if a binding names it. -/
def State.queueOf (s : State) (q : Nat) : Option Queue := lookupNat q (s.core (coreOf s.strandId)).queues

/-- The queue-binding and the queue-kind fault (R147): the binding number. -/
def bindingFault (d : QReg) : Stop := trapOf 0x23 (d.setWidth 64)
def kindFault (d : QReg) : Stop := trapOf 0x24 (d.setWidth 64)

/-- What every queue instruction first checks (R149, R181): no world, a valid binding.
DEDUCED (unsafe, log 19). -/
def State.boundQueue (s : State) (d : QReg) : Except Stop (Nat × Queue) :=
  if s.strand.depth ≠ 0 then .error escape
  else match s.strand.q[d.toNat] with
    | none => .error (bindingFault d)
    | some q => match s.queueOf q.toNat with
      | none => .error (bindingFault d)
      | some x => .ok (q.toNat, x)

/-- A strand's binding goes. -/
def State.clearBinding (s : State) (d : Nat) (hd : d < 8) : State :=
  match s.strand.q[d] with
  | none => s
  | some q =>
    let t := s.unbindQueue (coreOf s.strandId) q.toNat
    { t with strand := { t.strand with q := t.strand.q.set d none } }

/-- Results of the strand's older queue instructions have yet to land: entries of loads, and what pops and peeks have read (R177, R182). -/
def pushesPending (x : Strand) : Bool := x.sched.commits.any (fun c => c.queue || c.dests.any (fun d => match d with
  | .queue _ _ => true
  | _ => false))

/-- The pending results that an instruction has added since `s` are those of a queue instruction. -/
def State.fromQueue (t s : State) : State :=
  let n := s.strand.sched.commits.length
  let l := t.strand.sched.commits
  { t with strand := { t.strand with sched := { t.strand.sched with
      commits := l.take n ++ (l.drop n).map (fun c => { c with queue := true }) } } }

/-- A push is a write of its agent, a pop or a peek a read (R242): what the pusher knows of writes on their way, the taker knows. -/
def State.tellsQueue (s : State) (q : Nat) (vec : Bool) : State :=
  s.informs (.agent s.strandId vec) (.queue (coreOf s.strandId) q)
def State.learnsQueue (s : State) (q : Nat) (vec : Bool) : State :=
  s.informs (.queue (coreOf s.strandId) q) (.agent s.strandId vec)

/-- R177: qbind. -/
def execQbind (d : QReg) (a : SReg) (s : State) : Out :=
  .next (s.onStrand (fun s =>
    let x := s.rdS a
    let q := field x 0 6
    let op := field x 6 2
    if field x 8 56 ≠ 0 ∨ op = 3 ∨ (op = 2 ∧ q ≠ 0) then s.stop (illegal s (.qbind d a))
    else if s.strand.depth ≠ 0 then s.stop escape
    else if pushesPending s.strand then s.stop (.wait .pushes)
    else if op = 2 then (s.clearBinding d.toNat d.isLt).retire
    else
      let foreign := match s.queueOf q with
        | some y => y.owner != s.strand.asid
        | none => false
      if foreign then s.stop (bindingFault d)
      else
        let s := s.clearBinding d.toNat d.isLt
        let y := (s.queueOf q).getD { owner := s.strand.asid, bindings := 0, entries := [], at_ := 0, fresh := 0 }
        let y := if op = 1 then { y with entries := [], fresh := 0 } else y
        let y := { y with bindings := y.bindings + 1 }
        let c := coreOf s.strandId
        let s := s.setCore c { s.core c with queues := insertNat q y (s.core c).queues }
        { s with strand := { s.strand with q := s.strand.q.set d.toNat (some (BitVec.ofNat 6 q)) } }.retire))

/-! ### Pushes (R178) -/

/-- The entries that loads of the core have yet to put into a queue (R182). -/
def pendingPushes (s : State) (q : Nat) : Nat :=
  (s.occupied.filter (fun p => coreOf p.1 == coreOf s.strandId)).foldl (fun n p =>
    n + ((p.2.sched :: p.2.heldRegion).foldl (fun n r =>
      n + (r.commits.filter (fun c => c.dests.any (fun d => match d with
        | .queue k _ => k == q
        | _ => false))).length) 0)) 0

/-- A push waits while its queue is full (R181).
DEDUCED (unsafe, log 19). -/
def State.roomIn (s : State) (q : Nat) (x : Queue) : Except Stop Unit :=
  if x.entries.length + pendingPushes s q < 16 then .ok () else .error (.wait (.queue q (x.ripe s.cycle).length))

/-- Put an entry at the tail. -/
def State.enqueue (s : State) (q : Nat) (e : QEntry) (vec : Bool) : State :=
  (s.setQueue q (fun x => x.push s.cycle e)).tellsQueue q vec

/-- The positions of a slot-layout entry (R176). -/
def entryLength (w : Nat) : Nat := 2048 / w

/-- The pushes of the positions given, entry by entry (R178): before each one sys.vstart names its first position. -/
def pushSlots (d : QReg) (r : VReg) (w : Nat) : Nat → List Nat → State → State × Option Stop
  | 0, _, s => (s, none)
  | _ + 1, [], s => (s, none)
  | fuel + 1, i :: l, s =>
    let s : State := { s with strand := s.strand.setVstart i }
    match s.boundQueue d with
    | .error x => (s, some x)
    | .ok (q, x) => match s.roomIn q x with
      | .error x => (s, some x)
      | .ok _ =>
        let ps := (i :: l).take (entryLength w)
        let e := QEntry.slots (mkTag (if r.isUndef then clsUndef else clsValid) (tagScale r.tag) (tagFmt r.tag)) w
          (ps.map r.slot) []
        pushSlots d r w fuel ((i :: l).drop (entryLength w)) (s.enqueue q e true)

/-- R178: qpush.v.
DEDUCED (unsafe, log 19). -/
def execQpushV (d : QReg) (a : VIdx) (s : State) : Out :=
  .next (s.vecGate (.qpushV d a) true (fun s =>
    let r := s.vreg a
    match s.boundQueue d with
    | .error x => s.stop (vecStop x)
    | .ok _ =>
      if s.strand.tooWide r.fmt then s.stop (vecStop widthTrap)
      else if Fmt.isMicro r.fmt then s.stop (vecStop formatTrap)
      else if s.strand.vl ≤ s.strand.sys.vstart.toNat then s.memEnd none
      else
        let bad := s.firstActive r.marked
        let ps := s.actives.filter (fun i => match bad with
          | some k => decide (i < k)
          | none => true)
        let t := pushSlots d r (slotWidth s.strand.wmax r.fmt) (ps.length + 1) ps s
        match t.2, bad with
        | some x, _ => t.1.stop (vecStop x)
        | none, some k => t.1.memEnd (some (k, poisonTrap))
        | none, none => t.1.memEnd none))

/-- The shape of the scalar pushes. -/
def State.pushScalar (s : State) (d : QReg) (branch : Bool) (v : Word) : State :=
  s.onStrand (fun s => s.guarded (fun s =>
    match s.boundQueue d with
    | .error x => s.stop x
    | .ok (q, x) => match s.roomIn q x with
      | .error x => s.stop x
      | .ok _ => (s.enqueue q (.scalar branch v false) false).retire))

/-- R178: qpush.s. -/
def execQpushS (d : QReg) (a : SReg) (s : State) : Out := .next (s.pushScalar d false (s.rdS a))

/-- R178: qpush.b. -/
def execQpushB (d : QReg) (a : SReg) (s : State) : Out := .next (s.pushScalar d true (s.rdS a))

/-- R178: vld.q loads an aligned sector as one entry, which enters the queue at its commit (R182). Its binding ranks above the checks of its
access (R149); in a world it is the world-escape fault behind a translation fault (R181, R218).
DEDUCED (unsafe, log 19). -/
def execVldQ (d : QReg) (base : SReg) (off : BitVec 10) (s : State) : Out :=
  .next (s.onStrand (fun s => s.guarded (fun s =>
    let va := effAddr (s.rdS base) off 128
    let r : Except Stop State := do
      let _ ← if s.strand.depth = 0 then (s.boundQueue d).map (fun _ => ()) else .ok ()
      checkAlign va 128
      let p ← translate s s.ctx .read va
      need (s.strand.depth == 0) (trapAt s.ctx .read 0x30 va p.pa)
      let b ← s.boundQueue d
      let x ← loadSector s (s.vecCtx false) p va false
      checkTag s .read p va x.1.tag
      s.roomIn b.1 b.2
      let q := x.2.occupy .ld 24 0 1
      .ok ((q.1.put q.2 [.queue b.1 (.sector x.1 (Grid.code p.grid) 0)] 0 true).tellsQueue b.1 true).retire
    match r with
    | .ok t => t
    | .error x => s.stop (vecStop x))))

/-! ### Vector pops and peeks (R179) -/

/-- One element of an entry as a pop takes it: the tag it has, what it puts, and whether it carries a mark. -/
structure Taken where
  tag : Tag
  grid : Grid
  value : Val
  raw : Word
  fl : Sticky
  mark : Bool

/-- The elements of an entry that are left, in order; none for a scalar entry. -/
def QEntry.elements (wmax : Nat) : QEntry → Option (List Taken)
  | .slots tag w elems marks => some ((List.range elems.length).map (fun k =>
      let f := tagFormat tag
      let e := cutBits (Fmt.width w f) (elems.getD k 0)
      { tag := tag, grid := .raw, value := decodeEl f (tagScale tag) 127 e, raw := e, fl := readFlags f e, mark := marks.contains k }))
  | .sector sec grid taken =>
    let g := Grid.ofBits grid
    let slot := g.width wmax
    let undef := tagVcls sec.tag == clsUndef
    let f := tagFormat sec.tag
    some (((List.range (sectorCount slot g)).drop taken).map (fun j =>
      let e := if undef then 0 else sectorElem slot sec.bits f j
      { tag := sec.tag, grid := g
        value := if undef then decodeEl f (tagScale sec.tag) 127 0 else sectorVal slot g sec j
        raw := e, fl := if undef then 0 else readFlags f e, mark := tagVcls sec.tag == clsPoison }))
  | .scalar _ _ _ => none

/-- The entry without its first `n` elements. -/
def QEntry.drop (e : QEntry) (n : Nat) : QEntry :=
  match e with
  | .slots tag w elems marks => .slots tag w (elems.drop n) (marks.filterMap (fun k => if n ≤ k then some (k - n) else none))
  | .sector sec grid taken => .sector sec grid (taken + n)
  | .scalar b v bad => .scalar b v bad

/-- What the entries of a queue give to the positions in order: pairs of a position and an element, the entries that are left,
the positions left, whether a scalar entry stopped it, and whether a microscaled sector begins at a wrong position. -/
def takeElements (wmax : Nat) : List QEntry → List Nat → List (Nat × Taken) × List QEntry × List Nat × Bool × Bool
  | es, [] => ([], es, [], false, false)
  | [], ps => ([], [], ps, false, false)
  | e :: es, i :: ps => match e.elements wmax with
    | none => ([], e :: es, i :: ps, true, false)
    | some l =>
      let micro := match l with
        | t :: _ => Fmt.isMicro (tagFormat t.tag) && i % 32 != 0
        | [] => false
      let n := Nat.min l.length (i :: ps).length
      let here := (i :: ps).zip l
      if micro then ([], e :: es, i :: ps, false, true)
      else if n < l.length then (here, e.drop n :: es, [], false, false)
      else
        let r := takeElements wmax es ((i :: ps).drop n)
        (here ++ r.1, r.2)

/-- A fold of R48 as far as it has come: the distinct formats met, its format, and the largest scale. -/
structure Fold where
  seen : List Fmt
  fmt : Fmt
  scale : Option Int
deriving DecidableEq, Repr

/-- The fold of R48 with one tag more: a format that has been met changes only the scale; none for TRAP. -/
def foldTaken (c : CoreSt) (bank : BitVec 2) (start : Option Fold) (t : Tag) : Option Fold :=
  let f := tagFormat t
  let sc := scaleTerm (tagScale t)
  match start with
  | none => some { seen := [f], fmt := f, scale := sc }
  | some z =>
    if z.seen.contains f then some { z with scale := scaleMax z.scale sc }
    else
      let r := blend c bank z.fmt f
      if r.2 = .trap then none else some { seen := f :: z.seen, fmt := r.1, scale := scaleMax z.scale sc }

/-- The elements taken, cut where an entry changes the fold (R48, R179): each run with the fold it is written under; none for TRAP. -/
def foldRuns (c : CoreSt) (bank : BitVec 2) (start : Option Fold) : List (Nat × Taken) → Option (List (Fold × List (Nat × Taken)))
  | [] => some []
  | g :: l => match foldTaken c bank start g.2.tag with
    | none => none
    | some f => match foldRuns c bank (some f) l with
      | none => none
      | some [] => some [(f, [g])]
      | some ((h, r) :: rest) =>
        some (if f.fmt = h.fmt ∧ f.scale = h.scale then (h, g :: r) :: rest else (f, [g]) :: (h, r) :: rest)

/-- The register after a pop has filled positions from `start` to below `k` (R47, R48, R179); `more`: it goes on with what it has taken. -/
def popRegister (x : Strand) (guard : Nat → Bool) (old : VReg) (more : Bool) (start k : Nat) (f : Fmt) (sc : Byte)
    (got : List (Nat × Taken)) : VReg × Sticky :=
  let undef := got.any (fun g => tagVcls g.2.tag == clsUndef) || (more && old.isUndef)
  let el (i : Nat) : Elem :=
    if i < start ∨ k ≤ i then .keep
    else if guard i then match lookupNat i got with
      | some t => if f = .raw then .bits t.raw else .val t.value t.fl
      | none => .keep
    else if x.mz then .bits 0 else .keep
  let r := writeReg x.wmax (x.positions old.fmt) (x.positions f) k old (if undef then clsUndef else clsValid) f sc false
    (fun _ => .nearest) el
  let marks := got.foldl (fun (m : PosBits) g => if g.2.mark then m ||| BitVec.twoPow 131072 g.1 else m) 0
  if marks = 0 then r else ({ r.1 with marks := r.1.marks ||| marks, tag := mkTag clsPoison sc (Fmt.code f) }, r.2)

/-- The SCALE of a fold (R48). -/
def Fold.tagScale (z : Fold) : Byte := if z.fmt = .raw then 127 else finishScale z.fmt z.scale

/-- The register after the runs of a pop, one after another: what earlier ones have written is converted where the fold changes (R47,
R179). The last run goes up to `k`. -/
def popRuns (x : Strand) (guard : Nat → Bool) (k : Nat) :
    VReg × Sticky × Bool × Nat → List (Fold × List (Nat × Taken)) → VReg × Sticky
  | a, [] => (a.1, a.2.1)
  | (old, fl, more, start), r :: l =>
    let stop := if l.isEmpty then k else (r.2.getLastD (start, { tag := 0, grid := .raw, value := .nan, raw := 0, fl := 0, mark := false })).1 + 1
    let w := popRegister x guard old more start stop r.1.fmt r.1.tagScale r.2
    popRuns x guard k (w.1, fl ||| w.2, true, stop) l

/-- A vector pop (R179): it fills the active positions from sys.vstart upward. A wait keeps the fold so far and leaves
sys.vstart at the first position not filled; a trap of the tag pass takes nothing. -/
def popVector (d : VIdx) (a : QReg) (q : Nat) (x : Queue) (s : State) : State :=
  let ps := s.actives
  let r := takeElements s.strand.wmax (x.ripe s.cycle) ps
  let got := r.1
  let start : Option Fold := match s.strand.progress with
    | some (.fold l f m) => some { seen := l, fmt := f, scale := m }
    | _ => none
  let formats := got.map (fun g => tagFormat g.2.tag)
  match got, foldRuns (s.core (coreOf s.strandId)) s.strand.bank start got with
  | [], _ =>
    if ps.isEmpty then
      -- no position is active: masked-off positions follow MZ under the register's own tag
      let old := s.vreg d
      let t := loadRegister s d s.strand.vl old.fmt (tagScale old.tag) old.isUndef []
      let o := s.occupy .q 3 0 (s.strand.beats (slotWidth s.strand.wmax old.fmt))
      ((o.1.putV o.2 d t.1 0).fromQueue s).memEnd none
    else if r.2.2.2.1 then s.stop (vecStop (kindFault a))
    else if r.2.2.2.2 then s.stop (vecStop formatTrap)
    else s.stop (.wait (.queue q (x.ripe s.cycle).length))
  | _, none => if formats.any s.strand.tooWide then s.stop (vecStop widthTrap) else s.stop (vecStop formatTrap)
  | _, some runs =>
    let fold := (runs.getLastD ({ seen := [], fmt := .raw, scale := none }, [])).1
    if formats.any s.strand.tooWide || runs.any (fun r => s.strand.tooWide r.1.fmt) then s.stop (vecStop widthTrap)
    else
      let left := r.2.2.1
      let k := left.headD s.strand.vl
      let t := popRuns s.strand s.guardAt k (s.vreg d, 0, s.strand.progress.isSome, s.strand.sys.vstart.toNat) runs
      let s1 := (s.setQueue q (fun y => y.leave s.cycle r.2.1)).learnsQueue q true
      let o := s1.occupy .q 3 0 (s.strand.beatsTo k (slotWidth s.strand.wmax fold.fmt))
      match left with
      | [] =>
        let u := (o.1.putV o.2 d t.1 t.2).fromQueue s
        { u with strand := { u.strand with progress := none } }.memEnd none
      | k :: _ =>
        let u := s1.landV d t.1 t.2
        let u : State := { u with strand := { (u.strand.setVstart k) with progress := some (.fold fold.seen fold.fmt fold.scale) } }
        if r.2.2.2.1 then u.memEnd (some (k, kindFault a))
        else if r.2.2.2.2 then u.memEnd (some (k, formatTrap))
        else u.stop (.wait (.queue q r.2.1.length))

/-- A vector pop or peek with no position left takes its class all the same (R126, R182). -/
def State.skipPop (s : State) (d : VIdx) : State := s.vecSkip .q 3 0 (s.strand.beats (slotWidth s.strand.wmax (s.vreg d).fmt))

/-- R179: qpop.v. -/
def execQpopV (d : VIdx) (a : QReg) (s : State) : Out :=
  .next (s.vecGate (.qpopV d a) true (fun s =>
    match s.boundQueue a with
    | .error x => s.stop (vecStop x)
    | .ok (q, x) =>
      if s.strand.vl ≤ s.strand.sys.vstart.toNat then s.skipPop d else popVector d a q x s))

/-- R179: qpeek.v takes the same elements and removes nothing; more elements than 16 entries hold is the queue-capacity
fault.
DEDUCED (unsafe, log 19). -/
def execQpeekV (d : VIdx) (a : QReg) (s : State) : Out :=
  .next (s.vecGate (.qpeekV d a) true (fun s =>
    match s.boundQueue a with
    | .error x => s.stop (vecStop x)
    | .ok (q, x) =>
      if s.strand.vl ≤ s.strand.sys.vstart.toNat then s.skipPop d
      else
        let r := takeElements s.strand.wmax (x.ripe s.cycle) s.actives
        if !r.2.2.1.isEmpty && !r.2.2.2.1 && !r.2.2.2.2 then
          (if 16 ≤ x.entries.length ∨ 16 * entryLength 8 < s.actives.length then
            s.stop (vecStop (trapOf 0x25 (a.setWidth 64)))
          else s.stop (.wait (.queue q (x.ripe s.cycle).length)))
        else if r.2.2.2.1 then s.stop (vecStop (kindFault a))
        else if r.2.2.2.2 then s.stop (vecStop formatTrap)
        else
          let t := popVector d a q x s
          t.setQueue q (fun y => { y with entries := x.entries, fresh := x.fresh, at_ := x.at_ })))

/-! ### Scalar pops, peeks and the branch (R179, R180) -/

/-- The head of a queue as a scalar entry: a wait where the queue is empty, the kind fault, the poison trap of a bad entry
(R241). -/
def scalarHead (a : QReg) (q : Nat) (x : Queue) (now : Word) (branchOnly : Bool) : Except Stop Word :=
  match x.ripe now with
  | [] => .error (.wait (.queue q 0))
  | .scalar b v bad :: _ =>
    if branchOnly && !b then .error (kindFault a) else if bad then .error poisonTrap else .ok v
  | _ => .error (kindFault a)

/-- The shape of `qpop.s` and `qpeek.s`. -/
def State.popScalar (s : State) (d : SReg) (a : QReg) (removes : Bool) : State :=
  s.onStrand (fun s => s.guarded (fun s =>
    match s.boundQueue a with
    | .error x => s.stop x
    | .ok (q, x) => match scalarHead a q x s.cycle false with
      | .error x => s.stop x
      | .ok v =>
        let t := (if removes then s.setQueue q (fun y => { y with entries := y.entries.tail }) else s).learnsQueue q false
        ((t.putS 3 d v 0).fromQueue t).retire))

/-- R179: qpop.s. -/
def execQpopS (d : SReg) (a : QReg) (s : State) : Out := .next (s.popScalar d a true)

/-- R179: qpeek.s. -/
def execQpeekS (d : SReg) (a : QReg) (s : State) : Out := .next (s.popScalar d a false)

/-- R180: qbr removes the head and branches when its value is not zero. -/
def execQbr (a : QReg) (off : BitVec 19) (s : State) : Out :=
  .next (s.onStrand (fun s =>
    match s.boundQueue a with
    | .error x => s.stop x
    | .ok (q, x) => match scalarHead a q x s.cycle true with
      | .error x => s.stop x
      | .ok v =>
        let t := (s.setQueue q (fun y => { y with entries := y.entries.tail })).learnsQueue q false
        if v = 0 then t.retire else t.retireTo (branchTarget t.pc off)))

/-- R181: the wait of a queue instruction ends when the queue has changed; the instruction runs again. -/
def execQueueWaitEnd (g : Nat) (s : State) : Out :=
  .next (s.onWait g (fun x => match x.wait with
    | some (.queue q n) => match lookupNat q (s.core (coreOf g)).queues with
      | some y => (y.ripe s.cycle).length != n
      | none => true
    | _ => false) Strand.rerun)

end Sys2Proof.Machine
end

