-- ==== Sys2Proof/Machine/Sync.lean ====
section
/-! DEFINITION. Fences (R159, R193, R194), join counters (R162), round counts with their homes, mirrors and shadows (R163, R164,
R372, R373), and the events that end their waits. -/

namespace Sys2Proof.Machine

/-! ### Fences -/

/-- A fence (R193, R194): beyond its strand what it orders has performed in every state (log 1), but for the strand's copies, which the
kinds that order vector-agent events before it wait for (R269), and at fabric scope for the writes to host and peer memory that its first
agents (`sc`, `ve`) know of (R397). `sv` and `vs` say that it orders the scalar agent before the vector agent and back. -/
def State.fence (s : State) (scope : Scope) (sc ve sv vs : Bool) : State :=
  let r : Except Stop Unit := do
    if ve then copiesDone s else .ok ()
    fabricRelease s scope sc ve
  match r with
  | .ok _ => (s.orders sv vs (sv && vs)).retire
  | .error x => s.stop x

/-- R159: fence.sv. -/
def execFenceSv (scope : Scope) (s : State) : Out := .next (s.onStrand (fun s => s.fence scope true false true false))

/-- R159: fence.vs. -/
def execFenceVs (scope : Scope) (s : State) : Out := .next (s.onStrand (fun s => s.fence scope false true false true))

/-- R159: fence.vv. -/
def execFenceVv (scope : Scope) (s : State) : Out := .next (s.onStrand (fun s => s.fence scope false true false false))

/-- R159: fence.all, which a barista runs too (R325).
DESIGN CHOICE (unsafe, log 1). -/
def execFenceAll (scope : Scope) (s : State) : Out := .next (s.fence scope true true true true)

/-! ### Join counters (R162) -/

/-- The counters still above 0 among the positions given, and the lines they lie on. -/
def unmetCounters (s : State) (base : Word) : List Nat → Except Stop (List Nat × List Nat × State)
  | [] => .ok ([], [], s)
  | i :: l => do
    let va := base + BitVec.ofNat 64 (8 * i)
    let r ← loadBytes s va 8
    let p ← translate s s.ctx .read va
    let t ← unmetCounters r.2 base l
    if (BitVec.ofNat 64 r.1).toInt ≤ 0 then .ok (t.1, t.2.1, t.2.2.acquire va) else .ok (i :: t.1, (p.pa / 512) :: t.2.1, t.2.2)

/-- The predicate bits of a list of positions. -/
def bitsAt (l : List Nat) : PosBits := l.foldl (fun p i => p ||| BitVec.twoPow 131072 i) 0

/-- R162: vwait. The counters found at or below 0 stay met while the wait goes on. -/
def execVwait (d : PReg) (a b : SReg) (_scope : Scope) (s : State) : Out :=
  .next (s.onStrand (fun s =>
    let m := Nat.max s.strand.vl 1
    let w : PosBits := match s.strand.progress with
      | some (.unmet left) => left
      | _ => s.rdP d
    match unmetCounters s (s.rdS a) ((List.range m).filter (fun i => w.getLsbD i)) with
    | .error x => s.stop x
    | .ok (left, lines, t) =>
      if left.isEmpty || decide (s.rdS b ≤ s.cycle) then
        ({ t with strand := { t.strand with progress := none, monitors := [], watchHit := false } }.putP 1 d (bitsAt left) 0).retire
      else
        { t with strand := { t.strand with progress := some (.unmet (bitsAt left)), monitors := lines, watchHit := false } }.stop
          (.wait (.vwait (s.rdS b)))))

/-- R162: a watched line was written; the counters are read again. -/
def execVwaitWake (g : Nat) (s : State) : Out :=
  .next (s.onWait g (fun x => match x.wait with
    | some (.vwait _) => x.watchHit
    | _ => false) (fun x => { x.rerun with watchHit := false, monitors := [] }))

/-- R162: the deadline of a `vwait` has come. -/
def execVwaitDeadline (g : Nat) (s : State) : Out :=
  .next (s.onWait g (fun x => match x.wait with
    | some (.vwait t) => decide (t ≤ s.cycle)
    | _ => false) (fun x => { x.rerun with watchHit := false, monitors := [] }))

/-! ### Round counts -/

/-- A region that nobody has touched (R372). -/
def Region.reset : Region :=
  { valid := false, was := false, at_ := 0, owner := 0, count := 0, mirrors := Vector.replicate 4 0, landing := none, pending := [] }

/-- Every mirror holds the home count (R373). -/
def Region.mirrored (r : Region) : Bool := r.mirrors == Vector.replicate 4 r.count

def State.region (s : State) (rg : Nat) : Region := (lookupNat rg s.regions).getD Region.reset
def State.setRegion (s : State) (rg : Nat) (r : Region) : State := { s with regions := insertNat rg r s.regions }

/-- A region is owned by an address space (R372). -/
def ownsRegion (s : State) (rg : Nat) (asid : BitVec 12) : Bool := (s.region rg).valid && (s.region rg).owner == asid

/-- The checks that `round.adv` and `round.rd` share (R164). -/
def checkRegion (s : State) (i : Instr) (x : Word) : Except Stop Nat :=
  if field x 10 54 ≠ 0 then .error (illegal s i)
  else if !ownsRegion s (field x 0 10) s.strand.asid then .error (trapOf 0x26 (BitVec.ofNat 64 (field x 0 10)))
  else .ok (field x 0 10)

/-- A region's count goes up by one at its home stack, whose own mirror holds it at once (R163, R373). -/
def Region.advance (r : Region) (rg : Nat) : Region :=
  { r with count := r.count + 1, mirrors := r.mirrors.set (rg / 256 % 4) (r.count + 1) (Nat.mod_lt _ (by decide)) }

/-- R164: round.adv increments the home count once the strand's engine writes have performed, and returns the new count when
the mirrors hold it (R373); its checks stand before the increment alone.
DEDUCED (unsafe, log 48). -/
def execRoundAdv (d a : SReg) (s : State) : Out :=
  .next (s.onStrand (fun s => match s.strand.progress with
    | some (.round n) => ({ s with strand := { s.strand with progress := none } }.putS 1 d n 0).retire
    | _ => match checkRegion s (.roundAdv d a) (s.rdS a) with
      | .error x => s.stop x
      | .ok rg =>
        if s.strand.depth ≠ 0 then s.stop escape
        else if !(copiesOf s s.strandId).isEmpty then s.stop (.wait .engine)
        else
          let r := s.region rg
          let t := s.setRegion rg (r.advance rg)
          let t := (t.informs (.agent s.strandId false) (.region rg)).informs (.agent s.strandId true) (.region rg)
          { t.releases s.strandId with strand := { t.strand with progress := some (.round (r.count + 1)) } }.stop (.wait (.roundMirrors rg))))

/-- R164: round.rd writes the own die's shadow, with L = 4. -/
def execRoundRd (d a : SReg) (s : State) : Out :=
  .next (s.onStrand (fun s => s.guarded (fun s =>
    match checkRegion s (.roundRd d a) (s.rdS a) with
    | .error x => s.stop x
    | .ok rg =>
      let t := (s.informs (.region rg) (.agent s.strandId false)).informs (.region rg) (.agent s.strandId true)
      ((t.acquires s.strandId).putS 4 d (shadowOf s (dieOf s.strandId) rg) 0).retire)))

/-- A count goes out to the shadows of all four dies, after every earlier multicast (R164, R372). -/
def State.multicast (s : State) (rg : Nat) (n : Word) : State :=
  (List.range 4).foldl (fun s d => s.setDie d { s.die d with multicasts := (s.die d).multicasts ++ [(rg, n)] }) s

/-- R373: all four mirrors hold the new count; the `round.adv` returns and the multicast follows.
DEDUCED (unsafe, log 48). -/
def execRoundMirrorsComplete (region : Nat) (s : State) : Out :=
  .next (
    let r := s.region region
    if r.mirrored then s
    else
      let t := (s.setRegion region { r with mirrors := Vector.replicate 4 r.count }).multicast region r.count
      let t : State := { t with baristas := t.baristas.map (fun q =>
        (q.1, if q.2.wait == some (.roundMirrors region) then { q.2 with wait := none } else q.2)) }
      t.mapStrands (fun _ x => if x.wait == some (.roundMirrors region) then x.finishing else x))

/-- A region's count is on its way (R372): to the mirrors, to a shadow, or an RGCNT write that has not landed. -/
def regionInFlight (s : State) (rg : Nat) : Bool :=
  let r := s.region rg
  !r.mirrored || r.landing.isSome || (List.range 4).any (fun d => (s.die d).multicasts.any (fun m => m.1 == rg))

/-- VALID as it stood before a clock (R372). -/
def Region.validBefore (r : Region) (now : Word) : Bool := if r.at_ = now then r.was else r.valid

/-- A write of RGCTL takes effect in a clock (R372). -/
def Region.control (r : Region) (now w : Word) : Region :=
  { r with owner := w.setWidth 12, was := r.validBefore now, at_ := now, valid := bit w 12 }

/-- The host writes of a region that wait take effect in order (R372): one of RGCTL once nothing is in flight, one of RGCNT unless the
region was valid before the clock, behind one that has not landed. -/
def settlePending (now : Word) (inFlight : Bool) : List RegionWrite → Region → Region
  | [], r => { r with pending := [] }
  | .control w :: l, r =>
    if inFlight || r.landing.isSome then { r with pending := .control w :: l } else settlePending now inFlight l (r.control now w)
  | .count n :: l, r =>
    if r.validBefore now then settlePending now inFlight l r
    else if r.landing.isSome then { r with pending := .count n :: l }
    else settlePending now inFlight l { r with landing := some n }

def State.settleRegion (s : State) (rg : Nat) : State :=
  let r := s.region rg
  if r.pending.isEmpty then s else s.setRegion rg (settlePending s.cycle (regionInFlight s rg) r.pending r)

/-- A host write of RGCTL or of RGCNT of a region joins those that wait (R372). -/
def State.writeRegion (s : State) (rg : Nat) (w : RegionWrite) : State :=
  let r := s.region rg
  (s.setRegion rg { r with pending := r.pending ++ [w] }).settleRegion rg

/-- The first multicast of a region in a die's list, and the rest.
DEDUCED (unsafe, log 48). -/
def takeMulticast (rg : Nat) : List (Nat × Word) → Option (Word × List (Nat × Word))
  | [] => none
  | m :: l => if m.1 = rg then some (m.2, l) else match takeMulticast rg l with
    | some r => some (r.1, m :: r.2)
    | none => none

/-- R164: a multicast reaches a die's shadow. -/
def execShadowMulticastArrival (die region : Nat) (s : State) : Out :=
  .next (match takeMulticast region (s.die die).multicasts with
    | none => s
    | some (n, l) =>
      (s.setDie die { s.die die with multicasts := l, shadows := insertNat region n (s.die die).shadows }).settleRegion region)

/-- The current copies of a region in a slice take a count as STAMP, and its STALE ones drop (R372). -/
def restampSlots (region : Nat) (n : Word) (l : List (Nat × Slot)) : List (Nat × Slot) :=
  (l.filter (fun e => !(e.2.stale && e.2.region == some region))).map (fun e =>
    if e.2.region = some region ∧ e.1 % 4096 = 0 then (e.1, { e.2 with stamp := n }) else e)

/-- The same in an LLC line. -/
def LlcLine.restamp (e : LlcLine) (region : Nat) (n : Word) : LlcLine :=
  { e with slots := e.slots.map (fun q => if q.2.region = some region then (q.1, { q.2 with stamp := n }) else q) }

/-- R372: an RGCNT write lands: the mirrors hold it, STALE copies of the region drop, current ones take it as STAMP, and it goes out
to the shadows. -/
def execRgcntLand (region : Nat) (s : State) : Out :=
  .next (
    let r := s.region region
    match r.landing with
    | none => s
    | some n =>
      let t := s.setRegion region { r with landing := none, count := n, mirrors := Vector.replicate 4 n }
      let t : State := { t with
        dies := t.dies.map (fun q => (q.1, { q.2 with slots := restampSlots region n q.2.slots }))
        llc := t.llc.map (fun e => if e.1 % 4096 = 0 then (e.1, e.2.restamp region n) else e) }
      (t.multicast region n).settleRegion region)

/-- R166: the shadow has reached the round that a bounded load requires; the load runs again. -/
def execBoundedLoadWaitEnd (g : Nat) (s : State) : Out :=
  .next (s.onWait g (fun x => match x.wait with
    | some (.bounded rg n) => roundAtLeast (shadowOf s (dieOf g) rg) n
    | _ => false) Strand.rerun)

end Sys2Proof.Machine
end

