-- ==== Sys2Proof/Machine/Worlds.lean ====
section
/-! DEFINITION. Worlds: fork, settle, abandon, choose and vid (R206 to R212, R219), the placing of rivals (R208), and the events of
views (R205, R320). -/

namespace Sys2Proof.Machine

/-- The word of a world instruction: edata of its illegal-instruction trap (R76, R88). -/
def worldWord (d a : BitVec 6) (minor : BitVec 7) : Word := (packWord (Fields.fmtA 0x6D d a 0 minor)).setWidth 64

/-- The world-state trap (R217). -/
def worldState : Stop := trapOf 0x36 0

/-- The shape of every world instruction (R206): not inside a handler, its own checks, then the drain. -/
def State.worldOp (s : State) (word : Word) (check : State → Except Stop Unit) (run : State → State) : State :=
  s.onStrand (fun s =>
    if s.strand.tip then s.stop (illegalWith s word)
    else match check s with
      | .error x => s.stop x
      | .ok _ => s.afterDrain run)

/-! ### fork -/

/-- The generation that the pool gives an id next (R319, R320). -/
def nextGeneration (s : State) (id : Nat) : BitVec 4 := match lookupNat id s.generations with
  | some g => g + 1
  | none => 0

/-- An id is free: no live view has it, and no slot holds its next generation (R203, R320). -/
def viewIdFree (s : State) (id : Nat) : Bool :=
  (lookupNat id s.views).isNone && !s.reclaims.contains (id, nextGeneration s id)

/-- The lowest free ids, at most `k`. -/
def freeViewIds (s : State) (k : Nat) : List Nat := ((List.range 4096).tail.filter (viewIdFree s)).take k

/-- Every block of a chain has room for `k` more live views (R207, R381). -/
def viewsLeft (s : State) (block k : Nat) : Bool :=
  withinAll s block (fun b => match lookupNat b s.blocks with
    | some x => decide (x.viewsUsed + k ≤ effective s b .views 434 12)
    | none => true)

/-- The granules of a core that tasks may be given: 192 of the 512 are the staging reserve (R239, R283). -/
def freeGranuleList (s : State) (c : Nat) : List Nat :=
  (List.range 320).filter (fun g => !(s.core c).granulesUsed.contains g)

/-- Granules are taken and tagged as a new allocation (R240). -/
def State.takeGranules (s : State) (c n : Nat) : State × List Nat :=
  let l := (freeGranuleList s c).take n
  let k := s.core c
  (s.setCore c { k with
    granulesUsed := k.granulesUsed ++ l, strip := k.strip.filter (fun p => !l.contains (p.1 / 128)) }, l)

/-- A copy of the granules `src` in the granules `dst` (R207). -/
def copyGranules (s : State) (c : Nat) (src dst : List Nat) : State :=
  (src.zip dst).foldl (fun s p =>
    (List.range 128).foldl (fun s i => s.setCore c ((s.core c).setStrip (p.2 * 128 + i) ((s.core c).stripAt (p.1 * 128 + i)))) s) s

/-- sys.view of rival `j` (R204, R207). -/
def rivalView (id depth j k : Nat) : Word := BitVec.ofNat 64 (id + 4096 * depth + 2 ^ 15 * j + 2 ^ 18 * k)

/-- A rival's image (R207): the judge's state, with an empty grant, no bindings, its event flag 0 and no pending commits. A notice is the
judge's own (R278).
DEDUCED (unsafe, log 27). -/
def rivalImage (x : Strand) (d : SReg) (id j k : Nat) (strip : List Nat) : Strand :=
  let y : Strand := { x with
    pc := x.pc + 4, q := Vector.replicate 8 none, eventFlag := false, monitors := [], watchHit := false, wait := none
    sched := { Sched.reset with clock := x.sched.clock }, weights := Vector.replicate 4 none, notice := none, switchAsked := false
    progress := none, aboveTargetSince := none, strip := strip
    task := x.task.map (fun t => { t with rival := some id }) }
  ((y.setS d (BitVec.ofNat 64 (j + 1))).setView (rivalView id (x.depth + 1) j k)).setLease (setField (x.sys.lease &&& 0xFF00) 0 8 0)
    |>.setStatus (setBit x.sys.status 15 false)

/-- One rival's view is made: its id is the lowest free one. -/
def makeRival (x : Strand) (core : Nat) (d : SReg) (k seq : Nat) (stripCopy : Bool) (s : State) (p : Nat × Nat) : State :=
  let j := p.1
  let id := p.2
  let r : State × List Nat := if stripCopy then s.takeGranules core x.strip.length else (s, x.strip)
  let s := if stripCopy then copyGranules r.1 core x.strip r.2 else r.1
  let g := nextGeneration s id
  let v : View :=
    { parent := x.vid, depth := x.depth + 1, state := .fresh, generation := g, fork := seq, index := j, core := core, gid := none
      block := x.block, copies := [], spilled := [], outbox := [], image := some (rivalImage x d id j k r.2)
      strip := if stripCopy then some r.2 else none }
  let s := (chain s x.block).foldl (fun s b => s.modBlock b (fun y => { y with viewsUsed := y.viewsUsed + 1 })) s
  let inherit (s : State) (ve : Bool) : State :=
    s.informs (.agent s.strandId ve) (.task x.asid (frameOf x.task) id ve)
  inherit (inherit { s with views := insertNat id v s.views, generations := insertNat id g s.generations } false) true

/-- Fork (R207), after its checks and its drain.
DEDUCED (unsafe, log 27). -/
def openFork (d : SReg) (k : Nat) (stripCopy : Bool) (s : State) : State :=
  let x := s.strand
  let ids := freeViewIds s k
  let seq := s.forkSeq
  let s := ((List.range k).zip ids).foldl (makeRival x (coreOf s.strandId) d k seq stripCopy) s
  let rivals := ids.map (fun id => ({ id := id, state := .fresh, verdict := 0 } : Rival))
  let s : State := { s with
    forks := insertNat seq rivals s.forks, forkSeq := seq + 1
    strand := ({ s.strand with fork := some { seq := seq, rivals := rivals } } : Strand).setView (setBit s.strand.sys.view 22 true) }
  (s.putS 1 d 0 0).retire

/-- The checks of `fork` (R207).
DEDUCED (unsafe, log 27). -/
def checkFork (word n : Word) (stripCopy : Bool) (s : State) : Except Stop Unit := do
  let k := n.toNat
  let x := s.strand
  let bytes := k * (x.strip.length * 16384)
  need (decide (2 ≤ k) && decide (k ≤ 8)) (illegalWith s word)
  need (!x.judge) worldState
  need (x.depth != 4) (trapOf 0x34 4)
  need ((freeViewIds s k).length == k && decide (s.views.length + k ≤ 4095) && viewsLeft s x.block k) (trapOf 0x31 n)
  need (!stripCopy || decide (bytes ≤ (freeGranuleList s (coreOf s.strandId)).length * 16384)) (trapOf 0x33 (BitVec.ofNat 64 bytes))

/-- R207: fork. -/
def execFork (d a : SReg) (s : State) : Out :=
  .next (s.worldOp (worldWord d a 0) (checkFork (worldWord d a 0) (s.rdS a) false) (openFork d (s.rdS a).toNat false))

/-- R207: fork.s. -/
def execForkS (d a : SReg) (s : State) : Out :=
  .next (s.worldOp (worldWord d a 1) (checkFork (worldWord d a 1) (s.rdS a) true) (openFork d (s.rdS a).toNat true))

/-! ### settle and abandon -/

/-- A rival that may end itself (R209). -/
def mayEnd (s : State) : Except Stop Unit := need (s.strand.depth != 0 && !s.strand.judge) worldState

/-- R209: settle. -/
def execSettle (a : SReg) (s : State) : Out :=
  .next (
    let w := worldWord 0 a 2
    s.worldOp w (fun s => do
      need (field (s.rdS a) 48 16 == 0) (illegalWith s w)
      mayEnd s)
      (fun s =>
        let id := s.strand.vid
        let verdict : BitVec 48 := (s.rdS a).setWidth 48
        match lookupNat id s.views with
        | none => s
        | some v =>
          let s := ([false, true].foldl (fun s ve => s.informs (.agent s.strandId ve)
            (.task s.strand.asid (frameOf s.strand.task) id ve)) s).setViewState id .settled
          let s : State := { s with forks := match lookupNat v.fork s.forks with
            | some l => insertNat v.fork (setRival l v.index (fun r => { r with verdict := verdict })) s.forks
            | none => s.forks }
          (s.vacate s.strandId false).modView id (fun v => { v with gid := none, image := none, strip := none })))

/-- R209: abandon. -/
def execAbandon (s : State) : Out :=
  .next (s.worldOp (worldWord 0 0 3) mayEnd (fun s => s.discardView s.strand.vid))

/-! ### The end of a fork -/

/-- The open fork of the strand; the world-state trap without one. -/
def openSeq (s : State) : Except Stop Nat :=
  match s.strand.judge, s.strand.fork with
  | true, some f => .ok f.seq
  | _, _ => .error worldState

/-- The fork closes: its record stays with the strand for `vid`, and JUDGE is 0. -/
def closeFork (s : State) (seq : Nat) (rivals : List Rival) : State :=
  { s with
    forks := eraseNat seq s.forks
    strand := ({ s.strand with fork := some { seq := seq, rivals := rivals } } : Strand).setView (setBit s.strand.sys.view 22 false) }

/-- Every view of a fork ends. -/
def discardRivals (s : State) (seq : Nat) : State :=
  (s.rivals seq).foldl (fun s r => match lookupNat r.id s.views with
    | some v => if v.fork = seq then (if r.state = .faulted then s.returnView r.id else s.discardView r.id) else s
    | none => s) s

/-- Every view of the strand's fork ends (R210); the state of a rival that has faulted is terminal and stays (R205, R212). -/
def abandonRivals (s : State) (seq : Nat) : State :=
  closeFork (discardRivals s seq) seq ((s.rivals seq).map (fun r => if r.state = .faulted then r else { r with state := .discarded }))

/-- R210: abandon.all. -/
def execAbandonAll (s : State) : Out :=
  .next (s.worldOp (worldWord 0 0 4) (fun s => (openSeq s).map (fun _ => ()))
    (fun s => match openSeq s with
      | .ok q => (abandonRivals s q).retire
      | .error _ => s))

/-- A rival that is done: settled, faulted, or ended by its own abandon. -/
def Rival.terminal (r : Rival) : Bool := match r.state with
  | .fresh | .running | .spilled => false
  | _ => true

/-- The index that `choose.best` selects (R211): the largest verdict, the lowest index on equal ones. -/
def bestRival (l : List Rival) : Option Nat :=
  ((l.zip (List.range l.length)).foldl (fun (m : Option (Nat × BitVec 48)) p =>
    if p.1.state != .settled then m else
    match m with
    | some (_, v) => if v < p.1.verdict then some (p.2, p.1.verdict) else m
    | none => some (p.2, p.1.verdict)) none).map (·.1)

/-- The index that `choose` selects: its rival where that is settled. -/
def namedRival (l : List Rival) (i : Nat) : Option Nat := match l.drop i with
  | r :: _ => if r.state = .settled then some i else none
  | [] => none

/-- An outbox entry is performed from the base, as an operation of the judge (R211, R216); a host message goes where its slot leads then.
DEDUCED (unsafe, log 27). -/
def performDeferred (s : State) (e : Deferred) : State :=
  match e with
  | .hostMessage slot pa va data mask tag => match targetOf s pa slot with
    | .mailbox toHost dev addr => s.send s.ctx (mailboxMessage toHost dev addr { bits := data, tag := tag } mask) va true
    | _ => s
  | .message b m => s.sendMessage b { m with view := 0 }
  | .hostStore pa va mask em op => match physClass pa with
    | .window slot => windowStore s s.ctx slot pa va mask em op
    | _ => s

/-- The lines that the LLC holds of a chosen view's copies go over to its parent view, or to the base as lines newer than HBM4 (R214, R363).
A line that is there of both is one afterwards (log 71).
DESIGN CHOICE (unsafe, log 71). -/
def relabelLines (s : State) (id parent : Nat) : State :=
  let gen := viewGen s id
  (s.llc.filter (fun e => e.1 % 4096 == id && e.2.slots.any (fun q => q.2.gen == gen))).foldl (fun s e =>
    let key := e.1 / 4096 * 4096 + parent
    let mine := (e.2.slots.filter (fun q => q.2.gen == gen)).map (fun q =>
      let moved : LlcSlot := { q.2 with gen := viewGen s parent, dirty := true }
      (q.1, moved))
    let line : LlcLine := match lookupNat key s.llc with
      | some l => { l with slots := mine.foldl (fun a q => insertNat q.1 q.2 a) l.slots }
      | none => { e.2 with slots := mine }
    { s with llc := insertNat key line (eraseNat e.1 s.llc) }) s

/-- The slots that the slices hold of a chosen view go over to its parent view, or to the base as dirty sectors in place of the base copy
(R320). -/
def relabelSlots (s : State) (id parent : Nat) : State :=
  let gen := viewGen s id
  let s := relabelLines s id parent
  { s with dies := s.dies.map (fun d => (d.1, { d.2 with
      slots := (d.2.slots.filter (fun e => e.1 % 4096 == id && e.2.gen == gen)).foldl (fun l e =>
        insertNat (slotKey (e.1 / 4096) parent) { e.2 with gen := viewGen s parent, dirty := true } (eraseNat e.1 l)) d.2.slots })) }

/-- The copies of a chosen view pass into its parent view, and the charges follow (R211). -/
def commitInto (s : State) (parent id : Nat) (v : View) : State :=
  match lookupNat parent s.views with
  | none => s
  | some p =>
    let all := v.copies.foldl (fun l c => insertNat c.1 c.2 l) p.copies
    let used := spillPages p.copies.length + spillPages v.copies.length
    let s := v.copies.foldl (fun s c => s.informs (.sector (slotKey c.1 id)) (.sector (slotKey c.1 parent))) (relabelSlots s id parent)
    let s := s.modView parent (fun p => { p with
      copies := all, outbox := p.outbox ++ v.outbox
      spilled := p.spilled.filter (fun x => (lookupNat x v.copies).isNone) ++ v.spilled })
    s.returnSpill v.block (used - spillPages all.length)

/-- A copy of a view becomes a write of the judge's strand to the base (R211, R221), at a peer by a whole-sector write (R393). A late
fault of such a write names the sector's physical address (log 49).
DESIGN CHOICE (unsafe, log 49). -/
def commitSector (s : State) (sec : Nat) (x : Sector) : State :=
  match physClass (128 * sec) with
  | .window slot => windowStore s s.ctx slot (128 * sec) (BitVec.ofNat 64 (128 * sec)) (BitVec.allOnes 128) none (.whole x)
  | _ => (s.writeBase (some (dieOf s.strandId)) sec x s.ctx.owner).tells s.ctx (slotKey sec 0)

/-- The copies of a chosen view become writes of the base, in increasing address order; then its outbox is performed (R211). -/
def commitBase (s : State) (id : Nat) (v : View) : State :=
  let s := v.copies.foldl (fun s c =>
    (commitSector s c.1 c.2.1).informs (.sector (slotKey c.1 id)) (.sector (slotKey c.1 0))) (relabelSlots s id 0)
  v.outbox.foldl performDeferred s

/-- What a rival knew when it settled, the judge knows, so that its release or fence covers it (R196, R221). -/
def learnRival (s : State) (id : Nat) : State :=
  [false, true].foldl (fun s ve =>
    let from_ := Knower.task s.strand.asid (frameOf s.strand.task) id ve
    (s.informs from_ (.agent s.strandId false)).informs from_ (.agent s.strandId true)) s

/-- The first slice whose queue has no room for the messages of an outbox (R328). -/
def crowdedSlice (s : State) (l : List Deferred) : Option Nat :=
  let dests := l.filterMap (fun e => match e with
    | .message b _ => some b
    | _ => none)
  dests.find? (fun b =>
    decide (64 < (s.barista b).queue.length + (s.barista b).inFlight.length + (dests.filter (· == b)).length))

/-- Commit (R211) with the selected index; it orders as `fence.all` before and after its writes (R221). -/
def commitFork (d : SReg) (seq : Nat) (sel : Option Nat) (s : State) : State :=
  let l := s.rivals seq
  let parent := s.strand.vid
  let chosen : Option (Rival × View) := match sel with
    | none => none
    | some i => match l.drop i with
      | r :: _ => (lookupNat r.id s.views).map (fun v => (r, v))
      | [] => none
  let room := match lookupNat parent s.views with
    | some p => 64 - p.outbox.length
    | none => 0
  let full : Bool := match chosen with
    | some c => parent != 0 && decide (room < c.2.outbox.length)
    | none => false
  let held : Option Nat := match chosen with
    | some c => if parent != 0 then none
      else (c.2.copies.find? (fun x => tagVcls (s.physTag x.1) == clsBusy)).map (·.1)
    | none => none
  let crowded : Option Nat := match chosen with
    | some c => if parent != 0 then none else crowdedSlice s c.2.outbox
    | none => none
  if full then s.stop (trapOf 0x35 0)
  else match held, crowded with
    | some sec, _ => s.stop (.wait (.busy sec))
    | none, some b => s.stop (.wait (.message b))
    | none, none =>
      let s := match chosen with
        | some c =>
          let u := learnRival (s.orders true true true) c.1.id
          let t := if parent = 0 then commitBase u c.1.id c.2 else commitInto u parent c.1.id c.2
          -- into the base the charge returns with the id; into a parent it has passed on already
          if parent = 0 then t else t.modView c.1.id (fun v => { v with copies := [] })
        | none => s
      let after := (l.zip (List.range l.length)).map (fun p =>
        { p.1 with state := if sel = some p.2 then .chosen else if p.1.state = .settled then .discarded else p.1.state })
      let s := l.foldl (fun s r => match lookupNat r.id s.views with
        | some v => if v.fork = seq then s.returnView r.id else s
        | none => s) s
      let s := closeFork s seq after
      (s.putS 1 d (match sel with
        | some i => BitVec.ofNat 64 (i + 1)
        | none => 0) 0).retire.orders true true true

/-- The wait of `choose` for the last rival, then the commit. -/
def chooseBy (d : SReg) (pick : List Rival → Option Nat) (s : State) : State :=
  match openSeq s with
  | .error x => s.stop x
  | .ok q =>
    let l := s.rivals q
    if l.all Rival.terminal then commitFork d q (pick l) s else s.stop (.wait .choose)

/-- R211: choose. -/
def execChoose (d a : SReg) (s : State) : Out :=
  .next (
    let w := worldWord d a 5
    s.worldOp w (fun s => do
      let i := (s.rdS a).toNat
      need (decide (i ≤ 7)) (illegalWith s w)
      let q ← openSeq s
      need (decide (i < (s.rivals q).length)) worldState)
      (fun s => chooseBy d (fun l => namedRival l (s.rdS a).toNat) s))

/-- R211: choose.best. -/
def execChooseBest (d : SReg) (s : State) : Out :=
  .next (s.worldOp (worldWord d 0 6) (fun s => (openSeq s).map (fun _ => ())) (chooseBy d bestRival))

/-! ### vid -/

/-- State codes of R205. -/
def ViewState.code : ViewState → Nat
  | .fresh => 0 | .running => 1 | .spilled => 2 | .settled => 3 | .chosen => 4 | .discarded => 5 | .faulted => 6

/-- The word of a rival (R212). -/
def Rival.word (r : Rival) : Word := BitVec.ofNat 64 (r.verdict.toNat + 2 ^ 48 * r.state.code + 2 ^ 52 * r.id)

/-- The rivals of the strand's most recent fork: of an open one as they stand now. -/
def recordOf (s : State) : List Rival :=
  match s.strand.fork with
  | none => []
  | some f => if s.strand.judge then s.rivals f.seq else f.rivals

/-- R212: vid. -/
def execVid (d a : SReg) (s : State) : Out :=
  .next (
    let w := worldWord d a 7
    s.worldOp w (fun s => do
      need (decide ((s.rdS a).toNat ≤ 7)) (illegalWith s w)
      need (decide ((s.rdS a).toNat < (recordOf s).length)) worldState)
      (fun s => match (recordOf s).drop (s.rdS a).toNat with
        | r :: _ => (s.putS 1 d r.word 0).retire
        | [] => s.stop worldState))

/-! ### Placing rivals (R208) -/

/-- A strand that no task occupies, and that carries no copy of a removed one (R382). -/
def strandFree (s : State) (g : Nat) : Bool :=
  (s.strandAt g).phase == .free && !(s.core (coreOf g)).copies.any (fun r => r.orphan.isSome && r.origin == g)

/-- The lowest free strand of a core. -/
def freeStrandOf (s : State) (core : Nat) : Option Nat :=
  ((List.range 32).map (fun k => core * 32 + k)).find? (strandFree s)

/-- A strand more fits the STR budgets of a block's chain (R208, R381). -/
def strandFits (s : State) (block : Nat) : Bool :=
  withinAll s block (fun b => decide (strandsCharged s b + 1 ≤ effective s b .str 384 14))

/-- The rivals of a core that wait for a strand, oldest fork first, by index. -/
def waitingRivals (s : State) (core : Nat) : List (Nat × View) :=
  let l := s.views.filter (fun p => p.2.core == core && p.2.image.isSome && (p.2.state == .fresh || p.2.state == .spilled))
  l.foldl (fun acc p => put p acc) []
where
  /-- Insert by fork, then by index. -/
  put (p : Nat × View) : List (Nat × View) → List (Nat × View)
    | [] => [p]
    | q :: r => if p.2.fork < q.2.fork ∨ (p.2.fork = q.2.fork ∧ p.2.index < q.2.index) then p :: q :: r else q :: put p r

/-- A task's registers come onto strand `g`: it runs from its image. -/
def runImage (s : State) (g : Nat) (x : Strand) : State :=
  s.setStrandAt g { x with phase := .running, lastBoundary := s.cycle.toNat, ticked := true }

/-- R320: the slots of a view id that has returned to the pool are reclaimed.
DEDUCED (unsafe, log 27). -/
def execViewReclaim (view : Nat) (s : State) : Out :=
  .next { s with
    reclaims := s.reclaims.filter (fun p => p.1 != view)
    dies := s.dies.map (fun d => (d.1, { d.2 with slots := d.2.slots.filter (fun e =>
      !s.reclaims.any (fun p => p.1 == view && e.1 % 4096 == view && e.2.gen == p.2)) }))
    llc := s.llc.filterMap (fun e => if e.1 % 4096 ≠ view then some e else
      match e.2.slots.filter (fun q => !s.reclaims.any (fun p => p.1 == view && q.2.gen == p.2)) with
      | [] => none
      | l => some (e.1, { e.2 with slots := l })) }

end Sys2Proof.Machine
end

