-- ==== Sys2Proof/Machine/Image.lean ====
section
/-! DEFINITION. The save image: what is live (R282), its layout in the save area (R283 to R285), writing it and reading it back
(R286). Layouts that R284 does not give are those of log 50. -/

namespace Sys2Proof.Machine

/-- A codebook's record (R283): 256 entries of 2 bytes, then a 32-byte poison bitmap. -/
def codebookRecord (c : Codebook) : Record :=
  { len := 640, bits := packAll 16 (c.elems.map (fun e => e.toNat)) + 2 ^ 4096 * (c.marks.foldl (fun n i => n + 2 ^ i) 0) }

/-- The header word of a codebook slot (R284). -/
def codebookWord (c : Option Codebook) : Nat := match c with
  | none => 2 ^ 26
  | some c => packFields [(16, c.tag.toNat), (9, c.elems.length), (1, if tagVcls c.tag = clsUndef then 1 else 0), (1, 0)]

/-! ### Commit descriptors (R285) -/

/-- A pending result as a descriptor: kind, number, 64 bits of value, tag and HW, and the record of its value. -/
structure Descriptor where
  left : Nat
  kind : Nat
  num : Nat
  value : Nat
  tag : Nat
  hw : Nat
  flags : Sticky
  record : Record

def noRecord : Record := { len := 0, bits := 0 }

/-- The descriptor of a destination; none for those that R285 has no kind for, which land as the image is written (log 50). -/
def destDescriptor (wmax vlmax left : Nat) (fl : Sticky) (d : Dest) : Option Descriptor :=
  match d with
  | .s r v => some { left := left, kind := 0, num := r.toNat, value := v.toNat, tag := 0, hw := 0, flags := fl, record := noRecord }
  | .v r v => some { left := left, kind := 1, num := r.toNat, value := 0, tag := v.tag.toNat, hw := v.hw, flags := fl
                     record := registerRecord wmax v }
  | .p r v => some { left := left, kind := 2, num := r.toNat, value := 0, tag := 0, hw := 0, flags := fl
                     record := { len := pad128 ((vlmax + 7) / 8), bits := v.toNat % 2 ^ vlmax } }
  | .tile r v => some { left := left, kind := 3, num := r.toNat, value := 0, tag := 0, hw := 0, flags := fl, record := tileRecord v }
  | .range h o n => some { left := left, kind := 4, num := h, value := o + 2 ^ 32 * n, tag := 0, hw := 0, flags := fl, record := noRecord }
  | _ => none

/-- The descriptors of a commit; its flags go with the first, and a commit that only sets flags stands as a write of `s0`. -/
def commitDescriptors (wmax vlmax clock : Nat) (c : Commit) : List Descriptor :=
  let left := Nat.max 1 (c.due - clock)
  match c.dests.filterMap (destDescriptor wmax vlmax left 0) with
  | [] => if c.flags = 0 then [] else
    [{ left := left, kind := 0, num := 0, value := 0, tag := 0, hw := 0, flags := c.flags, record := noRecord }]
  | d :: l => { d with flags := c.flags } :: l

/-- Every pending commit of a strand: of its region, and of the regions that its handlers hold frozen. -/
def Strand.descriptors (x : Strand) : List Descriptor :=
  ((x.sched :: x.heldRegion).flatMap (fun r => r.commits.flatMap (commitDescriptors x.wmax x.vlmax r.clock))).take 128

/-- Descriptors with the offsets of their records. -/
def placeDescriptors : Nat → List Descriptor → List (Descriptor × Nat)
  | _, [] => []
  | off, d :: l => (d, off) :: placeDescriptors (off + d.record.len) l

/-- The 24 bytes of a descriptor. -/
def descriptorBits (p : Descriptor × Nat) : Nat :=
  let d := p.1
  packFields [(32, d.left), (3, d.kind), (6, d.num), (1, 1), (22, 0),
    (64, if d.kind = 1 ∨ d.kind = 2 ∨ d.kind = 3 then p.2 else d.value), (16, d.tag), (18, d.hw), (5, d.flags.toNat), (25, 0)]

/-! ### The header (R284) -/

/-- The states of an image (R284). -/
inductive ImageState where
  | none | queued | parked | running | removed
deriving DecidableEq, Repr

def ImageState.code : ImageState → Nat
  | .none => 0 | .queued => 1 | .parked => 2 | .running => 3 | .removed => 4

def handleBits (h : Handle) : Nat :=
  packFields [(32, h.base.toNat), (32, h.len.toNat), (32, h.pos.toNat), (2, h.grid.toNat), (1, if h.wrap then 1 else 0),
    (1, if h.valid then 1 else 0), (28, 0)]

def readHandle (n : Nat) : Handle :=
  { base := BitVec.ofNat 32 n, len := BitVec.ofNat 32 (cut n 32 32), pos := BitVec.ofNat 32 (cut n 64 32), grid := BitVec.ofNat 2 (cut n 96 2)
    wrap := cut n 98 1 = 1, valid := cut n 99 1 = 1 }

def tileStateBits (t : TileState) : Nat :=
  packFields [(1, if t.valid then 1 else 0), (7, 0), (8, t.m), (8, t.n), (8, 0), (16, t.k), (16, 0), (8, t.grantAt.toNat), (24, 0), (32, t.vlmaxAt)]

def readTileState (n : Nat) : TileState :=
  { valid := cut n 0 1 = 1, m := cut n 8 8, n := cut n 16 8, k := cut n 32 16, grantAt := BitVec.ofNat 8 (cut n 64 8), vlmaxAt := cut n 96 32 }

def sysWords (y : SysRegs) : List Nat :=
  [y.status, y.cause, y.epc, y.edata, y.tvec, y.pfx, y.vcfg, y.vstart, y.lease, y.seed, y.stripbase, y.blend, y.view, y.inldepth].map
    (fun w => w.toNat)

def readSysRegs (n : Nat) : SysRegs :=
  let w (i : Nat) : Word := BitVec.ofNat 64 (cut n (64 * i) 64)
  { status := w 0, cause := w 1, epc := w 2, edata := w 3, tvec := w 4, pfx := w 5, vcfg := w 6, vstart := w 7, lease := w 8
    seed := w 9, stripbase := w 10, blend := w 11, view := w 12, inldepth := w 13 }

def forkBits (f : Option Fork) : Nat := match f with
  | none => 0
  | some f => packFields ((32, f.rivals.length) :: (32, f.seq) :: f.rivals.map (fun r => (64, r.word.toNat)))

def ViewState.ofCode (n : Nat) : ViewState := match n with
  | 0 => .fresh | 1 => .running | 2 => .spilled | 3 => .settled | 4 => .chosen | 5 => .discarded | _ => .faulted

def readFork (n : Nat) : Option Fork :=
  if cut n 0 32 = 0 then none else
  some { seq := cut n 32 32, rivals := (List.range (Nat.min 8 (cut n 0 32))).map (fun i =>
    let w := cut n (64 * (i + 1)) 64
    { id := cut w 52 12, state := ViewState.ofCode (cut w 48 3), verdict := BitVec.ofNat 48 w }) }

def eventBits (l : List CopyEvent) : Nat :=
  packAll 128 (l.map (fun e => packFields [(8, e.code.toNat), (1, 1), (55, 0), (64, e.data.toNat)]))

def readEvents (n count : Nat) : List CopyEvent :=
  ((List.range count).map (fun i => cut n (128 * i) 128)).filterMap (fun e =>
    if cut e 8 1 = 1 then some { code := BitVec.ofNat 8 e, data := BitVec.ofNat 64 (cut e 64 64) } else none)

/-- The registers that an image holds: those that a grant of 0 saved, where it did (R231). -/
def Strand.savedVectors (x : Strand) : SavedVectors := match x.leaseZero with
  | some z => z
  | none => x.vectors

/-- The predicates that an image holds: those that a grant of 0 saved, with bit 0 of those that have been written since (R16, R231).
DESIGN CHOICE (unsafe, log 52). -/
def Strand.imagePreds (x : Strand) : Vector PosBits 16 := match x.leaseZero with
  | none => x.p
  | some z => Vector.ofFn (fun i : Fin 16 =>
      if x.pWritten.getLsbD i.val then ((z.p[i] >>> 1) <<< 1) ||| (x.p[i] &&& 1) else z.p[i])

/-- The directory entry of register `r`: as its last save left it, or for its new record (R282). -/
def entryOf (n : Nat) (r : Nat) (v : VReg) : BitVec 128 := v.entry.getD (directoryEntry v (registerOffset n r))

/-- A tile's directory byte (R284). -/
def tileByte (t : Tile) : Nat :=
  let zero := t.elems.all (· == 0)
  (if t.i48 then 1 else 0) + (if zero then 4 else 2)

/-- The tile directory, with the bytes of tiles that nothing has written since their last save. -/
def Strand.tileDirectory (x : Strand) : Nat :=
  packAll 8 ((List.range 8).map (fun i =>
    if x.tileWritten.getLsbD i then tileByte ((x.savedVectors.tiles.toList.drop i).headD Tile.reset) else cut x.tdir.toNat (8 * i) 8))

def Strand.codebookHeaders (x : Strand) : Nat :=
  packAll 64 ((List.range 8).map (fun i =>
    if x.cbWritten.getLsbD i then codebookWord ((x.codebooks.toList.drop i).headD none) else cut x.cbh.toNat (64 * i) 64))

/-- PL (R282): VLMAX, but never less than the bit 0 that scalar instructions read (R16, log 52).
DEDUCED (unsafe, log 52). -/
def Strand.predBits (x : Strand) : Nat := Nat.max 1 x.savedVectors.vlmax

/-- PL and the offset of the predicate record. -/
def Strand.predHeader (x : Strand) : Nat × Nat :=
  if x.pWritten = 0 then x.predRecord else (x.predBits, predOffset)

/-- The header of a strand's image. R229 sets no bound on Age, and its field has 7 bits: one above 127 is saved as 127 (log 50).
DESIGN CHOICE (unsafe, log 50). -/
def headerBits (x : Strand) (pc : Word) (st : ImageState) (mig stg : Bool) (core : Nat) : Nat :=
  let z := x.savedVectors
  let body := match x.loop with
    | some l => l.body.map (fun w => w.toNat)
    | none => []
  let descs := placeDescriptors commitOffset x.descriptors
  packFields [
    (8, 1), (3, st.code), (1, if mig then 1 else 0), (9, core), (1, if stg then 1 else 0), (42, 0), (64, pc.toNat),
    (896, packAll 64 (sysWords x.sys)),
    (4096, packAll 64 (0 :: (x.s.toList.drop 1).map (fun w => w.toNat))),
    (64, packFields [(12, x.asid.toNat), (1, if x.eventFlag then 1 else 0), (7, Nat.min x.age 127), (1, if x.loop.isSome then 1 else 0),
      (5, (x.loop.map (fun l => l.len - 1)).getD 0), (6, (x.loop.map (fun l => l.count.toNat)).getD 0), (32, 0)]),
    (64, (x.loop.map (fun l => l.pc.toNat)).getD 0),
    (1024, packAll 32 body),
    (2048, packAll 128 (x.h.toList.map handleBits)),
    (64, packAll 8 (x.q.toList.map (fun b => match b with
      | some q => 64 + q.toNat
      | none => 0))),
    (128, tileStateBits x.tileState), (64, x.tileDirectory), (512, x.codebookHeaders), (1152, forkBits x.fork),
    (2048, eventBits (x.copyEvents.take 16)),
    (8192, packAll 128 ((z.v.toList.zip (List.range 64)).map (fun p => (entryOf x.nreg p.2 p.1).toNat))),
    (64, packFields [(8, descs.length), (18, x.predHeader.1), (6, 0), (32, x.predHeader.2)]),
    (24576, packAll 192 (descs.map descriptorBits)),
    (4096, eventBits ((x.copyEvents.drop 16).take 16))]

/-- The records of an image, with their offsets: dirty registers, predicates and tiles that were written, codebooks, and commit
values (R282, R283). -/
def imageRecords (x : Strand) : List (Nat × Record) :=
  let z := x.savedVectors
  (z.v.toList.zip (List.range 64)).filterMap (fun p =>
      if p.1.entry.isSome then none else some (registerOffset x.nreg p.2, registerRecord x.wmax p.1))
    ++ (if x.pWritten = 0 then [] else [(predOffset, predRecordOf x.imagePreds x.predBits)])
    ++ (z.tiles.toList.zip (List.range 8)).filterMap (fun p =>
      if x.tileWritten.getLsbD p.2 && p.1.elems.any (· != 0) then some (8192 + 32768 * p.2, tileRecord p.1) else none)
    ++ (x.codebooks.toList.zip (List.range 8)).filterMap (fun p => match p.1 with
      | some c => if x.cbWritten.getLsbD p.2 then some (270336 + 1024 * p.2, codebookRecord c) else none
      | none => none)
    ++ (placeDescriptors commitOffset x.descriptors).map (fun d => (d.2, d.1.record))

/-- The image is written to its save area: every record, then the header (R283). -/
def writeImage (s : State) (die core : Nat) (x : Strand) (save : Word) (st : ImageState) (mig stg : Bool) (records : Bool) : State :=
  let ctx := deviceCtx die x.asid
  let s := if records then (imageRecords x).foldl (fun s r => writeArea s ctx (save + BitVec.ofNat 64 r.1) r.2.len r.2.bits) s else s
  writeArea s ctx save 8192 (headerBits x x.pc st mig stg core)

/-- What is saved is clean (R282): the directory entries of the save stay with the strand. -/
def Strand.cleaned (x : Strand) : Strand :=
  let z := x.savedVectors
  let clean (v : Vector VReg 64) : Vector VReg 64 :=
    Vector.ofFn (fun i : Fin 64 => { v[i] with entry := some (entryOf x.nreg i.val v[i]) })
  { x with
    v := if x.leaseZero.isSome then x.v else clean x.v
    leaseZero := x.leaseZero.map (fun y => { y with v := clean z.v, stored := true })
    predRecord := x.predHeader, tdir := BitVec.ofNat 64 x.tileDirectory, cbh := BitVec.ofNat 512 x.codebookHeaders
    pWritten := 0, tileWritten := 0, cbWritten := 0 }

/-! ### Reading an image back -/

/-- The saved special registers keep their reserved bits and reserved values out (R9, R22, R23, R54, R204, R306), word `i` being that of
R284's list. -/
def sysWordsOk (h : Nat) : Bool :=
  let w (i lo n : Nat) : Nat := cut h (128 + 64 * i + lo) n
  decide (w 0 5 3 ≤ 4) && w 0 16 48 == 0
    && w 1 10 54 == 0 && w 4 0 2 == 0
    && w 5 15 49 == 0
    && w 6 2 2 != 3 && w 6 5 3 == 0 && w 6 26 6 == 0 && w 6 50 14 == 0
    && decide (w 6 8 18 ≤ w 6 32 18) && decide (w 8 8 4 ≤ w 8 12 4) && decide (w 8 12 4 ≤ 8) && decide (w 8 17 7 ≤ 64) && w 8 24 40 == 0
    && w 11 2 6 == 0 && w 11 8 8 == 1 && w 11 16 48 == 0
    && w 12 23 41 == 0 && decide (w 12 12 3 ≤ 4)
    && decide (1 ≤ w 13 0 4) && decide (w 13 0 4 ≤ 8) && decide (w 13 4 4 ≤ 8) && w 13 8 56 == 0

/-- Held copy events in an image: valid ones first, of the two causes, the other bits of their first words 0 (R284). An entry that is not
valid has a code of 0 or of an event (log 50). -/
def heldOk (n count : Nat) : Bool :=
  (List.range count).all (fun i =>
    let e := cut n (128 * i) 64
    cut e 9 55 == 0 && (cut e 0 8 == 0x45 || cut e 0 8 == 0x46 || (cut e 0 8 == 0 && cut e 8 1 == 0)))
    && (List.range (count - 1)).all (fun i => cut n (128 * i + 8) 1 == 1 || cut n (128 * (i + 1) + 8) 1 == 0)

/-- A handle, a codebook word, a directory entry and a commit descriptor within their limits (R173, R248, R284, R285). -/
def handleOk (n : Nat) : Bool := cut n 100 28 == 0
def codebookOk (w : Nat) : Bool := decide (cut w 16 9 ≤ 256) && cut w 27 37 == 0
def entryOk (e : Nat) : Bool :=
  decide (cut e 34 2 ≤ 1) && cut e 37 27 == 0 && cut e 96 32 == 0 && decide (cut e 16 18 ≤ 131072)
def descriptorOk (d : Nat) : Bool :=
  decide (cut d 32 3 ≤ 4) && cut d 42 22 == 0 && cut d 167 25 == 0
    && (cut d 41 1 == 0 || (decide (1 ≤ cut d 0 32)
      && (cut d 32 3 != 2 || decide (cut d 35 6 < 16)) && (cut d 32 3 != 3 || decide (cut d 35 6 < 8))
      && (cut d 32 3 != 4 || decide (cut d 35 6 < 16))))

/-- The header's limits (R284, R9): version, state, the resume address, the core, the special registers, counts, codes and reserved
bits.
DEDUCED (unsafe, log 50). -/
def headerOk (h : Nat) : Bool :=
  cut h 0 8 == 1 && decide (cut h 8 3 ≤ 4) && decide (cut h 12 9 < 384) && cut h 22 42 == 0 && cut h 64 2 == 0
    && sysWordsOk h && cut h 1024 64 == 0 && cut h (5120 + 32) 32 == 0 && cut h 5184 2 == 0
    && (List.range 16).all (fun i => handleOk (cut h (6272 + 128 * i) 128))
    && (List.range 8).all (fun i => cut h (8320 + 8 * i + 7) 1 == 0)
    && (List.range 8).all (fun i => cut h (8512 + 8 * i + 3) 5 == 0)
    && (List.range 8).all (fun i => codebookOk (cut h (8576 + 64 * i) 64))
    && heldOk (cut h 10240 2048) 16 && heldOk (cut h 45120 4096) 32 && (cut h (10240 + 1928) 1 == 1 || cut h (45120 + 8) 1 == 0)
    && (List.range 64).all (fun i => entryOk (cut h (12288 + 128 * i) 128))
    && decide (cut h 20480 8 ≤ 128) && cut h 20506 6 == 0
    && (List.range (cut h 20480 8)).all (fun i => descriptorOk (cut h (20544 + 192 * i) 192))
    && cut h 49216 16320 == 0

/-- A pending commit of an image. -/
def imageCommit (s : State) (ctx : Ctx) (save : Word) (wmax pl : Nat) (d : Nat) : Option Commit :=
  let off := save + BitVec.ofNat 64 (cut d 64 64)
  let num := cut d 35 6
  let tag : Tag := BitVec.ofNat 16 (cut d 128 16)
  let hw := cut d 144 18
  if cut d 41 1 = 0 then none else
  let dests : List Dest := match cut d 32 3 with
    | 0 => [.s (BitVec.ofNat 6 num) (BitVec.ofNat 64 (cut d 64 64))]
    | 1 =>
      let w := slotWidth wmax (tagFormat tag)
      let sectors := (pad128 ((hw * w + 7) / 8) + pad128 ((hw + 7) / 8) + pad128 ((hw + 31) / 32)) / 128
      let r := readRecord wmax tag hw (tagVcls tag == clsPoison) none (readRecordBits s ctx off sectors)
      [.v (BitVec.ofNat 6 num) (spoiledRecord s ctx off wmax (tagVcls tag == clsPoison) r)]
    | 2 => [.p (BitVec.ofNat 4 num) (BitVec.ofNat 131072 (cut (readRecordBits s ctx off (pad128 ((pl + 7) / 8) / 128)) 0 pl))]
    | 3 =>
      let b := readRecordBits s ctx off 256
      [.tile (BitVec.ofNat 3 num) (readTile (cut b 63 1 = 1) b)]
    | 4 => [.range num (cut d 64 32) (cut d 96 32)]
    | _ => []
  some { due := cut d 0 32, dests := dests, flags := BitVec.ofNat 5 (cut d 162 5)
         vec := decide (1 ≤ cut d 32 3) && decide (cut d 32 3 ≤ 3) }

/-- The strand that an image describes, before it runs (R286). The commits of a handler's image belong to the handler's own region where
that is exposed, and otherwise to the one that its trap froze; the image does not say which (log 50).
DESIGN CHOICE (unsafe, log 50). -/
def readImage (s : State) (ctx : Ctx) (save : Word) (h : Nat) : Strand :=
  let sys := readSysRegs (cut h 128 896)
  let wmax := 8 * 2 ^ field sys.vcfg 2 2
  let vlmax := field sys.vcfg 32 18
  let pl := cut h 20488 18
  let poff := cut h 20512 32
  let tdir := cut h 8512 64
  let cbh := cut h 8576 512
  let vs := imageVectors s ctx save wmax vlmax h
  let misc := cut h 5120 64
  let commits := (List.range (cut h 20480 8)).filterMap (fun i => imageCommit s ctx save wmax vlmax (cut h (20544 + 192 * i) 192))
  let tip : Bool := cut h (128 + 13) 1 == 1
  let mode : Bool := cut h (128 + 8) 1 == 1
  let region : Sched := { Sched.reset with commits := commits }
  { Strand.reset with
    pc := BitVec.ofNat 64 (cut h 64 64), sys := sys
    s := Vector.ofFn (fun i : Fin 64 => BitVec.ofNat 64 (cut h (1024 + 64 * i.val) 64))
    v := vs.v, p := vs.p, tiles := vs.tiles
    codebooks := Vector.ofFn (fun i : Fin 8 =>
      let w := cut cbh (64 * i.val) 64
      if cut w 26 1 = 1 then none
      else
        let b := readRecordBits s ctx (save + BitVec.ofNat 64 (270336 + 1024 * i.val)) 5
        let n := cut w 16 9
        some { tag := BitVec.ofNat 16 w, elems := (List.range n).map (fun k => BitVec.ofNat 64 (cut b (16 * k) 16))
               marks := (List.range n).filter (fun k => cut b (4096 + k) 1 == 1) })
    asid := BitVec.ofNat 12 misc, eventFlag := cut misc 12 1 = 1, age := cut misc 13 7
    loop := if cut misc 20 1 = 1 then some
      { pc := BitVec.ofNat 64 (cut h 5184 64), len := cut misc 21 5 + 1, count := BitVec.ofNat 6 (cut misc 26 6)
        body := (List.range (cut misc 21 5 + 1)).map (fun i => BitVec.ofNat 32 (cut h (5248 + 32 * i) 32)), running := !tip } else none
    h := Vector.ofFn (fun i : Fin 16 => readHandle (cut h (6272 + 128 * i.val) 128))
    q := Vector.ofFn (fun i : Fin 8 =>
      let b := cut h (8320 + 8 * i.val) 8
      if b / 64 % 2 = 1 then some (BitVec.ofNat 6 b) else none)
    tileState := readTileState (cut h 8384 128)
    fork := readFork (cut h 9088 1152)
    copyEvents := readEvents (cut h 10240 2048) 16 ++ readEvents (cut h 45120 4096) 16
    sched := if tip && !mode then Sched.reset else region
    heldRegion := if tip then [if mode then Sched.reset else region] else []
    predRecord := (pl, poff), tdir := BitVec.ofNat 64 tdir, cbh := BitVec.ofNat 512 cbh }

end Sys2Proof.Machine
end

