-- ==== Sys2Proof/Machine/Tasks.lean ====
section
/-! DEFINITION. Tasks: frames (R302, R303), launch queues as producers use them (R383, R384), spawn and inline calls (R308,
R309), task.end and yield (R112, R310), the lease instructions (R312, R313) and the cluster barrier (R314 to R316). -/

namespace Sys2Proof.Machine

/-- The word of a task instruction: edata of its illegal-instruction trap (R76, R88). -/
def taskWord (d a b : BitVec 6) (minor : BitVec 7) : Word := (packWord (Fields.fmtA 0x6E d a b minor)).setWidth 64

/-! ### Frames (R302, R303) -/

/-- A task frame: its 1,024 bits. -/
abbrev Frame := Nat

def frameEntry (f : Frame) : Word := BitVec.ofNat 64 (cut f 64 64)
def frameMin (f : Frame) : Nat := cut f 16 4
def framePref (f : Frame) : Nat := cut f 20 4
def frameStrip (f : Frame) : Nat := cut f 256 32
def frameSave (f : Frame) : Word := BitVec.ofNat 64 (cut f 320 64)
def frameJoin (f : Frame) : Word := BitVec.ofNat 64 (cut f 384 64)
def frameQueue (f : Frame) : Word := BitVec.ofNat 64 (cut f 448 64)
def frameRes (f : Frame) : Bool := cut f 8 1 == 1
def frameImg (f : Frame) : Bool := cut f 9 1 == 1

/-- Granules of a strip need (R239). -/
def granulesFor (bytes : Nat) : Nat := (bytes + 16383) / 16384

/-- A well-formed frame (R303). -/
def frameOk (f : Frame) : Bool :=
  cut f 0 8 == 1 && cut f 10 6 == 0 && cut f 41 23 == 0 && cut f 288 32 == 0 && cut f 896 128 == 0
    && decide (frameMin f ≤ 8) && decide (frameMin f ≤ framePref f) && decide (framePref f ≤ 8) && cut f 26 2 != 3
    && decide (cut f 29 3 ≤ 4) && decide (cut f 34 4 ≤ 8) && decide (cut f 38 3 ≤ 5) && cut f 64 2 == 0
    && decide (frameStrip f ≤ 5242880) && cut f 320 13 == 0 && cut f 384 3 == 0 && !(frameRes f && cut f 128 2 != 0)

/-- The frame fault (R301). -/
def frameFault (a : Word) : Stop := trapOf 0x38 a

/-- 128 bytes that an instruction of a strand reads: a frame or an inline record; an UNDEF or POISON sector is malformed. -/
def readBlock (s : State) (a : Word) : Except Stop (Nat × State) := do
  let p ← translate s s.ctx .read a
  let x ← loadSector s s.ctx p a false
  if tagVcls x.1.tag = clsUndef ∨ tagVcls x.1.tag = clsPoison then .error (frameFault a) else .ok (x.1.bits.toNat, x.2)

/-- Write bytes of a sector for an instruction of a strand, as plain stores do (R96). -/
def writeBlock (s : State) (a : Word) (off n v : Nat) : Except Stop State := do
  let p ← translate s s.ctx .write a
  storeSector s s.ctx p a (byteMask off n) none (.bytes off n v) false

/-- The scope of a join (R302): 000 is package. -/
def frameScope (f : Frame) : Scope := match cut f 38 3 with
  | 1 => .core | 2 => .cluster | 3 => .die | 5 => .fabric | _ => .package

/-- Join (R310, R311): the counter loses 1, after what its scope orders has performed. -/
def joinFrame (s : State) (f : Frame) : Except Stop State :=
  if frameJoin f = 0 then .ok s
  else do
    fabricRelease s (frameScope f) true true
    let r ← amoAt s (frameJoin f) .add (0xFFFFFFFFFFFFFFFF) 0 (frameScope f)
    .ok (r.2.release (frameJoin f))

/-! ### Launch queues (R383, R384) -/

/-- The launch queues that a block names (R378, R379): address in its address space and physical address. -/
def Block.queues (b : Block) : List (Word × Nat) :=
  (b.lqPa.zip (List.range 4)).filterMap (fun p => p.1.map (fun pa => (BitVec.ofNat 64 (b.bits (1088 + 64 * p.2) 64), pa)))

/-- The physical address of a queue that a block names. -/
def queuePa (s : State) (block : Nat) (q : Word) : Option Nat :=
  match lookupNat block s.blocks with
  | some b => (b.queues.find? (fun p => p.1 == q)).map (·.2)
  | none => none

/-- The block in the subtree of `block` that names a queue at a physical address, with the address it names it by (R384). -/
def queueOwner (s : State) (block pa : Nat) : Option (Nat × Word) :=
  s.blocks.findSome? (fun b => if under s block b.1 then
    (b.2.queues.find? (fun q => q.2 == pa)).map (fun q => (b.1, q.1)) else none)

/-- A queue's header as its first sector holds it: well-formed (R383), device tasks may append, its size. -/
def queueWellFormed (h : Nat) : Bool :=
  cut h 0 8 == 1 && decide (cut h 9 4 ≤ 12) && cut h 13 51 == 0 && cut h 128 384 != 0 && cut h 576 448 == 0
def queueDevApp (h : Nat) : Bool := cut h 8 1 == 1
def queueSize (h : Nat) : Nat := 2 ^ (4 + cut h 9 4)

/-- AppendIfRoom (R384) by an instruction of a strand, a release that the placement acquires (R311); none when the queue is full. -/
def appendIfRoom (s : State) (q f : Word) (h : Nat) : Except Stop (Option State) := do
  let t ← loadBytes s (q + 512) 8
  let hd ← loadBytes t.2 (q + 64) 8
  let size := queueSize h
  let slot := q + 1024 + BitVec.ofNat 64 (8 * (t.1 % size))
  let _ ← translate s s.ctx .write slot
  if (BitVec.ofNat 64 t.1 - BitVec.ofNat 64 hd.1).toNat ≥ size then .ok none
  else do
    let r ← amoAt hd.2 (q + 512) .add 1 0 .package
    let u ← storeBytes r.2 slot 8 ((f ||| 1).toNat)
    .ok (some (u.release (q + 512)))

/-- A word of memory as the device reads it for itself. -/
def deviceWord (s : State) (ctx : Ctx) (a : Word) : Option Word :=
  (readAreaSector s ctx (sectorVa a)).map (fun x =>
    if tagVcls x.tag = clsUndef then 0 else BitVec.ofNat 64 (x.bytes (a.toNat % 128) 8))

/-- A word that the device writes for itself (R96). -/
def deviceStore (s : State) (ctx : Ctx) (a v : Word) : State :=
  match translate s ctx .write a with
  | .error _ => s
  | .ok p => match storeSector s ctx p a (byteMask (a.toNat % 128) 8) none (.bytes (a.toNat % 128) 8 v.toNat) true with
    | .ok t => t
    | .error _ => s

/-- A word of memory at a physical address as the device reads it; an UNDEF sector reads as zero. -/
def physWord (s : State) (pa : Nat) : Word :=
  if tagVcls (s.physTag (pa / 128)) = clsUndef then 0 else BitVec.ofNat 64 (s.physBytes pa 8)

/-- Bytes that the device writes within a sector at a physical address (R96). -/
def State.storePhys (s : State) (die : Option Nat) (pa n v : Nat) : State :=
  s.writeBase die (pa / 128) ((s.baseSector (pa / 128)).storeBytes (pa % 128) n v)

/-- The first 128 bytes of a queue at a physical address. -/
def queueHeader (s : State) (pa : Nat) : Nat :=
  if tagVcls (s.physTag (pa / 128)) = clsUndef then 0 else s.physBytes pa 128

/-- The owning block of a queue that `namer` names (R378, R383): the installed block whose address its header holds, and where it holds none
the namer (log 63).
DEDUCED (unsafe, log 63). -/
def queueBlock (s : State) (namer pa : Nat) : Nat :=
  let o := cut (queueHeader s pa) 64 64
  if (lookupNat o s.blocks).isSome then o else namer

/-- A block that names a queue, with the address it names it by. -/
def queueNamer (s : State) (pa : Nat) : Option (Nat × Word) :=
  s.blocks.findSome? (fun b => (b.2.queues.find? (fun q => q.2 == pa)).map (fun q => (b.1, q.1)))

/-- The device appends a frame itself (R384); none when the queue is full. -/
def deviceAppend (s : State) (die pa : Nat) (f : Word) : Option State :=
  let size := queueSize (queueHeader s pa)
  let t := physWord s (pa + 512)
  if (t - physWord s (pa + 64)).toNat ≥ size then none
  else
    let s := s.storePhys (some die) (pa + 512) 8 (t + 1).toNat
    some (s.storePhys (some die) (pa + 1024 + 8 * (t.toNat % size)) 8 (f ||| 1).toNat)

/-- The queue to which a task's frame returns (R388): the one that its LQ field names in the task's address space; where that is none, the
one that placed it. The answer is the block that names it, its own or a descendant before any other, and its address.
DEDUCED (unsafe, log 28). -/
def returnQueue (s : State) (die : Nat) (t : TaskInfo) (asid : BitVec 12) (lq : Word) : Nat × Word :=
  match translate s (deviceCtx die asid) .read lq with
  | .error _ => (t.block, t.queue)
  | .ok p => ((queueOwner s t.block p.pa).or (queueNamer s p.pa)).getD (t.block, t.queue)

/-- A frame goes to the tail of its queue, or to the die's hold list of 1,024 frames; none when that is full too (R388). -/
def requeue (s : State) (die : Nat) (t : TaskInfo) (asid : BitVec 12) : Option State :=
  let lq := (deviceWord s (deviceCtx die asid) (t.frame + 56)).getD t.queue
  let q := returnQueue s die t asid lq
  let d := s.die die
  let waiting := d.holdList.any (fun f => f.queue == q.2 && f.block == q.1)
  let put : Option State := match queuePa s q.1 q.2 with
    | some pa => if waiting then none else deviceAppend s die pa t.frame
    | none => none
  let named (u : State) : State := if lq = q.2 then u else deviceStore u (deviceCtx die asid) (t.frame + 56) q.2
  match put with
  | some u => some (named u)
  | none =>
    if 1024 ≤ d.holdList.length then none
    else some (named (s.setDie die { d with
      holdList := d.holdList ++ [{ frame := t.frame, queue := q.2, block := q.1, since := s.cycle.toNat }] }))

/-! ### spawn (R308, R309) -/

/-- The address of an inline record, and its contents. -/
def inlineRecord (s : State) (d : SReg) (fa r : Word) : Nat :=
  let x := s.strand
  packFields ((64, (x.pc + 4).toNat) :: (List.range 7).map (fun i => (64, ((x.s.toList.drop (i + 1)).headD 0).toNat))
    ++ [(64, x.sys.seed.toNat), (64, x.sys.stripbase.toNat),
      (3, x.rm.toNat), (2, x.bank.toNat), (6, d.toNat), (1, if x.mode then 1 else 0), (52, 0), (64, r.toNat), (64, fa.toNat)])

/-- `s1` to `s7`. -/
def Strand.setArgs (x : Strand) (l : List Word) : Strand :=
  (l.zip (List.range l.length)).foldl (fun x p => x.setS (BitVec.ofNat 6 (p.2 + 1)) p.1) x

/-- RM, seed and bank (R304, R309). -/
def Strand.setMath (x : Strand) (rm bank : Nat) (seed base : Word) : Strand :=
  { x with sys := { x.sys with
      status := setField x.sys.status 5 3 rm, seed := seed, stripbase := base, blend := setField x.sys.blend 0 2 bank } }

/-- InlineCall (R309), after its drain. -/
def inlineCall (d : SReg) (fa : Word) (f : Frame) (s : State) : State :=
  let r := s.strand.s[62] - 128
  let go : Except Stop State := do
    checkAlign r 128
    writeBlock s r 0 128 (inlineRecord s d fa r)
  match go with
  | .error x => s.stop x
  | .ok t =>
    let x := (t.strand.setS 62 r).setArgs (fa :: (List.range 6).map (fun i => BitVec.ofNat 64 (cut f (512 + 64 * i) 64)))
    let x := x.setMath (cut f 29 3) (cut f 32 2) (BitVec.ofNat 64 (cut f 192 64)) 0
    let depth := x.inlDepth + 1
    let x := { x with
      sys := { x.sys with status := setBit x.sys.status 8 false, inldepth := setField x.sys.inldepth 4 4 depth }
      sched := { Sched.reset with clock := x.sched.clock }, pc := frameEntry f, lent := none }
    { t with strand := x }

/-- Spawn (R308). -/
def State.spawnFrame (s : State) (d a b : SReg) (tryOnly : Bool) : State :=
  s.onStrand (fun s =>
    let fa := s.rdS a
    let q := s.rdS b
    let go : Except Stop (Frame × Nat × Option State) := do
      need (s.strand.depth == 0) escape
      checkAlign fa 128
      checkAlign q 128
      let pf ← translate s s.ctx .read fa
      let _ ← translate s s.ctx .write fa
      let pq ← translate s s.ctx .read q
      let x ← loadSector s s.ctx pf fa false
      let h ← loadSector x.2 s.ctx pq q false
      let _ ← translate s s.ctx .rmw (q + 512)
      let f := x.1.bits.toNat
      need (frameOk f && !frameImg f && tagVcls x.1.tag != clsUndef && tagVcls x.1.tag != clsPoison) (frameFault fa)
      let hb := h.1.bits.toNat
      need (queueWellFormed hb && queueDevApp hb && (queueOwner s s.strand.block pq.pa).isSome) (trapOf 0x39 q)
      copiesDone s
      match ← appendIfRoom h.2 q fa hb with
      | none => .ok (f, hb, none)
      | some t => do
        let u ← writeBlock t fa 56 8 q.toNat
        .ok (f, hb, some u)
    match go with
    | .error x => s.stop x
    | .ok (_, _, some t) => (t.putS 1 d 0 0).retire
    | .ok (f, _, none) =>
      if tryOnly then (s.putS 1 d 2 0).retire
      else if s.strand.inlDepth = s.strand.inlBound then s.stop (trapOf 0x3A (BitVec.ofNat 64 s.strand.inlBound))
      else s.afterDrain (inlineCall d fa f))

/-- R308: spawn. -/
def execSpawn (d a b : SReg) (s : State) : Out := .next (s.spawnFrame d a b false)

/-- R308: spawn.t. -/
def execSpawnT (d a b : SReg) (s : State) : Out := .next (s.spawnFrame d a b true)

/-! ### task.end and yield -/

/-- The task gives up its save slot (R387). -/
def State.freeSlot (s : State) (t : Option TaskInfo) (asid : BitVec 12) : State :=
  match t with
  | some t => match t.slot with
    | some a => { s with saveSlots := s.saveSlots.filter (fun p => !(p.1 == asid.toNat && p.2 == a)) }
    | none => s
  | none => s

/-- The return of an inline child (R310).
DEDUCED (unsafe, log 28). -/
def inlineReturn (s : State) : State :=
  let r := s.strand.s[62]
  let go : Except Stop (Nat × State) := do
    need (decide (r.toNat % 128 = 0)) (frameFault r)
    let rec_ ← readBlock s r
    need (cut rec_.1 (8 * 88) 64 == r.toNat && cut rec_.1 (8 * 80 + 12) 52 == 0 && cut rec_.1 (8 * 104) 192 == 0) (frameFault r)
    let child := BitVec.ofNat 64 (cut rec_.1 (8 * 96) 64)
    let f ← readBlock rec_.2 child
    need (frameOk f.1) (frameFault child)
    need (cut rec_.1 0 2 == 0) (trapOf 0x05 (BitVec.ofNat 64 (cut rec_.1 0 64)))
    let t ← joinFrame f.2 f.1
    .ok (rec_.1, t)
  match go with
  | .error x => s.stop x
  | .ok (b, t) =>
    let x := t.strand.setArgs ((List.range 7).map (fun i => BitVec.ofNat 64 (cut b (64 * (i + 1)) 64)))
    let x := x.setMath (cut b 640 3) (cut b 643 2) (BitVec.ofNat 64 (cut b 512 64)) (BitVec.ofNat 64 (cut b 576 64))
    let depth := x.inlDepth - 1
    let x := { x with sys := { x.sys with
      status := setBit x.sys.status 8 (cut b 651 1 == 1), inldepth := setField x.sys.inldepth 4 4 depth } }
    let x := (x.setS 62 (r + 128)).setS (BitVec.ofNat 6 (cut b 645 6)) 1
    { t with strand := { x with sched := { Sched.reset with clock := x.sched.clock }, pc := BitVec.ofNat 64 (cut b 0 64), lent := none } }

/-- The end of a task (R310). -/
def endTask (s : State) : State :=
  let go : Except Stop State := match s.strand.task with
    | none => .ok s
    | some t => do
      let f ← readBlock s t.frame
      need (frameOk f.1) (frameFault t.frame)
      joinFrame f.2 f.1
  match go with
  | .error x => s.stop x
  | .ok t => (t.freeSlot t.strand.task t.strand.asid).vacate t.strandId false

/-- What orders both agents waits for every copy of the strand, those that it issued before the trap of a handler included (R269, R310,
R315). -/
def State.afterCopies (f : State → State) (s : State) : State := match copiesDone s .copies with
  | .ok _ => f s
  | .error x => s.stop x

/-- R310: task.end. -/
def execTaskEnd (s : State) : Out :=
  .next (s.onStrand (fun s =>
    if s.strand.depth ≠ 0 then s.stop escape
    else if s.strand.judge then s.stop worldState
    else if s.strand.tip && s.strand.inlDepth != 0 then s.stop (trapOf 0x3D 0)
    else s.afterDrain (State.afterCopies (fun s => if s.strand.inlDepth ≠ 0 then inlineReturn s else endTask s))))

/-- R112: yield. An open fork closes as by abandon.all (log 60). Its traps stand in no order that a rule gives: TIP = 1 first, then
world-escape, then the inline context (log 65).
DEDUCED (unsafe, log 60), DESIGN CHOICE (unsafe, log 65). -/
def execYield (s : State) : Out :=
  .next (s.onStrand (fun s =>
    if s.strand.tip then s.stop (illegal s .yield)
    else if s.strand.depth ≠ 0 then s.stop escape
    else if s.strand.inlDepth ≠ 0 then s.stop (trapOf 0x3D 0)
    else s.afterDrain (fun s =>
      let s := match openSeq s with
        | .ok q => abandonRivals s q
        | .error _ => s
      match s.strand.task with
      | none => s.vacate s.strandId false
      | some t =>
        let go : Except Stop State := do
          let a ← writeBlock s t.frame 16 8 (s.pc + 4).toNat
          let f ← readBlock a t.frame
          writeBlock f.2 t.frame 0 8 (setBit (BitVec.ofNat 64 f.1) 8 true).toNat
        match go with
        | .error x => s.stop x
        | .ok u => match requeue u (dieOf s.strandId) t s.strand.asid with
          | none => s.stop (.wait .requeue)
          | some v =>
            let v := v.release ((deviceWord v s.ctx (t.frame + 56)).getD t.queue + 512)
            (if t.save = 0 then v.freeSlot (some t) s.strand.asid else v).vacate s.strandId false)))

/-! ### The lease instructions -/

/-- R312: lease.req. -/
def execLeaseReq (min pref : SReg) (s : State) : Out :=
  .next (s.onStrand (fun s =>
    let g := s.strandId
    let cap := capOf s g
    if cap < min.toNat then s.stop (trapOf 0x3B (BitVec.ofNat 64 cap))
    else
      let w := setField (setField s.strand.sys.lease 8 4 min.toNat) 12 4 pref.toNat
      let t : State := { s with strand := s.strand.setLease w }
      let x := t.strand
      let pend := decide (x.grantCount ≠ targetOfStrand t g) || decide (x.grantCount < min.toNat)
      (noteHolds { t with strand := (x.setLease (setBit w 16 pend)).settleAge } (coreOf g)).retire))

/-- The shape of both releases (R313): pending results land first. -/
def State.releaseOp (s : State) (discard : Bool) : State :=
  s.onStrand (fun s => if vectorPending s.strand then s.stop (.wait .older) else (releaseLease s discard).retire)

/-- R313: lease.rel. -/
def execLeaseRel (s : State) : Out := .next (s.releaseOp false)

/-- R313: lease.rel.d. -/
def execLeaseRelD (s : State) : Out := .next (s.releaseOp true)

/-! ### The cluster barrier -/

def State.barrier (s : State) (c b : Nat) : Barrier := (lookupNat b ((lookupNat c s.clusters).getD [])).getD Barrier.reset
def State.setBarrier (s : State) (c b : Nat) (x : Barrier) : State :=
  { s with clusters := insertNat c (insertNat b x ((lookupNat c s.clusters).getD [])) s.clusters }

/-- The barrier fault (R301). -/
def barrierFault (b why : Nat) : Stop := trapOf 0x3C (BitVec.ofNat 64 (b + 256 * why))

/-- A barrier's generation completes: each strand of it knows what every one of it knew when it arrived (R196, R315). -/
def completeBarrier (s : State) (c b gen : Nat) : State :=
  if s.unacked.isEmpty then s else
  let here := Knower.barrier c b
  let mine := s.occupied.filter (fun p => p.1 == s.strandId || (clusterOf p.1 == c && p.2.wait == some (.barrier b gen)))
  let t := mine.foldl (fun s p => (s.informs here (.agent p.1 false)).informs here (.agent p.1 true)) s
  { t with unacked := t.unacked.map (fun u => (u.1, { u.2 with known := u.2.known.filter (· != here) })) }

/-- The arrival (R314), after the drain: a release of every earlier event of both agents (R315). -/
def arrive (b count : Nat) (s : State) : State :=
  let c := clusterOf s.strandId
  let x := s.barrier c b
  let fresh := x.arrived = 0
  if !fresh && x.owner != some s.strand.asid then s.stop (barrierFault b 0)
  else if !fresh && x.target != count then s.stop (barrierFault b 1)
  else
    let y := { x with target := count, owner := some s.strand.asid, arrived := x.arrived + 1 }
    let s := ((s.orders true true true).informs (.agent s.strandId false) (.barrier c b)).informs (.agent s.strandId true) (.barrier c b)
    if y.arrived = count then
      ((completeBarrier s c b x.gen.toNat).setBarrier c b { y with gen := x.gen + 1, arrived := 0, owner := none }).retire
    else (s.setBarrier c b y).stop (.wait (.barrier b x.gen.toNat))

/-- R314: bar.cl. -/
def execBarCl (a b : SReg) (s : State) : Out :=
  .next (s.onStrand (fun s =>
    let x := s.rdS a
    let y := s.rdS b
    if 15 < x.toNat ∨ y = 0 ∨ 256 < y.toNat then s.stop (illegalWith s (taskWord 0 a b 6))
    else if s.strand.depth ≠ 0 then s.stop escape
    else s.afterDrain (State.afterCopies (arrive x.toNat y.toNat))))

/-- The generation that a strand waits for at a barrier has completed. -/
def barrierDone (s : State) (g : Nat) : Bool := match (s.strandAt g).wait with
  | some (.barrier b gen) => (s.barrier (clusterOf g) b).gen.toNat != gen
  | _ => false

/-- R314: a waiter resumes. -/
def execBarrierWake (g : Nat) (s : State) : Out :=
  .next (if barrierDone s g then s.setStrandAt g (s.strandAt g).complete else s)

/-- An arrival is withdrawn (R316). -/
def withdraw (s : State) (g : Nat) : State := match (s.strandAt g).wait with
  | some (.barrier b gen) =>
    let x := s.barrier (clusterOf g) b
    if x.gen.toNat ≠ gen ∨ x.arrived = 0 then s
    else s.setBarrier (clusterOf g) b { x with arrived := x.arrived - 1, owner := if x.arrived = 1 then none else x.owner }
  | _ => s

/-- A strand at an instruction boundary for an event (R316): a barrier wait is withdrawn, or completes where its generation has. -/
def atBoundary (s : State) (g : Nat) : State :=
  if barrierDone s g then s.setStrandAt g (s.strandAt g).complete else withdraw s g

/-- An instruction of the strand has begun to act outside it, and finishes before the strand takes an event or leaves (R28, R280:
WaitStarted): it has asked a peer, taken a ticket, or counted a round.
DEDUCED (unsafe, log 14). -/
def Strand.begun (x : Strand) : Bool := match x.wait with
  | some (.response _ _ _) | some (.touchstone _ _) | some (.roundMirrors _) | some .finish => true
  | _ => false

/-- An asynchronous event may be taken by a strand now (R28): between instructions, outside a handler; the end of a loop pass
belongs to its last body word (R102, R103).
DEDUCED (unsafe, log 14). -/
def takesEvents (x : Strand) : Bool :=
  x.phase == .running && !x.tip && !x.atPassEnd && !x.begun && match x.wait with
    | some (.held _) | some .restore | some .resumed | some (.tagging _) => false
    | _ => true

/-- An asynchronous event is taken by strand `g`. -/
def takeEvent (s : State) (g : Nat) (code : BitVec 8) (data : Word) : State :=
  (atBoundary s g).as g (fun s => s.enterTrap { code := code, data := data, vec := false, sub := 0, pa := 0 } true)

end Sys2Proof.Machine
end

