-- ==== Sys2Proof/Machine/Journal.lean ====
section
/-! DEFINITION. The journal ring of record mode (R403, R404) and the recorded inputs and outcomes. The rule gives a record's header and
says which fields each kind holds; where they stand in bytes 16 to 63 is this model's choice (log 70). -/

namespace Sys2Proof.Machine

/-! ### The ring -/

/-- Write 64 bytes at TAIL, which advances. -/
def State.jrnPut (s : State) (v : Nat) : State :=
  let t := s.storePhys none (jrnStart s + s.mgmt.jrntail.toNat % jrnRing s) 64 v
  { t with mgmt := { t.mgmt with jrntail := t.mgmt.jrntail + 64 } }

/-- The header of a record that takes effect at a clock (R404). -/
def recordHeader (s : State) (at_ : Word) (r : JrnRecord) : Nat :=
  packFields [(64, at_.toNat), (8, r.kind), (8, r.blocks.length), (16, r.src), (32, s.mgmt.jrnseq.toNat), (384, r.fields.toNat)]

/-- A header enters the ring under the next sequence number. -/
def State.jrnHeader (s : State) (at_ : Word) (r : JrnRecord) : State :=
  let t := s.jrnPut (recordHeader s at_ r)
  { t with mgmt := { t.mgmt with jrnseq := t.mgmt.jrnseq + 1 } }

/-- The pad record that fills the ring to its end, where the next record would cross it. -/
def State.jrnPadTo (s : State) (at_ : Word) (len : Nat) : State :=
  let n := jrnPad s len
  if n = 0 then s
  else
    let t := s.jrnHeader at_ { kind := 0, src := 0, fields := 0, blocks := [] }
    { t with mgmt := { t.mgmt with jrntail := t.mgmt.jrntail + BitVec.ofNat 64 (n - 64) } }

/-- A record enters the ring. -/
def State.jrnWrite (s : State) (at_ : Word) (r : JrnRecord) : State :=
  let s := (s.jrnPadTo at_ (recordLength r.blocks.length)).jrnHeader at_ r
  r.blocks.foldl (fun s b => (s.jrnPut (b.toNat % 2 ^ 512)).jrnPut (b.toNat / 2 ^ 512)) s

/-- Records that waited enter the ring while it has room, each with the clock of its effect. -/
def drainJournal : Nat → State → State
  | 0, s => s
  | n + 1, s => match s.mgmt.jrnwait with
    | [] => s
    | r :: l =>
      if jrnFits s [r.2.blocks.length] then
        drainJournal n (({ s with mgmt := { s.mgmt with jrnwait := l } } : State).jrnWrite r.1 r.2)
      else s

/-- What waits for the ring enters it as far as it has room. -/
def State.settleJournal (s : State) : State := drainJournal s.mgmt.jrnwait.length s

/-- A record takes effect now: it enters the ring behind those that wait for room (log 70).
DESIGN CHOICE (unsafe, log 70). -/
def State.journal (s : State) (r : JrnRecord) : State :=
  if !s.mgmt.recording then s
  else State.settleJournal { s with mgmt := { s.mgmt with jrnwait := s.mgmt.jrnwait ++ [(s.cycle, r)] } }

/-! ### Recorded outcomes (R403) -/

/-- Fields of 64 bits each, from byte 16 up. -/
def recordFields (l : List Nat) : BitVec 384 := BitVec.ofNat 384 (packFields (l.map (fun n => (64, n % 2 ^ 64))))

/-- Field i of a record. -/
def JrnRecord.word (r : JrnRecord) (i : Nat) : Nat := r.fields.toNat / 2 ^ (64 * i) % 2 ^ 64

/-- A journalled source during replay is ignored; otherwise its outcome is recorded and takes effect. -/
def State.recorded (s : State) (r : JrnRecord) (effect : State → State) : State :=
  if s.mgmt.replaying then s else effect (s.journal r)

/-- The sources of uncorrectable errors (R403: the source unit of kind 0x04), by the number this model gives them (log 70). -/
inductive ErrorUnit where
  | registerFile | state | strip | queueEntry | scratchpad | slice | barista | granule | recoding
deriving DecidableEq, Repr

def ErrorUnit.code : ErrorUnit → Nat
  | .registerFile => 1 | .state => 2 | .strip => 3 | .queueEntry => 4 | .scratchpad => 5 | .slice => 6 | .barista => 7 | .granule => 8
  | .recoding => 9

/-- The record of an uncorrectable error: unit, physical address or all ones, and what else names the place. -/
def errorRecord (u : ErrorUnit) (src pa : Nat) (place : List Nat) : JrnRecord :=
  { kind := 4, src := src, fields := recordFields (u.code :: pa :: place), blocks := [] }

/-- An error of a unit, journalled. -/
def State.errorAt (s : State) (u : ErrorUnit) (src pa : Nat) (place : List Nat) (effect : State → State) : State :=
  s.recorded (errorRecord u src pa place) effect

/-- No physical address. -/
def noPa : Nat := 2 ^ 64 - 1

end Sys2Proof.Machine
end

