-- ==== Sys2Proof/Machine/Switch.lean ====
section
/-! DEFINITION. Pre-emption and the switch (R277 to R281, R289, R296), the drain of an image (R283), restoring one (R286, R287),
ctx.save and ctx.load (R290, R291), and the arbiter's own events (R229, R230). -/

namespace Sys2Proof.Machine

/-! ### Leaving a strand (R280) -/

/-- The strand as the save engine finds it: nothing waits, nothing is monitored, and a lent prefix stands in sys.pfx with PFX = 1
(R74, R280). A handler that is interrupted behind a `pre` resumes at the `pre`, since at TIP = 1 PFX stands for the instruction at sys.epc.
DEDUCED (unsafe, log 29). -/
def Strand.stopped (x : Strand) (pc : Word) : Strand :=
  let y : Strand := { x with
    pc := pc, wait := none, progress := none, monitors := [], watchHit := false, lent := none, notice := none, switchAsked := false }
  let y := y.setStatus (setBit y.sys.status 15 false)
  match x.lent with
  | none => y
  | some l =>
    { y with
      pc := if x.tip then pc - 4 else pc
      sys := { y.sys with pfx := l.setWidth 64, status := setBit y.sys.status 9 true } }

/-- A result that R285 has no kind of descriptor for. -/
def Dest.unkept : Dest → Bool
  | .tileState _ | .codebook _ _ | .queue _ _ | .pos _ _ | .weight _ _ => true
  | _ => false

/-- A region without the results that its image cannot hold. -/
def Sched.kept (r : Sched) : Sched :=
  let l := r.commits.map (fun c => { c with dests := c.dests.filter (fun d => !d.unkept) })
  { r with commits := l.filter (fun c => !c.dests.isEmpty || c.flags != 0) }

/-- The pending results of strand `g` that R285 has no kind for land as its image is written; R247 empties the weight slots (log 50).
DESIGN CHOICE (unsafe, log 50). -/
def landUnkept (s : State) (g : Nat) : State :=
  let x := s.strandAt g
  if (x.sched :: x.heldRegion).all (fun r => r.commits.all (fun c => c.dests.all (fun d => !d.unkept))) then s
  else s.as g (fun s =>
    let x := s.strand
    let land : List Commit := (x.heldRegion.reverse ++ [x.sched]).flatMap (fun r => commitOrder r.commits)
    (land.flatMap (fun c => c.dests.filter Dest.unkept)).foldl applyDest
      { s with strand := { x with sched := x.sched.kept, heldRegion := x.heldRegion.map Sched.kept } })

/-- A strand waits for a grant before it goes on (R286): it held clusters, or a register, predicate or tile is still to land. -/
def Strand.needsGrant (x : Strand) : Bool :=
  x.grant != 0 || (x.sched :: x.heldRegion).any (fun r => r.commits.any (fun c => c.dests.any (fun d => match d with
    | .v _ _ | .p _ _ | .tile _ _ => true
    | _ => false)))

/-- The least VLMAX that a saved register file can have had: an image with an empty grant does not tell (R284, log 50).
DESIGN CHOICE (unsafe, log 50). -/
def Strand.shapeBound (x : Strand) : Nat :=
  x.v.toList.foldl (fun n r => Nat.max n (if Fmt.isWide r.fmt then (r.hw * 64 + x.wmax - 1) / x.wmax else r.hw)) x.predRecord.1

/-- The strand as it is restored (R286): its vector state is to come with its first grant, from its save area where `stored`, the lease
keeps MIN and PREF, and a prefix that was lent is lent again. -/
def Strand.stowed (x : Strand) (stored : Bool) : Strand :=
  let z := match x.leaseZero with
    | some z => z
    | none => { x.vectors with vlmax := if x.grant = 0 then x.shapeBound else x.vlmax }
  let y := x.clearVectors
  let y : Strand := { y with
    p := x.p, leaseZero := some { z with p := x.imagePreds, stored := stored }, wait := if x.needsGrant then some .restore else none
    weights := Vector.replicate 4 none, aboveTargetSince := none }
  let y := y.setLease (x.sys.lease &&& 0xFF00)
  if y.pfxBit && !y.tip then
    ({ y with lent := some (y.sys.pfx.setWidth 15) } : Strand).setStatus (setBit y.sys.status 9 false)
  else y

/-- The requests that strand `g` leaves behind or takes up again: their commits count from its schedule clock (R267, R289). What its agents
know of writes without acknowledgement goes with the task (R194). -/
def State.shiftCopies (s : State) (pick : CopyReq → Bool) (f : CopyReq → CopyReq) : State :=
  { s with cores := s.cores.map (fun c => (c.1, { c.2 with copies := c.2.copies.map (fun r => if pick r then f r else r) })) }

def detachCopies (s : State) (g : Nat) : State :=
  let x := s.strandAt g
  let clock (r : CopyReq) : Nat := if r.region = x.heldRegion.length then x.sched.clock else
    ((x.heldRegion.drop (x.heldRegion.length - 1 - r.region)).head?.map (fun h => h.clock)).getD 0
  (s.shiftCopies (fun r => r.gid == some g) (fun r => { r with
    gid := none, save := areaOf x.task, commitAt := r.commitAt.map (fun c => c - clock r) })).renameKnower (fun k => match k with
      | .agent a ve => if a = g then .task x.asid (frameOf x.task) x.vid ve else k
      | _ => k)

/-- The copies that a task issued before it left its strand are its strand's again (R269, R286), found by address space, view and save
area.
DEDUCED (unsafe, log 25). -/
def attachCopies (s : State) (g : Nat) : State :=
  let x := s.strandAt g
  let clock (r : CopyReq) : Nat := if r.region = x.heldRegion.length then x.sched.clock else
    ((x.heldRegion.drop (x.heldRegion.length - 1 - r.region)).head?.map (fun h => h.clock)).getD 0
  s.shiftCopies (fun r => r.gid.isNone && r.orphan.isNone && r.asid == x.asid && r.view == x.vid && r.save == areaOf x.task)
    (fun r => { r with gid := some g, commitAt := r.commitAt.map (fun c => c + clock r) }) |>.renameKnower (fun k => match k with
      | .task a f v ve => if a = x.asid && f == frameOf x.task && v == x.vid then .agent g ve else k
      | _ => k)

/-- The copies of a task that is removed run to their end without it (R269, R382). -/
def orphanCopies (s : State) (block : Nat) (pick : CopyReq → Bool) : State :=
  s.shiftCopies pick (fun r => { r with gid := none, orphan := some block, commitAt := none })

/-- A copy of a removed task of a block that `mine` names is still in flight. -/
def orphanLeft (s : State) (mine : Nat → Bool) : Bool := s.cores.any (fun c => c.2.copies.any (fun r => r.orphan.any mine))

/-- A held posting of a strand is withdrawn (R361). -/
def withdrawPosting (s : State) (g : Nat) : State :=
  let d := s.die (dieOf g)
  if d.heldPostings.any (fun p => p.source == some g) then
    s.setDie (dieOf g) { d with heldPostings := d.heldPostings.filter (fun p => p.source != some g) }
  else s

/-- The save area of a task: at its first switch its slot becomes SAVE of the frame (R302, R387). -/
def drawSave (s : State) (die : Nat) (asid : BitVec 12) (t : TaskInfo) : State × TaskInfo :=
  if t.save ≠ 0 then (s, t)
  else match t.slot with
    | none => (s, t)
    | some a => (deviceStore s (deviceCtx die asid) (t.frame + 40) a, { t with save := a })


/-- The save engine's accesses to the staging reserve (R283) are demand accesses to strip memory (R295): an image lies in all its banks. -/
def State.demandReserve (s : State) (core : Nat) : State := s.demandStrip core (List.range 16)

/-- A task with a valid binding or an open fork stays on its core (R289). -/
def Strand.mayMigrate (x : Strand) : Bool := x.q.toList.all Option.isNone && !x.judge

/-- Switch (R280) of strand `g` with resume address `pc`; none while its frame has nowhere to go (R388), or the save engine stalls (R360).
A rival's image stands with its view (R208); a strand without a task saves nothing (log 4).
DESIGN CHOICE (unsafe, log 4). -/
def switchOut (s : State) (g : Nat) (pc : Word) (st : ImageState) (migrate : Bool) : Option State :=
  if saveStalled s (coreOf g) then none else
  let s := landUnkept (withdrawPosting (withdraw s g) g) g
  let x := (s.strandAt g).stopped pc
  let core := coreOf g
  let die := dieOf g
  match x.task with
  | none => some (s.vacate g false)
  | some t =>
    let s := detachCopies s g
    if x.vid ≠ 0 then
      let s := (s.setViewState x.vid .spilled).modView x.vid (fun v => { v with gid := none, image := some (x.stowed false) })
      some ((s.clearStrand g true).assayGate core)
    else
      let d := drawSave s die x.asid t
      let ctx := deviceCtx die x.asid
      let s := d.1
      let put : Option State :=
        if st = .queued then
          let f := (deviceWord s ctx t.frame).getD 0
          requeue (deviceStore s ctx t.frame (setBit f 9 true)) die d.2 x.asid
        else some s
      put.map (fun s =>
        let s := (writeArea s ctx d.2.save 8192 (headerBits x x.pc st false true core)).demandReserve core
        let c := s.core core
        let s := s.setCore core { c with
          images := c.images ++ [{ asid := x.asid, save := d.2.save, task := d.2, staged := some { x with task := some d.2 }
                                   granules := x.strip, parked := st == .parked, migrate := migrate && x.mayMigrate }] }
        (s.clearStrand g true).assayGate core)

/-! ### The drain of an image (R283, R289) -/

/-- The first image that a core keeps for an area under a condition. -/
def imageOn (s : State) (core : Nat) (save : Word) (p : StagedImage → Bool) : Option StagedImage :=
  (s.core core).images.find? (fun i => i.save == save && p i)

def State.modImage (s : State) (core : Nat) (asid : BitVec 12) (save : Word) (f : StagedImage → StagedImage) : State :=
  s.setCore core { s.core core with
    images := (s.core core).images.map (fun i => if i.save = save ∧ i.asid = asid then f i else i) }

def State.dropImage (s : State) (core : Nat) (asid : BitVec 12) (save : Word) : State :=
  s.setCore core { s.core core with images := (s.core core).images.filter (fun i => !(i.save == save && i.asid == asid)) }

/-- Change the first word of a header in memory. -/
def editHeader (s : State) (die : Nat) (asid : BitVec 12) (save : Word) (f : Word → Word) : State :=
  let ctx := deviceCtx die asid
  match deviceWord s ctx save with
  | some w => deviceStore s ctx save (f w)
  | none => s

/-- Requests of a task into its own strip allocation that have not completed (R289). -/
def stripCopiesLeft (s : State) (i : StagedImage) : Bool :=
  s.cores.any (fun c => c.2.copies.any (fun r => r.gid.isNone && r.asid == i.asid && r.view == 0 && r.save == i.save && r.dst.strip))

/-- The strip allocation of an image is written behind it, MIG is set and the granules are free (R289). -/
def writeStripImage (s : State) (core : Nat) (i : StagedImage) : State :=
  let ctx := deviceCtx (core / 96) i.asid
  let s := s.demandStrip core (i.granules.flatMap (fun g => (List.range 16).map (fun k => g * 128 + k)))
  let s := (i.granules.zip (List.range i.granules.length)).foldl (fun s p =>
    (List.range 128).foldl (fun s k => writeAreaSector s ctx
      (i.save + BitVec.ofNat 64 (stripImageOffset + 16384 * p.2 + 128 * k)) ((s.core core).stripAt (p.1 * 128 + k))) s) s
  let s := editHeader s (core / 96) i.asid i.save (fun w => setBit w 11 true)
  (s.freeGranules core i.granules).dropImage core i.asid i.save

/-- A staged image drains: its records, then its header with STG = 0; what software has written to the area meanwhile is overwritten
(R283). -/
def drainImage (s : State) (core : Nat) (i : StagedImage) : State :=
  match i.staged with
  | none => s
  | some x =>
    let st : ImageState := if i.parked then .parked else .queued
    ((writeImage s (core / 96) core x i.save st false false true).demandReserve core).modImage core i.asid i.save
      (fun j => { j with staged := none })

/-- The vector state of a strand that a grant of 0 saved, with something not yet in its save area (R231, R313). -/
def Strand.unsaved (x : Strand) : Bool := match x.leaseZero with
  | some z => x.wait != some .restore && !z.stored && x.vid == 0
  | none => false

/-- The strand of a core whose lease-zero save is to be written to the area `save`. -/
def unsavedOn (s : State) (core : Nat) (save : Word) : Option (Nat × Strand × TaskInfo) :=
  s.occupied.findSome? (fun p => match p.2.task with
    | some t => if coreOf p.1 = core ∧ p.2.unsaved ∧ areaOf p.2.task = save then some (p.1, p.2, t) else none
    | none => none)

/-- A number with the bits [lo, lo + w) replaced. -/
def putBits (n lo w v : Nat) : Nat := n - cut n lo w * 2 ^ lo + v % 2 ^ w * 2 ^ lo

/-- The vector directories of a header for a lease-zero save (R231, R284): RDIR, TDIR, PL and the predicate record; the sectors of the
header that hold none of them stay. -/
def writeDirectory (s : State) (ctx : Ctx) (save : Word) (x : Strand) : State :=
  let h := readRecordBits s ctx save 64
  let n := headerBits x x.pc .running false false 0
  let h := putBits (putBits (putBits (putBits h 12288 8192 (cut n 12288 8192)) 8512 64 (cut n 8512 64)) 20488 18 x.predHeader.1) 20512 32
    x.predHeader.2
  [8, 12, 13, 14, 15, 16, 17, 18, 19, 20].foldl (fun s i =>
    writeArea s ctx (save + BitVec.ofNat 64 (128 * i)) 128 (cut h (1024 * i) 1024)) s

/-- R283: an image of a core drains to its save area, with its strip image where it migrates; or the vector state of a lease-zero save
(R231).
DEDUCED (unsafe, log 29). -/
def execStagingDrainComplete (core save : Nat) (s : State) : Out :=
  .next (
    let a : Word := BitVec.ofNat 64 save
    if saveStalled s core then s else
    match imageOn s core a (fun i => i.staged.isSome) with
    | some i =>
      let t := drainImage s core i
      if i.migrate && !stripCopiesLeft s i then writeStripImage t core i else t
    | none => match unsavedOn s core a with
      | none => s
      | some (g, x, t) =>
        let d := drawSave s (core / 96) x.asid t
        let ctx := deviceCtx (core / 96) x.asid
        let u := (imageRecords x).foldl (fun s r =>
          if r.1 < commitOffset then writeArea s ctx (a + BitVec.ofNat 64 r.1) r.2.len r.2.bits else s) (d.1.demandReserve core)
        let u := writeDirectory u ctx a x
        (u.setStrandAt g { x.cleaned with task := some d.2 }).assayGate core)

/-- An image that has drained and migrates, with no copy left into its strip allocation (R289). -/
def readyToMigrate (s : State) (core : Nat) (i : StagedImage) : Bool :=
  i.migrate && i.staged.isNone && !stripCopiesLeft s i && !saveStalled s core

/-- R289: the last copy into the strip allocation of a task that migrates is complete, and its strip image is written. -/
def execStripCopyWaitEnd (core save : Nat) (s : State) : Out :=
  .next (match imageOn s core (BitVec.ofNat 64 save) (readyToMigrate s core) with
    | some i => writeStripImage s core i
    | none => s)

/-! ### Restoring (R286) -/

/-- The core that keeps an image of an address space in an area. -/
def imageCore (s : State) (asid : BitVec 12) (save : Word) : Option (Nat × StagedImage) :=
  s.cores.findSome? (fun c => (c.2.images.find? (fun i => i.save == save && i.asid == asid)).map (fun i => (c.1, i)))

/-- The image of a task comes to core `core`: the strand it describes with its strip granules. One that is still staged drains first. An
image that no core keeps, or that another core keeps, takes new granules for its strip image. -/
def takeImage (s : State) (core : Nat) (asid : BitVec 12) (save : Word) (h granules : Nat) : State × Strand :=
  let ctx := deviceCtx (core / 96) asid
  let fromArea (s : State) : State × Strand :=
    let r := s.takeGranules core granules
    let r := (r.1.demandStrip core (r.2.flatMap (fun g => (List.range 16).map (fun k => g * 128 + k))), r.2)
    let u := (r.2.zip (List.range r.2.length)).foldl (fun s p => (List.range 128).foldl (fun s k =>
      match readAreaSector s ctx (save + BitVec.ofNat 64 (stripImageOffset + 16384 * p.2 + 128 * k)) with
      | some x => s.setCore core ((s.core core).setStrip (p.1 * 128 + k) x)
      | none => s) s) r.1
    (u, { readImage u ctx save h with strip := r.2 })
  match imageCore s asid save with
  | none => fromArea s
  | some (c, i) =>
    if c = core then
      let s := if i.staged.isSome then s.demandReserve core else s
      let x := match i.staged with
        | some x => x.cleaned
        | none => readImage s ctx save h
      ((drainImage s core i).dropImage core asid save, { x with strip := i.granules })
    else fromArea ((s.freeGranules c i.granules).dropImage c asid save)

/-- Events before a save come before events after the resume, as a `fence.all` at package scope orders them (R202): a task that resumes
waits for the copies that it left in flight (R269). -/
def awaitCopies (s : State) (g : Nat) : State :=
  let x := s.strandAt g
  if x.wait.isNone && !(copiesOf s g).isEmpty then s.setStrandAt g { x with wait := some .resumed } else s

/-- A restored task comes onto strand `g` (R286); the header reads running. -/
def restoreOn (s : State) (g : Nat) (asid : BitVec 12) (t : TaskInfo) (h granules : Nat) : State :=
  let r := takeImage s (coreOf g) asid t.save h granules
  let s := editHeader r.1 (dieOf g) asid t.save (fun w => setField (setBit w 21 false) 8 3 3)
  (awaitCopies (attachCopies (runImage s g { r.2.stowed true with asid := asid, task := some t }) g) g).assayGate (coreOf g)

/-- A commit's values after a change of VLMAX (R286). -/
def Commit.reshape (c : Commit) (wmax m m' : Nat) : Commit :=
  { c with dests := c.dests.map (fun d => match d with
    | .v r v => .v r (v.reshape wmax m m')
    | .p r v => .p r (predReshape v m m')
    | d => d) }

def Sched.reshape (r : Sched) (wmax m m' : Nat) : Sched := { r with commits := r.commits.map (fun c => c.reshape wmax m m') }

/-- A strand that waits for its grant would have it now: a cluster has become free in this clock (R230). -/
def grantNow (s : State) (g : Nat) : Bool :=
  let x := (applyGrant s g).strandAt g
  (s.core (coreOf g)).freed && (x.grant != 0 || !x.pend)

/-- A grant that a waiting strand takes: its registers follow, weight slots are empty (R121, R231). -/
def takeGrant (s : State) (g : Nat) : State :=
  let s := (applyGrant s g).restored g
  s.setStrandAt g { (s.strandAt g).follow 0 with
    lastBoundary := s.cycle.toNat, weights := Vector.replicate 4 none, wait := none, progress := some .granted }

/-- R230: a strand that waits at a strip boundary runs ApplyGrant; the boundary ends where its wait does.
DESIGN CHOICE (safe, log 11). -/
def execGrantWaitApply (g : Nat) (s : State) : Out :=
  .next (if (s.strandAt g).wait = some .grant ∧ grantNow s g then takeGrant s g else s)

/-- A restored task's grant is of at least max(MIN, 1) clusters. -/
def restoreNow (s : State) (g : Nat) : Bool :=
  let x := (applyGrant s g).strandAt g
  (s.strandAt g).wait == some .restore && decide (Nat.max x.least 1 ≤ x.grantCount) && !saveStalled s (coreOf g)

/-- R286, R287: a restored task gets its grant; registers, predicates, tiles and pending values follow the new VLMAX, VL falls to it,
and a change of VLMAX raises event 0x51. -/
def execRestoreAtGrant (g : Nat) (s : State) : Out :=
  .next (
    if !restoreNow s g then s
    else
      let saved := s.strandAt g
      let t := takeGrant s g
      let x := t.strandAt g
      let m := saved.vlmax
      let x : Strand := { x with
        sched := x.sched.reshape x.wmax m x.vlmax, heldRegion := x.heldRegion.map (fun r => r.reshape x.wmax m x.vlmax)
        progress := none
        resumedReshaped := if m = x.vlmax then none else some (BitVec.ofNat 64 saved.vl) }
      (awaitCopies (t.setStrandAt g (x.setVl (Nat.min saved.vl x.vlmax))) g).assayGate (coreOf g))

/-- R287: event 0x51, after the held copy events. -/
def execResumedReshaped (g : Nat) (s : State) : Out :=
  .next (
    let x := s.strandAt g
    match x.resumedReshaped with
    | none => s
    | some vl => if takesEvents x && x.copyEvents.isEmpty then
        takeEvent (s.setStrandAt g { x with resumedReshaped := none }) g 0x51 vl else s)

/-! ### Notices (R278, R279) -/

/-- A notice is posted (R278): NP and a deadline; one that is pending keeps its own. One that has been taken and not satisfied stays
outstanding with the new one. -/
def postNotice (s : State) (g : Nat) (source : NoticeSource) : State :=
  let x := s.strandAt g
  let n : Notice := match x.notice with
    | some n => if x.np then n else { n with deadline := s.cycle + 2000, source := if n.source = .distributor then n.source else source }
    | none => { deadline := s.cycle + 2000, source := source, due := s.cycle + 2000 }
  s.setStrandAt g (({ x with notice := some n } : Strand).setStatus (setBit x.sys.status 15 true))

/-- Clusters held above target past the limit of R229. -/
def holdTimedOut (s : State) (x : Strand) : Bool :=
  x.phase == .running && x.notice.isNone && match x.aboveTargetSince with
    | some t => decide (Nat.max t x.lastBoundary + 65536 ≤ s.cycle.toNat)
    | none => false

/-- R229: a holder above its target passes no strip boundary, and gets a notice. -/
def execArbiterHoldTimeout (g : Nat) (s : State) : Out :=
  .next (if holdTimedOut s (s.strandAt g) then postNotice s g .arbiter else s)

/-- A strand whose posting is held takes a notice: the posting is withdrawn, and its instruction runs again later (R361). -/
def Strand.postingHeld (x : Strand) : Bool := x.phase == .running && !x.tip && match x.wait with
  | some (.held _) => true
  | _ => false

/-- A pending notice can be taken: NE = 1, TIP = 0, after copy events and 0x51 (R278, R287). -/
def noticeNow (x : Strand) : Bool :=
  x.np && x.ne && (takesEvents x || x.postingHeld) && x.copyEvents.isEmpty && x.resumedReshaped.isNone

/-- R278, R361: a pending notice is taken as event 0x50; NP clears, and a held posting is withdrawn. -/
def execPreemptionNotice (g : Nat) (s : State) : Out :=
  .next (
    let x := s.strandAt g
    match x.notice with
    | none => s
    | some n => if noticeNow x then
        takeEvent (withdrawPosting (s.setStrandAt g (x.setStatus (setBit x.sys.status 15 false))) g) g 0x50 n.deadline else s)

/-- DistributorAsks (R290). -/
def distributorAsks (x : Strand) : Bool := match x.notice with
  | some n => n.source == .distributor
  | none => false

/-- The grace period of a strand is over (R279).
DEDUCED (unsafe, log 14). -/
def graceOver (s : State) (x : Strand) : Bool :=
  x.phase == .running && !x.atPassEnd && !x.begun && match x.notice with
    | some n => decide (n.due < s.cycle)
    | none => false

/-- A forced switch waits for an instruction that has begun, and for a `bar.cl` whose generation has completed to complete (R280, R316).
DEDUCED (unsafe, log 14). -/
def switchHeld (s : State) (g : Nat) : Bool := (s.strandAt g).atPassEnd || (s.strandAt g).begun || barrierDone s g

/-- A forced switch (R277, R279); one whose frame has nowhere to go (R388) is asked for again. -/
def forceSwitch (s : State) (g : Nat) (migrate : Bool) : State :=
  (switchOut s g (s.strandAt g).pc .queued migrate).getD (s.setStrandAt g { s.strandAt g with switchAsked := true })

/-- R279: a notice that has not been satisfied by its deadline forces a switch. -/
def execGracePeriodExpiry (g : Nat) (s : State) : Out :=
  .next (
    let x := s.strandAt g
    if graceOver s x then forceSwitch s g (distributorAsks x) else s)

/-- R277: the supervisor or the management interface forces a switch or posts a notice. -/
def execForcedSwitchRequest (g : Nat) (switchNow fromManagement : Bool) (s : State) : Out :=
  .next (
    let x := s.strandAt g
    if x.phase ≠ .running then s
    else if switchNow then (if switchHeld s g then s.setStrandAt g { x with switchAsked := true } else forceSwitch s g false)
    else postNotice s g (if fromManagement then .management else .supervisor))

/-! ### Images that are removed -/

/-- A task that has left its strand is removed: its bindings, its strip granules, its copies and its slot are free, and its header reads
removed. -/
def removeImage (s : State) (core : Nat) (i : StagedImage) : State :=
  let ctx := deviceCtx (core / 96) i.asid
  let x := match i.staged with
    | some x => x
    | none => readImage s ctx i.save (readRecordBits s ctx i.save 64)
  let s := drainImage s core i
  let s := editHeader s (core / 96) i.asid i.save (fun w => setField (setBit w 21 false) 8 3 4)
  let s := x.q.toList.foldl (fun s b => match b with
    | some q => s.unbindQueue core q.toNat
    | none => s) s
  let s := orphanCopies s i.task.block (fun r => r.gid.isNone && r.orphan.isNone && r.asid == i.asid && r.save == i.save)
  ((s.freeGranules core i.granules).dropImage core i.asid i.save).freeSlot (some i.task) i.asid

/-- An uncorrectable error of an image's header (R293): a record of the frame is posted, and the task is removed where a core still keeps
its image.
DEDUCED (unsafe, log 53). -/
def removeLost (s : State) (block : Nat) (asid : BitVec 12) (frame save : Word) (r : RecordParts) : State :=
  let s := s.savePost r.core (mkRecord { r with code := 0x82, asid := asid, block := domainOf s block, va := frame } s.cycle)
  let s := match imageCore s asid save with
    | some (c, i) => removeImage s c i
    | none => s
  s.autoRecover block

/-- A record that names no strand (R359). -/
def RecordParts.noStrand (core : Nat) : RecordParts :=
  { code := 0, sub := 0, asid := 0, core := core, strand := 0, vec := false, pc := 0, va := 0, pa := 0xFFFFFFFFFFFFFFFF, vstart := 0
    block := 0, view := 0, depth := 0 }

/-! ### ctx.save and ctx.load -/

/-- The status of the context that a handler interrupted (R290). -/
def interruptedStatus (w : Word) : Word := setBit (setBit (setBit w 10 (bit w 11)) 8 (bit w 12)) 13 false

/-- A handler's own frame is dropped: the strand stands where the handler would return to. -/
def State.unhandled (s : State) : State :=
  let x := s.strand.carryCommits
  State.thaw { s with strand := { x with
    pc := x.sys.epc, sys := { x.sys with status := interruptedStatus x.sys.status }
    loop := x.loop.map (fun l => { l with running := true }) } }

/-- R290: ctx.save. -/
def execCtxSave (s : State) : Out :=
  .next (s.privileged .ctxSave (fun s =>
    if s.strand.depth ≠ 0 then s.stop escape
    else
      let t : State := if s.strand.tip then s.unhandled else { s with strand := { s.strand with pc := s.strand.pc + 4 } }
      match switchOut t t.strandId t.strand.pc .queued (distributorAsks s.strand) with
      | some t => t
      | none => s.stop (.wait .requeue)))

/-- The block that names a task's launch queue in an address space. -/
def blockOfQueue (s : State) (asid : BitVec 12) (q : Word) : Option Nat :=
  (s.blocks.find? (fun b => effAsid s b.1 == asid && b.2.queues.any (fun p => p.1 == q))).map (·.1)

/-- The check of a target's header (R291).
DEDUCED (unsafe, log 29). -/
def loadCheck (s : State) (h save f : Nat) : Nat :=
  let asid : BitVec 12 := BitVec.ofNat 12 (cut h 5120 12)
  let core := coreOf s.strandId
  let kept := imageCore s asid (BitVec.ofNat 64 save)
  let block : Option Nat := match kept with
    | some (_, i) => some i.task.block
    | none => blockOfQueue s asid (frameQueue f)
  let here := match kept with
    | some (c, _) => c == core
    | none => false
  if save = 0 ∨ cut h 8 3 ≠ 2 then 1
  else if asid ≠ s.strand.asid ∨ block ≠ some s.strand.block then 2
  else if cut h 11 1 = 0 ∧ cut h 12 9 ≠ core then 3
  else if !here ∧ (freeGranuleList s core).length < granulesFor (frameStrip f) then 4
  else if !headerOk h then 5
  else 0

/-- Every sector of a header translates, and none is BUSY. -/
def reachHeader (s : State) : List Word → Except Stop Unit
  | [] => .ok ()
  | a :: l => do
    let p ← translate s s.ctx .read a
    need (tagVcls (s.physTag (p.pa / 128)) != clsBusy) (.wait (.busy (p.pa / 128)))
    reachHeader s l

/-- The 64 sectors of a header as an instruction reads them; none where one is POISON (R293). -/
def readHeader (s : State) (save : Word) : Except Stop (Option Nat) := do
  reachHeader s ((List.range 64).map (fun i => save + BitVec.ofNat 64 (128 * i)))
  .ok (readArea s (deviceCtx (dieOf s.strandId) s.strand.asid) save 64)

/-- A malformed image of a task of the strand's block: a record is posted under the task's fault domain (R284). -/
def malformedImage (s : State) (frame : Word) : State :=
  (s.savePost (coreOf s.strandId) (mkRecord { RecordParts.noStrand (coreOf s.strandId) with
    code := 0x84, asid := s.strand.asid, block := domainOf s s.strand.block, va := frame } s.cycle)).autoRecover s.strand.block

/-- R291: ctx.load.
DEDUCED (unsafe, log 29). -/
def execCtxLoad (d a : SReg) (s : State) : Out :=
  .next (s.onStrand (fun s =>
    let word : Word := (packWord (Fields.fmtA 0x6F d a 0 1)).setWidth 64
    if !s.strand.priv then s.stop (trapOf 0x02 word)
    else if s.strand.tip then s.stop (illegalWith s word)
    else if s.strand.depth ≠ 0 then s.stop escape
    else
      let fa := s.rdS a
      let own := (s.strand.task.map (fun t => t.frame)) = some fa
      let go : Except Stop (Nat × Option Nat) := do
        let f ← readBlock s fa
        let h ← if own || frameSave f.1 == 0 then .ok (some 0) else readHeader s (frameSave f.1)
        .ok (f.1, h)
      match go with
      | .error x => s.stop x
      | .ok (f, none) =>
        let t := removeLost s ((blockOfQueue s s.strand.asid (frameQueue f)).getD s.strand.block) s.strand.asid fa
          (frameSave f) (RecordParts.noStrand (coreOf s.strandId))
        (t.putS 1 d 5 0).retire
      | .ok (f, some h) =>
        let c := if own then 1 else loadCheck s h (frameSave f).toNat f
        let s := if c = 5 then malformedImage s fa else s
        if c ≠ 0 then (s.putS 1 d (BitVec.ofNat 64 c) 0).retire
        else
          let g := s.strandId
          let asid := s.strand.asid
          let block := s.strand.block
          let y := s.strand.setS d 0
          match switchOut { s with strand := { y with pc := y.pc + 4 } } g (y.pc + 4) .parked false with
          | none => s
          | some t =>
            let save := frameSave f
            let info : TaskInfo := match imageCore t asid save with
              | some (_, i) => i.task
              | none => { frame := fa, queue := frameQueue f, block := block, save := save
                          slot := if t.saveSlots.contains (asid.toNat, save) then some save else none, rival := none
                          placedAt := t.cycle.toNat, bank := s.strand.task.bind (fun k => k.bank) }
            restoreOn t g asid { info with placedAt := t.cycle.toNat } h (granulesFor (frameStrip f))))

/-! ### Commits and late values -/

/-- Commits of a strand that are due, when its region is not held by a late value. -/
def commitsDue (x : Strand) : List Commit := x.sched.commits.filter (fun c => decide (c.due ≤ x.sched.clock))

/-- A copy into strip memory whose schedule clock has come and that is not complete freezes its region (R236, R267). -/
def lateCopy (s : State) (g : Nat) : Bool :=
  let x := s.strandAt g
  x.mode && s.cores.any (fun c => c.2.copies.any (fun r => r.gid == some g && r.dst.strip && r.region == x.heldRegion.length &&
    match r.commitAt with
    | some t => decide (t ≤ x.sched.clock)
    | none => false))

/-- R24, R235: the commits of a strand that are due land. -/
def execCommitLand (g : Nat) (s : State) : Out :=
  .next (
    let x := s.strandAt g
    if lateCopy s g then s
    else s.as g (fun s =>
      (commitOrder (commitsDue x)).foldl applyCommit { s with strand := { s.strand with sched := { s.strand.sched with
        commits := s.strand.sched.commits.filter (fun c => decide (s.strand.sched.clock < c.due)) } } }))

/-- R236: a late value is ready, and the region of the strand goes on. -/
def execLateResultReady (g : Nat) (s : State) : Out :=
  .next (s.onWait g (fun x => x.wait == some .late && !lateCopy s g) Strand.rerun)

/-- R230, R232: the reshape of strand `g` ends, and the clusters it released are free. -/
def execReshapeComplete (g : Nat) (s : State) : Out :=
  .next (
    let c := s.core (coreOf g)
    (s.setCore (coreOf g) { c with pendingFree := c.pendingFree.filter (fun p => p.2 != g) }).clustersFreed (coreOf g))

/-! ### Placing rivals (R208) -/

/-- A rival is placed on strand `g`. -/
def placeRival (s : State) (g id : Nat) (v : View) : State :=
  match v.image with
  | none => s
  | some x =>
    (awaitCopies (attachCopies ((runImage s g x).setViewState id .running |>.modView id (fun v =>
      { v with gid := some g, image := none })) g) g).assayGate (coreOf g)

/-- The judge of a core that waits in `choose` with a rival that has no strand, and that rival (R208). -/
def waitingJudge (s : State) (core : Nat) : Option (Nat × Nat × View) :=
  s.occupied.findSome? (fun p =>
    if coreOf p.1 = core ∧ p.2.wait = some .choose then
      match p.2.fork with
      | some f => ((waitingRivals s core).find? (fun v => v.2.fork == f.seq)).map (fun v => (p.1, v.1, v.2))
      | none => none
    else none)

/-- The judge leaves its strand to a rival: it is parked with its strip allocation and its bindings. -/
def parkJudge (s : State) (g : Nat) : State :=
  let x := s.strandAt g
  match x.fork with
  | none => s
  | some f =>
    let s := detachCopies s g
    let s : State := { s with parked := s.parked ++ [{ fork := f.seq, core := coreOf g, strand := ({ x with wait := none } : Strand).stowed false }] }
    let s := if x.vid = 0 then s else (s.setViewState x.vid .spilled).modView x.vid (fun v => { v with gid := none })
    (s.clearStrand g true).assayGate (coreOf g)

/-- What RIVAL_PLACE would do on a core: a rival and its strand, and whether a judge gives it up.
DEDUCED (unsafe, log 27). -/
def rivalChoice (s : State) (core : Nat) : Option (Nat × Nat × View × Bool) :=
  if saveStalled s core then none else match freeStrandOf s core with
  | some g => ((waitingRivals s core).find? (fun p => strandFits s p.2.block)).map (fun p => (g, p.1, p.2, false))
  | none => (waitingJudge s core).map (fun p => (p.1, p.2.1, p.2.2, true))

/-- R208: the next waiting rival of a core takes a free strand, or the strand of its judge that waits in `choose`. -/
def execRivalPlace (core : Nat) (s : State) : Out :=
  .next (match rivalChoice s core with
    | none => s
    | some (g, id, v, park) => placeRival (if park then parkJudge s g else s) g id v)

/-- A parked judge of core of strand `g` whose rivals are all terminal (R208). -/
def readyJudge (s : State) (g : Nat) : Option Parked :=
  if saveStalled s (coreOf g) then none else
  s.parked.find? (fun p => p.core == coreOf g && (s.rivals p.fork).all Rival.terminal)

/-- R208, R211: the wait of a `choose` ends: on its strand, or a parked judge resumes on strand `g`. -/
def execChooseResume (g : Nat) (s : State) : Out :=
  .next (
    let x := s.strandAt g
    if x.phase = .running ∧ x.wait = some .choose then
      match x.fork with
      | some f => if (s.rivals f.seq).all Rival.terminal then s.setStrandAt g x.rerun else s
      | none => s
    else match readyJudge s g with
      | none => s
      | some p =>
        if strandFree s g && strandFits s p.strand.block then
          let s : State := { s with parked := s.parked.filter (fun q => q.fork != p.fork) }
          let s := runImage s g p.strand
          let s := if p.strand.vid = 0 then s
            else (s.setViewState p.strand.vid .running).modView p.strand.vid (fun v => { v with gid := some g })
          (awaitCopies (attachCopies s g) g).assayGate (coreOf g)
        else s)

end Sys2Proof.Machine
end

