-- ==== Sys2Proof/Machine/CopyEngine.lean ====
section
/-! DEFINITION. The copy engine's own steps (R264 to R266): sector moves, completion, misses and stops, and the events it raises to
a task (R244). -/

namespace Sys2Proof.Machine

/-! ### The engine -/

/-- The context of a request (R329: SOURCE names the engine). -/
def CopyReq.ctx (r : CopyReq) (core : Nat) : Ctx :=
  { die := core / 96, gid := r.gid, asid := r.asid, user := r.user, view := r.view, barista := false, agent := r.gid, vec := true
    origin := some r.origin, owner := some (r.asid, r.frame) }

/-- Why a sector does not move now: it waits, it is asked for at a peer (R393), or it stops the request, which reports an address. -/
inductive CopyHalt where
  | wait
  | ask (dev addr : Nat) (m : CemenMsg)
  | stop (a : Word)
deriving DecidableEq, Repr

/-- A memory access of the engine that waits, or that stops its request. -/
def haltOf (va : Word) : Stop → CopyHalt
  | .wait _ => .wait
  | _ => .stop va

/-- The endpoints of one side that a request still has to reach, each with its page. -/
def CopyReq.pagesLeft (r : CopyReq) (side : CopyMove → CopyEnd) : List (Page × Word) :=
  (r.moves.drop r.moved).filterMap (fun m => (side m).page?.map (fun q => (q.2, q.1)))

/-- The engine requests a sector with what else of its line the request reaches (R327). -/
def copyTouch (s : State) (core : Nat) (r : CopyReq) (side : CopyMove → CopyEnd) (p : Page) (va : Word) (write : Bool) : State :=
  s.touch (r.ctx core) p va (lineMask (r.pagesLeft side) (p.pa / 512)) write true

/-- The peer that a source sector is asked for at: no view of the request's chain has written it (R213, R393). -/
def copyPeer (s : State) (r : CopyReq) (p : Page) : Option (Nat × Nat) := match physClass p.pa with
  | .window slot => match targetOf s p.pa slot with
    | .peer dev addr => if (chainCopy s (p.pa / 128) 5 r.view).isSome then none else some (dev, addr)
    | _ => none
  | _ => none

/-- A source sector (R265), without waiting for a strand's own copies. A peer's is asked for, and its error answer stops the request
(R395). -/
def copyRead (s : State) (core : Nat) (r : CopyReq) (e : CopyEnd) : Except CopyHalt (Sector × State) :=
  match e with
  | .strip off => match stripSector r.granules off with
    | some sec => .ok ((s.core core).stripAt sec, s.demandStrip core [sec])
    | none => .ok ({ bits := 0, tag := tagUndef }, s)
  | .mem va p => match copyPeer s r p with
    | some (dev, addr) => match r.answer with
      | some m => if m.header.extractLsb' 156 1 = 1 then .error (.stop va) else .ok (answered m addr, s)
      | none => .error (.ask dev addr
          { port := 0, header := cemenHeader 2 (2 ^ (addr / 128 % 4)) dev (addr / 512 * 512) 0 0, mask := 0, blocks := [] })
    | none => (loadSector (copyTouch s core r (fun m => m.src) p va false) (r.ctx core) p va true).mapError (haltOf va)

/-- The reasons for which a sector stops its request (R265): a malformed tag, or a format that a destination page's grid does
not fit. -/
def copyStops (src dst : CopyEnd) (t : Tag) : Bool :=
  let bad : Bool := match src with
    | .mem _ p => malformedSector p.grid t
    | .strip _ => match Fmt.ofCode (tagFmt t) with
      | none => true
      | some f => Fmt.isInt f && tagScale t == 0xFF
  bad || match dst with
    | .mem _ p => !Fmt.fits (tagFormat t) p.grid
    | .strip _ => false

/-- The address of an endpoint, as an event reports it. -/
def CopyEnd.addr : CopyEnd → Word
  | .mem va _ => va
  | .strip off => BitVec.ofNat 64 off

/-- One sector move: the state after it, or why it does not move now. -/
def copyMove (s : State) (core : Nat) (r : CopyReq) (m : CopyMove) : Except CopyHalt State := do
  let x ← match m.kept with
    | some x => Except.ok (x, s)
    | none => copyRead s core r m.src
  if copyStops m.src m.dst x.1.tag then .error (.stop m.src.addr)
  else match m.dst with
    | .strip off => match stripSector r.granules off with
      | some sec => .ok (x.2.setCore core (((x.2.core core).demand [sec]).setStrip sec x.1))
      | none => .ok x.2
    | .mem va p => (storeSector (copyTouch x.2 core r (fun m => m.dst) p va true) (r.ctx core) p va (BitVec.allOnes 128) none (.whole x.1)
        true).mapError (haltOf va)

/-- The clock from which the next sector of a request may move: the last one moves at the promise (R264). -/
def CopyReq.nextAt (r : CopyReq) : Nat :=
  r.promise.toNat - (128 * (r.moves.length - r.moved - 1) + copyRate r.memEnd - 1) / copyRate r.memEnd

/-- The next sector of a request, where it can move now.
DEDUCED (unsafe, log 25). -/
def moveReady (s : State) (core : Nat) (r : CopyReq) : Bool :=
  decide (r.nextAt ≤ s.cycle.toNat) && match r.moves.drop r.moved with
    | [] => false
    | m :: _ => match copyMove s core r m with
      | .error .wait => false
      | .error (.ask _ _ _) => r.asking.isNone
      | _ => true

def State.modCopies (s : State) (core : Nat) (f : List CopyReq → List CopyReq) : State :=
  s.setCore core { s.core core with copies := f (s.core core).copies }

/-- Change one request of a core. -/
def State.modCopy (s : State) (core id : Nat) (f : CopyReq → CopyReq) : State :=
  s.modCopies core (fun l => l.map (fun q => if q.id = id then f q else q))

/-- A request leaves the core: the last of a removed task that reaches its strip allocation frees the granules (R382). -/
def State.endCopy (s : State) (core : Nat) (r : CopyReq) : State :=
  let s := s.modCopies core (fun l => l.filter (fun q => q.id != r.id))
  if r.orphan.isSome && r.view == 0 && (r.src.strip || r.dst.strip) then s.freeGranules core r.granules else s

/-- Write a held event behind those that a header in memory holds (R284: HELD, HELD2). -/
def holdInImage (s : State) (die : Nat) (asid : BitVec 12) (save : Word) (e : CopyEvent) : State :=
  let ctx := deviceCtx die asid
  let place (i : Nat) : Word := save + BitVec.ofNat 64 (if i < 16 then 1280 + 16 * i else 5640 + 16 * (i - 16))
  match (List.range 32).find? (fun i => match deviceWord s ctx (place i) with
    | some w => !bit w 8
    | none => false) with
  | none => s
  | some i => deviceStore (deviceStore s ctx (place i) (e.code.setWidth 64 ||| 0x100)) ctx (place i + 8) e.data

/-- An event is raised to the task of a request (R266): held for its strand, for a judge that is parked, with the view of a spilled
rival, in the staged image, or in the save area; a task that has been removed takes none. -/
def raiseCopyEvent (s : State) (core : Nat) (r : CopyReq) (e : CopyEvent) : State :=
  if r.orphan.isSome then s else
  let add (x : Strand) : Strand := { x with copyEvents := x.copyEvents ++ [e] }
  let mine (x : Strand) : Bool := x.asid == r.asid && x.vid == r.view && areaOf x.task == r.save
  match r.gid with
  | some g => s.modStrand g add
  | none =>
    if s.parked.any (fun p => mine p.strand) then
      { s with parked := s.parked.map (fun p => if mine p.strand then { p with strand := add p.strand } else p) }
    else if r.view ≠ 0 then s.modView r.view (fun v => { v with image := v.image.map add })
    else match imageCore s r.asid r.save with
      | some (c, i) => if i.staged.isSome then s.modImage c r.asid r.save (fun j => { j with staged := j.staged.map add })
        else holdInImage s (core / 96) r.asid r.save e
      | none => holdInImage s (core / 96) r.asid r.save e

/-- R265: the first request of the core whose next sector can move moves it, or asks a peer for it; a sector that cannot move stops its
request. -/
def execCopySectorMove (core : Nat) (s : State) : Out :=
  .next (match (s.core core).copies.find? (moveReady s core) with
    | none => s
    | some r => match r.moves.drop r.moved with
      | [] => s
      | m :: _ => match copyMove s core r m with
        | .ok t => t.modCopy core r.id (fun q => { q with moved := q.moved + 1, asking := none, answer := none })
        | .error .wait => s
        | .error (.ask dev addr m) =>
          if r.asking.isSome then s
          else (s.sendPlain (.cemen m)).modCopy core r.id (fun q => { q with asking := some (dev, addr) })
        | .error (.stop a) => raiseCopyEvent (s.endCopy core r) core r { code := 0x46, data := a })

/-- R265: the first request of the core whose sectors have all moved completes. -/
def execCopyRequestComplete (core : Nat) (s : State) : Out :=
  .next (match (s.core core).copies.find? (fun r => r.moved == r.moves.length) with
    | none => s
    | some r => s.endCopy core r)

/-- The promise of what is left of a request, from the clock of a miss (R264, R266).
DEDUCED (unsafe, log 25). -/
def CopyReq.again (r : CopyReq) (now : Word) : Word :=
  let left := r.moves.length - r.moved
  now + BitVec.ofNat 64 (copyLat r.memEnd + copyTime r.memEnd (128 * left) ((left + r.rowSectors - 1) / r.rowSectors))

/-- A request misses its promise: it gets a new one, and event 0x45 is raised with it (R266). -/
def missRequest (s : State) (core : Nat) (r : CopyReq) (promise : Word) : State :=
  let s := s.modCopy core r.id (fun q => { q with missed := true, promise := promise })
  raiseCopyEvent s core r { code := 0x45, data := promise }

/-- The record of a miss (R404): strand, issue clock, new promise. -/
def missRecord (core : Nat) (r : CopyReq) (promise : Word) : JrnRecord :=
  { kind := 3, src := core, fields := recordFields [r.gid.getD 0xFFFF, r.issued, promise.toNat], blocks := [] }

/-- R266: a request that has not completed at its promise misses it, once; record mode journals the miss (R403). -/
def execPromiseMiss (core req : Nat) (s : State) : Out :=
  .next (match (s.core core).copies.find? (fun r => r.id == req) with
    | none => s
    | some r =>
      if r.missed ∨ s.cycle ≤ r.promise then s
      else
        let p := r.again s.cycle
        s.recorded (missRecord core r p) (fun s => missRequest s core r p))

/-- R244, R266: the oldest held copy event of a strand is taken. -/
def execCopyEventTaken (g : Nat) (s : State) : Out :=
  .next (
    let x := s.strandAt g
    match x.copyEvents with
    | [] => s
    | e :: l => if takesEvents x then takeEvent (s.setStrandAt g { x with copyEvents := l }) g e.code e.data else s)

end Sys2Proof.Machine
end

