-- ==== Sys2Proof/Machine/Failures.lean ====
section
/-! DEFINITION. Errors of a core's and a cluster's storage (R226, R240, R241, R292, R293, R299), of the slices (R322), the Assayer
(R294, R295), and the removal of a task (R219, R293, R382). -/

namespace Sys2Proof.Machine

/-! ### Records of the device (R359) -/

/-- A device event's record without a task. -/
def deviceRecord (s : State) (code : BitVec 8) (core : Nat) (block : Nat) : FaultRecord :=
  mkRecord { code := code, sub := 0, asid := 0, core := core, strand := 0, vec := false, pc := 0, va := 0
             pa := 0xFFFFFFFFFFFFFFFF, vstart := 0, block := block, view := 0, depth := 0 } s.cycle

/-- A device event of a core is posted to its die's fault queue. -/
def State.report (s : State) (code : BitVec 8) (core block : Nat) : State := s.savePost core (deviceRecord s code core block)

/-! ### Removing a task -/

/-- The task of strand `g` is removed (R382 steps 1 to 3 and 7): the copies that it has issued go on without it, its arrivals and postings
are withdrawn, its open fork ends, a rival's view is faulted, the die's distributor posts a record, and the strand is free.
DEDUCED (unsafe, log 62). -/
def removeWith (s : State) (g : Nat) (code : BitVec 8) : State :=
  let x := s.strandAt g
  if x.phase = .free then s else
  let s := withdrawPosting (withdraw s g) g
  let s := s.distributorPost (dieOf g)
    (strandRecord s g { code := code, data := 0, vec := false, sub := 0, pa := 0xFFFFFFFFFFFFFFFF })
  let s := match x.judge, x.fork with
    | true, some f => s.as g (fun s => abandonRivals s f.seq)
    | _, _ => s
  let s := if x.vid = 0 then orphanCopies s x.block (fun r => r.gid == some g)
    else { s with cores := s.cores.map (fun c => (c.1, { c.2 with copies := c.2.copies.filter (fun r => r.gid != some g) })) }
  if x.vid ≠ 0 then
    let own := s.ownView x (some g)
    let s := (s.faultView x (some g)).vacate g false
    match own with
    | some id => s.modView id (fun v => { v with gid := none, image := none, strip := none })
    | none => s
  else (s.freeSlot x.task x.asid).vacate g false

/-- Removal with record 0x82 (R293, R378, R382). -/
def removeTask (s : State) (g : Nat) : State := removeWith s g 0x82

/-- The error of R293: the task of the strand is removed. -/
def stateError (s : State) (g : Nat) : State :=
  let block := (s.strandAt g).block
  if (s.strandAt g).phase = .free then s else (removeTask s g).autoRecover block

/-- R293: an error in the state of a task removes it. -/
def execStateUncorrectableError (g : Nat) (s : State) : Out :=
  .next (s.errorAt .state (g / 32) noPa [g] (fun s => stateError s g))

/-! ### Lanes (R226, R292) -/

/-- The strand that holds a cluster of a core. -/
def holderOf (s : State) (core cluster : Nat) : Option Nat :=
  ((List.range 32).map (fun k => core * 32 + k)).find? (fun g => (s.strandAt g).grant / 2 ^ cluster % 2 == 1)

/-- A lane retires (R226): at once where its cluster is free, at the holder's next strip boundary where it is leased.
DEDUCED (unsafe, log 35). -/
def retireLane (s : State) (core lane : Nat) : State :=
  let c := s.core core
  if !bit c.lanemap lane || bit c.retiring lane then s
  else
    let c : CoreSt := { c with laneErrors := eraseNat lane c.laneErrors }
    let c : CoreSt := match holderOf s core (lane / 8) with
      | some _ => { c with retiring := setBit c.retiring lane true }
      | none => { c with lanemap := setBit c.lanemap lane false }
    let m := s.mgmt
    let s : State := { s.setCore core c with mgmt := { m with
      retired := insertNat core (setBit ((lookupNat core m.retired).getD 0) lane true) m.retired } }
    s.report 0x85 core 0

/-- R292, R408: a corrected error of a lane is counted; past the threshold the lane retires. -/
def execRegisterFileCorrectedError (core lane : Nat) (s : State) : Out :=
  .next (
    let c := s.core core
    let n := (lookupNat lane c.laneErrors).getD 0 + 1
    let s := s.setCore core { c with laneErrors := insertNat lane n c.laneErrors }
    let limit := field s.mgmt.lrthr 0 16
    if limit ≠ 0 ∧ limit < n then retireLane s core lane else s)

/-- The ordinal of a live lane among the live lanes of a strand's clusters, in the order of sys.lanemap (R171, R224). -/
def laneOrdinal (map : Word) (grant lane : Nat) : Nat :=
  ((List.range lane).filter (fun l => bit map l && grant / 2 ^ (l / 8) % 2 == 1)).length

/-- The positions of a register that overlap word `w` of its part of a lane (R171, R224, R292). -/
def positionsAt (x : Strand) (ordinal word : Nat) (f : Fmt) : List Nat :=
  let w := slotWidth x.wmax f
  let off := word / 4 * (x.live * 256) + ordinal * 256 + word % 4 * 64
  (List.range ((off + 63) / w + 1)).filter (fun i => decide (off < (i + 1) * w) && decide (i < x.regBytes * 8 / w))

/-- Poison marks at positions of a register; the high-water mark covers them (R282).
DEDUCED (unsafe, log 35). -/
def VReg.mark (r : VReg) (l : List Nat) : VReg :=
  if l.isEmpty then r else
  { r with
    tag := mkTag clsPoison (tagScale r.tag) (tagFmt r.tag)
    marks := l.foldl (fun m i => m ||| BitVec.twoPow 131072 i) r.marks
    hw := l.foldl (fun h i => Nat.max h (i + 1)) r.hw, entry := none }

/-- The number of what a register-file error struck. -/
def partCode : RegFilePart → Nat
  | .slots => 0 | .tag => 1 | .micro => 2

/-- The error of R292 in a word of a lane.
DEDUCED (unsafe, log 53). -/
def wordError (s : State) (core lane word : Nat) (part : RegFilePart) (again : Bool) : State :=
  let c := s.core core
  let key := lane * 2048 + word
  let twice := again || c.wordErrors.contains key
  let s := s.setCore core { c with wordErrors := if c.wordErrors.contains key then c.wordErrors else c.wordErrors ++ [key] }
  let s := match holderOf s core (lane / 8) with
    | none => s
    | some g =>
      let x := s.strandAt g
      let per := 2048 / x.nreg
      let n := word / per
      let r := (x.v.toList.drop n).headD VReg.reset
      let hit := positionsAt x (laneOrdinal c.lanemap x.grant lane) (word % per) r.fmt
      let l := match part with
        | .slots => hit
        | .tag => List.range (x.regBytes * 8 / slotWidth x.wmax r.fmt)
        | .micro => (hit.take 1).flatMap (fun i => (List.range 32).map (fun k => i / 32 * 32 + k))
      s.setStrandAt g (x.setV (BitVec.ofNat 6 n) (r.mark l))
  if twice then retireLane s core lane else s

/-- R292: an uncorrectable error of a register-file word marks the positions it struck; a second one at a place retires the lane
(R226). `word` counts the 8-byte words of the lane's 16 KiB; for a micro-scale it is the word that the scale's block begins in (log 53). -/
def execRegisterFileUncorrectableError (core lane word : Nat) (part : RegFilePart) (again : Bool) (s : State) : Out :=
  .next (s.errorAt .registerFile core noPa [lane, word, partCode part, if again then 1 else 0] (fun s => wordError s core lane word part again))

/-! ### Strip memory, queues, scratchpads and slices -/

/-- A tag turns POISON. -/
def poisoned (t : Tag) : Tag := mkTag clsPoison (tagScale t) (tagFmt t)

/-- The error of R240 in a strip sector. -/
def stripError (s : State) (core sector : Nat) : State :=
  let c := s.core core
  let x := c.stripAt sector
  s.setCore core (c.setStrip sector { x with tag := poisoned x.tag })

/-- R240: a strip sector becomes POISON. -/
def execStripUncorrectableError (core sector : Nat) (s : State) : Out :=
  .next (s.errorAt .strip core noPa [sector] (fun s => stripError s core sector))

/-- An entry of a queue after an uncorrectable error (R241). -/
def QEntry.spoil (e : QEntry) : QEntry := match e with
  | .slots tag w elems _ => .slots (poisoned tag) w elems (List.range elems.length)
  | .sector sec grid taken => .sector { sec with tag := poisoned sec.tag } grid taken
  | .scalar branch v _ => .scalar branch v true

/-- The error of R241 in an entry of a queue. -/
def queueError (s : State) (core queue entry : Nat) : State :=
  match lookupNat queue (s.core core).queues with
  | none => s
  | some q =>
    let l := (q.entries.zip (List.range q.entries.length)).map (fun p => if p.2 = entry then p.1.spoil else p.1)
    s.setCore core { s.core core with queues := insertNat queue { q with entries := l } (s.core core).queues }

/-- R241: an entry of a queue has an uncorrectable error. -/
def execQueueEntryUncorrectableError (core queue entry : Nat) (s : State) : Out :=
  .next (s.errorAt .queueEntry core noPa [queue, entry] (fun s => queueError s core queue entry))

/-- The error of R299 in a scratchpad sector. -/
def scratchError (s : State) (pa : Nat) : State :=
  match physClass pa with
  | .scratch _ => { s with mem := s.mem.setTag (pa / 128) (poisoned (s.mem.tag (pa / 128))) }
  | _ => s

/-- R299: a scratchpad sector becomes POISON. -/
def execScratchpadUncorrectableError (pa : Nat) (s : State) : Out :=
  .next (s.errorAt .scratchpad 0 pa [] (fun s => scratchError s pa))

/-- A view's copy of a sector, and its stamp, change. -/
def State.modViewCopy (s : State) (view sector : Nat) (f : Sector × Word → Sector × Word) : State :=
  s.modView view (fun v => { v with copies := match lookupNat sector v.copies with
    | some c => insertNat sector (f c) v.copies
    | none => v.copies })

/-- A sector whose only current data stood in a slice turns POISON (R322): a view's copy, a line of host memory, or the base. -/
def poisonSector (s : State) (view sector : Nat) : State :=
  if view ≠ 0 then s.modViewCopy view sector (fun c => ({ c.1 with tag := poisoned c.1.tag }, c.2))
  else match physClass (128 * sector) with
    | .window _ => { s with hostTags := insertNat (targetAddr s (128 * sector) / 128) (poisoned (s.physTag sector)) s.hostTags }
    | _ => { s with mem := s.mem.setTag sector (poisoned (s.mem.tag sector)) }

/-- The error of R322 in a slot of a slice; a slot of a view's earlier generation holds nothing (R319). -/
def sliceError (s : State) (die sector view : Nat) (inStamp : Bool) : State :=
  let d := s.die die
  let key := slotKey sector view
  match lookupNat key d.slots with
  | none => s
  | some sl =>
    let drop := s.setDie die { d with slots := eraseNat key d.slots }
    if sl.gen ≠ viewGen s view then drop
    else if inStamp then
      if sl.stale then drop
      else (s.setDie die { d with slots := insertNat key { sl with stamp := 0 } d.slots }).modViewCopy view sector (fun c => (c.1, 0))
    else if sl.dirty then poisonSector s view sector
    else drop

/-- The error of R363 in a slot of an LLC line: a clean sector is dropped, and a view's copy is then in its spill page; a dirty one turns
POISON, unless a die's slice holds newer data; a stamp becomes 0. -/
def llcError (s : State) (sector view : Nat) (inStamp : Bool) : State :=
  let key := wayOf (slotKey sector view)
  let i := sector % 4
  match (lookupNat key s.llc).bind (fun e => lookupNat i e.slots) with
  | none => s
  | some sl =>
    let drop := s.modLlc key (fun e => { e with slots := eraseNat i e.slots })
    if sl.gen ≠ viewGen s view then drop
    else if inStamp then s.modLlc key (fun e => { e with slots := insertNat i { sl with stamp := 0 } e.slots })
    else if sl.dirty then
      if s.dies.any (fun d => (lookupNat (slotKey sector view) d.2.slots).any (fun q => q.dirty && q.gen == sl.gen)) then drop
      else poisonSector s view sector
    else if view = 0 then drop
    else drop.modView view (fun v => { v with spilled := if v.spilled.contains sector then v.spilled else v.spilled ++ [sector] })

/-- The error of a slot of a die's slice, or of the LLC, which this model numbers 4. -/
def slotError (s : State) (die sector view : Nat) (inStamp : Bool) : State :=
  if die = 4 then llcError s sector view inStamp else sliceError s die sector view inStamp

/-- R322, R363: an error of a slot of a die's slice, or of the LLC as die 4: a clean copy is dropped, a dirty sector becomes POISON, a
stamp is lost with a STALE copy and is 0 in a current one.
DEDUCED (unsafe, log 34). -/
def execSliceUncorrectableError (die sector view : Nat) (inStamp : Bool) (s : State) : Out :=
  .next (s.errorAt .slice (die * 48 + sector / 4 % 48) (128 * sector) [view, if inStamp then 1 else 0, die] (fun s => slotError s die sector view inStamp))

/-! ### Vertical buses and the Assayer (R294, R295) -/

def CoreSt.bus (c : CoreSt) (b : Nat) : Bus := (lookupNat b c.buses).getD { corrected := 0, failing := 0, reported := false, due := false }

/-- R294, R408: a corrected error of a bus is counted, and the bus is due where its count passes the threshold as it stands now.
DEDUCED (unsafe, log 36). -/
def execVerticalBusCorrectedError (core bus : Nat) (s : State) : Out :=
  .next (
    let c := s.core core
    let b := c.bus bus
    let limit := field s.mgmt.asthr 0 16
    let b : Bus := { b with corrected := b.corrected + 1, due := limit != 0 && decide (limit < b.corrected + 1) }
    s.setCore core { c with buses := insertNat bus b c.buses })

/-- The lowest bus of a core that is due. -/
def dueBus (c : CoreSt) : Option Nat := (c.buses.find? (fun b => b.2.due && !b.2.reported)).map (·.1)

/-- R294, R295: after a save or a restore the Assayer goes on with its test, or begins one on a due bus.
DEDUCED (unsafe, log 36). -/
def execAssayerRun (core : Nat) (s : State) : Out :=
  .next (
    let c := s.core core
    if !c.assayNow then s
    else s.setCore core { c with
      assayNow := false, assayHeld := false, assayDemand := false, assayer := match c.assayer with
        | some a => some a
        | none => (dueBus c).map (fun b => (b, 0)) })

/-- R294, R295: a vector ends with `failing` newly failing wires, each steered to one of 4 spares; a bus with too few spares is reported
and its core takes no further task; 32 vectors are a full test, which clears the count. At the end of a vector that a demand access waits
for, the Assayer suspends until the next save or restore, and the vector is still to be driven.
DEDUCED (unsafe, log 36). -/
def execAssayerVectorEnd (core failing : Nat) (s : State) : Out :=
  .next (
    let c := s.core core
    match c.assayer with
    | none => s
    | some (bus, done) =>
      if c.assayHeld then s
      else if c.assayDemand then s.setCore core { c with assayDemand := false, assayHeld := true }
      else
      let b := c.bus bus
      let wires := b.failing + failing
      let tooMany := decide (4 < wires) && !b.reported
      let full := decide (32 ≤ done + 1)
      let b : Bus :=
        { corrected := if full then 0 else b.corrected, failing := wires, reported := b.reported || tooMany, due := b.due && !full }
      let s := s.setCore core { c with
        buses := insertNat bus b c.buses, assayer := if full then none else some (bus, done + 1), closed := c.closed || tooMany }
      if tooMany then
        ({ s with mgmt := { s.mgmt with reports := s.mgmt.reports ++ [(core, bus)] } } : State).report 0x86 core 0
      else s)

end Sys2Proof.Machine
end

