-- ==== Sys2Proof/Machine/Baristas.lean ====
section
/-! DEFINITION. Baristas (R324 to R344): the handler instructions, messages, the start and the end of invocations, prefetches, the
slices' own events, and what the management interface clears. -/

namespace Sys2Proof.Machine

/-! ### The handler instructions (R331) -/

/-- The word of a handler instruction: edata of the trap that a strand takes (R331). -/
def handlerWord (d a b : BitVec 6) (minor : BitVec 7) : Word := (packWord (Fields.fmtA 0x71 d a b minor)).setWidth 64

/-- The shape of a handler instruction: a strand that executes it traps; a guarded-off word does nothing (R331). -/
def State.onBarista (s : State) (word : Word) (f : Nat → Invocation → State → State) : State :=
  match s.turn with
  | none => s.stop (illegalWith s word)
  | some b => match (s.barista b).invocation with
    | none => s
    | some v => s.guarded (f b v)

/-- A prefetch is dropped and counted (R332). -/
def State.dropPrefetch (s : State) (b : Nat) : State :=
  let x := s.barista b
  s.setBarista b { x with counters := { x.counters with pfdrop := satInc x.counters.pfdrop } }

/-- R332: h.fetch. -/
def execHFetch (a b : SReg) (s : State) : Out :=
  .next (s.onBarista (handlerWord 0 a b 0) (fun me v s =>
    let w := s.rdS b
    let mask : BitVec 4 := w.setWidth 4
    if field w 5 59 ≠ 0 then s.stop (.abort 0xFE)
    else if mask = 0 then s.retire
    else match translate s s.ctx .read (lineVa (s.rdS a)) with
      | .error (.wait x) => s.stop (.wait x)
      | .error _ => (s.dropPrefetch me).retire
      | .ok p =>
        let x := s.barista me
        if 32 ≤ x.prefetches.length then s.stop (.wait .prefetch)
        else
          let e : Prefetch :=
            { page := p, mask := mask, view := v.event.view, asid := v.event.asid, vline := lineVa (s.rdS a)
              hop := if bit w 4 && v.event.hop != 15 then some (v.event.hop + 1) else none }
          (s.setBarista me { x with prefetches := x.prefetches ++ [e] }).retire))

/-- The message handler of an address space on a die; 0 without one. -/
def messageEntry (s : State) (die : Nat) (asid : BitVec 12) : Word := match lookupNat asid.toNat (s.die die).directory with
  | some d => d.msg
  | none => 0

/-- HPost (R333). -/
def hpost (s : State) (me : Nat) (v : Invocation) (addr payload source : Word) (fwd : Bool) : State :=
  if fwd ∧ v.event.kind ≠ 3 then s.stop (.abort 0xFE)
  else if v.event.hop = 15 then s.stop (.abort 0xFA)
  else match translate s s.ctx .read addr with
    | .error x => s.stop x
    | .ok p =>
      let target := homeBarista (me / 48) p.pa
      let m : HandlerEvent :=
        { kind := 3, sect := 0, dirty := 0, hop := v.event.hop + 1, write := false, view := 0, asid := v.event.asid, addr := addr
          payload := payload, source := source }
      if !p.hen ∨ messageEntry s (me / 48) v.event.asid = 0 then s.stop (.abort 0xFD)
      else if v.event.view ≠ 0 then
        match s.defer s.ctx 0 (.message target m) with
        | .error x => s.stop x
        | .ok t => t.retire
      else if !messageRoom s target then s.stop (if target = me then .abort 0xF9 else .wait (.message target))
      else (s.sendMessage target m).retire

/-- R333: h.post; its SOURCE is this barista (R329). -/
def execHPost (a b : SReg) (s : State) : Out :=
  .next (s.onBarista (handlerWord 0 a b 1) (fun me v s =>
    hpost s me v (s.rdS a) (s.rdS b) (BitVec.ofNat 64 (2 ^ 15 + me % 48)) false))

/-- R333: h.fwd keeps the payload and the source of the current message. -/
def execHFwd (a : SReg) (s : State) : Out :=
  .next (s.onBarista (handlerWord 0 a 0 2) (fun me v s => hpost s me v (s.rdS a) v.event.payload v.event.source true))

/-- The stamp of the copy that barista `me`'s slice holds of a sector along a view's chain (R334); all ones without one.
DEDUCED (unsafe, log 33). -/
def stampOf (s : State) (me view : Nat) (p : Page) : Word :=
  let sec := p.pa / 128
  if homeBarista (me / 48) p.pa ≠ me ∨ (regionOf s p).isNone then BitVec.allOnes 64
  else
    let w := chainView s sec 5 view
    match lookupNat (slotKey sec w) (s.die (me / 48)).slots with
    | some sl => if sl.gen = viewGen s w then sl.stamp else BitVec.allOnes 64
    | none => BitVec.allOnes 64

/-- R334: h.stamp. -/
def execHStamp (d a : SReg) (s : State) : Out :=
  .next (s.onBarista (handlerWord d a 0 3) (fun me v s => match translate s s.ctx .read (s.rdS a) with
    | .error x => s.stop x
    | .ok p => (s.putS 1 d (stampOf s me v.event.view p) 0).retire))

/-- R334: h.stamp.adv acts as round.adv. -/
def execHStampAdv (d a : SReg) (s : State) : Out :=
  .next (s.onBarista (handlerWord d a 0 4) (fun me v s =>
    let x := s.rdS a
    let rg := field x 0 10
    if field x 10 54 ≠ 0 then s.stop (.abort 0xFE)
    else if !ownsRegion s rg v.event.asid then s.stop (.abort 0xFD)
    else if v.event.view ≠ 0 then s.stop (.abort 0xFC)
    else match (s.barista me).progress with
      | some (.round n) => ((s.setBarista me { s.barista me with progress := none }).putS 1 d n 0).retire
      | _ =>
        let r := s.region rg
        let t := (s.setRegion rg (r.advance rg)).informs (.agent (12288 + me) false) (.region rg)
        (t.setBarista me { t.barista me with progress := some (.round (r.count + 1)) }).stop (.wait (.roundMirrors rg))))

/-- An invocation ends; the clock in which it does is charged (R335, R336). -/
def State.endInvocation (s : State) (b : Nat) : State :=
  let s := s.chargeInvocation b
  (s.setBarista b { s.barista b with invocation := none, lent := none, wait := none, progress := none }).forgetAgent (12288 + b)

/-- R335: h.done. -/
def execHDone (s : State) : Out := .next (s.onBarista (handlerWord 0 0 0 5) (fun me _ s => s.endInvocation me))

/-- R335: h.abort. -/
def execHAbort (a : SReg) (s : State) : Out :=
  .next (s.onBarista (handlerWord 0 a 0 6) (fun _ _ s =>
    let x := s.rdS a
    s.stop (.abort (if x.toNat < 0x80 then x.setWidth 8 else 0xFE))))

/-- R340: bmsg. -/
def execBmsg (a b : SReg) (s : State) : Out :=
  .next (s.onStrand (fun s => s.guarded (fun s =>
    let va := s.rdS a
    let go : Except Stop State := do
      checkAlign va 8
      let p ← translate s s.ctx .read va
      need (p.hen && messageEntry s (dieOf s.strandId) s.strand.asid != 0) (trapOf 0x58 va)
      let target := homeBarista (dieOf s.strandId) p.pa
      let m : HandlerEvent :=
        { kind := 3, sect := 0, dirty := 0, hop := 0, write := false, view := 0, asid := s.strand.asid, addr := va
          payload := s.rdS b, source := sourceOf s.ctx false }
      if s.strand.depth ≠ 0 then s.defer s.ctx 0 (.message target m)
      else do
        copiesDone s .copies
        need (messageRoom s target) (.wait (.message target))
        .ok (s.sendMessage target m)
    match go with
    | .error x => s.stop x
    | .ok t => t.retire)))

/-! ### Events of a slice's queue (R328, R329, R336, R337) -/

/-- R328: the oldest message on its way to a slice's queue arrives; its reservation is freed. -/
def execMessageArrival (bar : Nat) (s : State) : Out :=
  .next (match (s.barista bar).inFlight with
    | [] => s
    | m :: l => (s.setBarista bar { s.barista bar with inFlight := l }).queueEvent bar m)

/-- The entry address of an event's handler on a die (R326); 0 without one. -/
def DirEntry.entry (d : DirEntry) (kind : BitVec 2) : Word := match kind.toNat with
  | 0 => d.miss
  | 1 => d.fill
  | 2 => d.evict
  | _ => d.msg

/-- s1 of an invocation (R329). -/
def eventWord (e : HandlerEvent) : Word :=
  BitVec.ofNat 64 (e.kind.toNat + 4 * e.sect.toNat + 2 ^ 6 * e.dirty.toNat + 2 ^ 10 * e.hop.toNat
    + (if e.write then 2 ^ 14 else 0) + 2 ^ 16 * e.view)

/-- The registers at an invocation's start (R329). -/
def startRegisters (e : HandlerEvent) (start : Word) (limit : Nat) (harg : Word) : Vector Word 64 :=
  Vector.ofFn (fun i : Fin 64 => match i.val with
    | 1 => eventWord e
    | 2 => e.addr
    | 3 => e.payload
    | 4 => e.source
    | 5 => start
    | 6 => start + BitVec.ofNat 64 limit
    | 7 => harg
    | _ => 0)

/-- R329: the event at the head of an idle barista's queue starts its invocation, which acquires where it is a message (R343); without a
directory entry it is discarded and counted in DROPQ (R328). -/
def execInvocationStart (bar : Nat) (s : State) : Out :=
  .next (
    let x := s.barista bar
    match x.invocation, x.queue with
    | none, e :: l =>
      let drop := s.setBarista bar { x with queue := l, counters := { x.counters with dropq := satInc x.counters.dropq } }
      match lookupNat e.asid.toNat (s.die (bar / 48)).directory with
      | none => drop
      | some d =>
        if d.entry e.kind = 0 then drop
        else
          let limit := if d.limit = 0 then 1024 else d.limit
          let t := if e.kind = 3 then s.informs (.slice bar) (.agent (12288 + bar) false) else s
          t.setBarista bar { x with
            queue := l, s := startRegisters e s.cycle limit d.harg, p := 0, pc := d.entry e.kind, lent := none, wait := none
            progress := none, invocation := some { event := e, start := s.cycle, limit := limit, lost := false } }
    | _, _ => s)

/-- An invocation's time is over: clock START + LIMIT - 1 has passed (R336). -/
def overTime (s : State) (x : Barista) : Bool := match x.invocation with
  | some v => decide (v.start.toNat + v.limit ≤ s.cycle.toNat)
  | none => false

/-- The record of an expiry (R404): ASID, START. -/
def expiryRecord (bar : Nat) (v : Invocation) : JrnRecord :=
  { kind := 2, src := bar, fields := recordFields [v.event.asid.toNat, v.start.toNat], blocks := [] }

/-- R336: an invocation that has not ended within its limit aborts with code 0xFF; record mode journals the expiry (R403). -/
def execHandlerTimeLimit (bar : Nat) (s : State) : Out :=
  .next (match (s.barista bar).invocation with
    | none => s
    | some v => if overTime s (s.barista bar) then s.recorded (expiryRecord bar v) (fun s => s.abortHandler bar 0xFF) else s)

/-- The error of R337: the invocation aborts with code 0xF7 and record 0x83 is posted. -/
def baristaError (s : State) (bar : Nat) : State :=
  let die := bar / 48
  let asid : BitVec 12 := match (s.barista bar).invocation with
    | some v => v.event.asid
    | none => 0
  let block := match lookupNat asid.toNat (s.die die).directory with
    | some d => domainOf s d.block
    | none => 0
  let r := mkRecord { code := 0x83, sub := 0, asid := asid, core := 0x1FF, strand := 0, vec := false, pc := (s.barista bar).pc, va := 0
                      pa := 0xFFFFFFFFFFFFFFFF, vstart := 0, block := block, view := 0, depth := 0 } s.cycle
  let t := s.abortHandler bar 0xF7
  ((t.setBarista bar { t.barista bar with code := [] }).post die r (some (12288 + bar))).1

/-- R337: an uncorrectable error of a barista aborts its invocation with code 0xF7 and posts record 0x83; its code is fetched anew. -/
def execBaristaUncorrectableError (bar : Nat) (s : State) : Out :=
  .next (s.errorAt .barista bar noPa [] (fun s => baristaError s bar))

/-! ### Prefetches, fills and coherence (R321, R332) -/

/-- A sector that a prefetch reads of the base is BUSY (R34, R332). -/
def prefetchHeld (s : State) (f : Prefetch) : Bool :=
  (List.range 4).any (fun i =>
    let sec := f.page.pa / 512 * 4 + i
    f.mask.getLsbD i && chainView s sec 5 f.view == 0 && tagVcls (s.physTag sec) == clsBusy)

/-- R332: the oldest prefetch of a slice is done, once none of its sectors is BUSY: absent sectors of its mask are installed, with a fill
event where it notifies. -/
def execPrefetchFill (bar : Nat) (s : State) : Out :=
  .next (match (s.barista bar).prefetches with
    | [] => s
    | f :: l =>
      if prefetchHeld s f then s
      else
        let s := s.setBarista bar { s.barista bar with prefetches := l }
        let p := f.page
        let line := p.pa / 512
        let die := bar / 48
        let miss := if cacheable s p then absentMask s die f.view line f.mask else 0
        if miss = 0 then s
        else
          let s := installSlots s die 0 f.asid f.vline p line miss f.view
          match f.hop with
          | none => s
          | some h =>
            if !p.hen then s
            else s.queueEvent (homeBarista die p.pa)
              { kind := 1, sect := miss, dirty := 0, hop := h, write := false, view := f.view, asid := f.asid, addr := f.vline
                payload := 0, source := BitVec.ofNat 64 (2 ^ 15 + bar % 48) })

/-- R321: a sector that no request of this model asked for arrives in a die's slice under the line address of an address space. -/
def execSliceFill (die sector view asid vline : Nat) (s : State) : Out :=
  .next (
    let va := BitVec.ofNat 64 (vline * 512 + sector % 4 * 128)
    let ctx : Ctx := { die := die, gid := none, asid := BitVec.ofNat 12 asid, user := false, view := view, barista := false }
    match translate s ctx .read va with
    | .error _ => s
    | .ok p =>
      let mask : BitVec 4 := BitVec.twoPow 4 (sector % 4)
      if p.pa / 128 ≠ sector ∨ !cacheable s p ∨ absentMask s die view (p.pa / 512) mask = 0 then s
      else
        let s := installSlots s die 0 ctx.asid va p (p.pa / 512) mask view
        if p.hen then raiseEvent s ctx p va 1 mask 0 0 false false else s)

/-- R321: coherence invalidates a die's base copy of a sector: one of a round region is kept as STALE, any other is dropped.
DEDUCED (unsafe, log 34). -/
def execCoherenceInvalidate (die sector : Nat) (s : State) : Out :=
  .next (
    let d := s.die die
    let key := slotKey sector 0
    match lookupNat key d.slots with
    | none => s
    | some sl =>
      s.setDie die { d with slots := match sl.invalidated s (s.baseSector sector) none with
        | some q => insertNat key q d.slots
        | none => eraseNat key d.slots })

/-! ### Budgets and counters -/

/-- R381: barista time starts anew with a window of 2^20 clocks. -/
def execBtimeWindowStart (s : State) : Out :=
  .next { s with blocks := s.blocks.map (fun b => (b.1, { b.2 with btimeUsed := 0 })) }

/-- The management interface clears a slice's counters (R342, R405). -/
def State.clearCounters (s : State) (bar : Nat) : State :=
  (s.setBarista bar { s.barista bar with counters := SliceCounters.reset })

/-- One clock of barista time on every block that is charged for a running invocation (R336, R381). -/
def chargeBaristas (s : State) : State :=
  s.baristas.foldl (fun s q => s.chargeInvocation q.1) s

end Sys2Proof.Machine
end

