-- ==== Sys2Proof/Machine/Home.lean ====
section
/-! DEFINITION. The home stacks: homes (R362), the LLC's victims (R363 to R365), granules with their check codes (R366, R367), packed
frames (R368, R369), the Grinder (R370, R371) and the Touchstone (R375). -/

namespace Sys2Proof.Machine

/-! ### Granules as stored (R366 to R369) -/

/-- One bit of the CRC-16 of R366: polynomial x^16 + x^12 + x^5 + 1, bits of each byte from the least significant up. -/
def crcBit (c : BitVec 16) (b : Bool) : BitVec 16 :=
  let c' := c <<< 1
  if (c.getLsbD 15 != b) then c' ^^^ 0x1021 else c'

/-- The CRC of a byte string. -/
def crc16 (l : List Byte) : BitVec 16 :=
  l.foldl (fun c b => (List.range 8).foldl (fun c i => crcBit c (b.getLsbD i)) c) 0xFFFF

/-- The bytes of a number, lowest first. -/
def bytesOf (n v : Nat) : List Byte := (List.range n).map (fun i => BitVec.ofNat 8 (v / 256 ^ i))

/-- The check code of a granule (R366). -/
def checkCode (granule : Nat) (field : BitVec 16) (data : BitVec 1024) : BitVec 16 :=
  crc16 (bytesOf 6 granule ++ bytesOf 2 field.toNat ++ bytesOf 128 data.toNat)

/-- The metadata of a granule: tag field and check code. -/
def granuleMeta (granule : Nat) (field : BitVec 16) (data : BitVec 1024) : BitVec 32 := checkCode granule field data ++ field

/-- The frame mark of granule `i` of a frame of `g` (R368). -/
def frameMark (g i : Nat) : BitVec 16 := mkTag 0 (BitVec.ofNat 8 (16 * g + i)) 0x3F

/-- The sectors of a line that granule `i` of its frame carries: granule 0 holds the header of all, any other those with a used byte in
it. -/
def sectorsIn (used : List Nat) (i : Nat) : List Nat :=
  if i = 0 then List.range 4
  else (List.range 4).filter (fun j =>
    let lo := 8 + (used.take j).foldl (· + ·) 0
    let hi := lo + used.getD j 0
    decide (lo < hi) && decide (lo < 128 * (i + 1)) && decide (128 * i < hi))

/-- The sectors that a failing granule makes POISON (R367, R368). -/
def struckSectors (s : State) (granule : Nat) : List Nat :=
  match lookupNat (granule / 4) s.frames with
  | none => [granule]
  | some used =>
    if frameGranules used ≤ granule % 4 then []
    else (sectorsIn used (granule % 4)).map (fun j => granule / 4 * 4 + j)

/-- A granule fails its check at a home read (R367): its sectors turn POISON with the bits as read, and the line is written raw.
DEDUCED (unsafe, log 35). -/
def granuleError (s : State) (granule : Nat) : State :=
  { s with
    mem := (struckSectors s granule).foldl (fun m x => m.setTag x (mkTag clsPoison (tagScale (m.tag x)) (tagFmt (m.tag x)))) s.mem
    frames := if (struckSectors s granule).isEmpty then s.frames else eraseNat (granule / 4) s.frames }

/-- R367: a home read of a granule. An error that ECC corrects has no effect. -/
def execHomeRead (granule : Nat) (uncorrectable : Bool) (s : State) : Out :=
  .next (if uncorrectable && decide (128 * granule < 0x8000000000) then
    s.errorAt .granule 0 (128 * granule) [] (fun s => granuleError s granule) else s)

/-! ### The Grinder (R370, R371) -/

/-- The attributes of the page of a line, as its last fill into the LLC found them (R348); a line that none has filled has no GRND.
DESIGN CHOICE (unsafe, log 37). -/
def pageOfLine (s : State) (line : Nat) : PageAttr := (lookupNat line s.pages).getD plainAttr

/-- R370: the sweep of a home stack reaches a sector, whose read can fail as any home read (R367); at a RATE of 0 it examines none. -/
def execGrinderSweep (stack sector : Nat) (uncorrectable : Bool) (s : State) : Out :=
  .next (
    let c := grctl s stack
    if bit c 0 && bit c 1 && field c 16 16 != 0 && decide (128 * sector < 0x8000000000) && (lineHome s (sector / 4)).1 == stack then
      if uncorrectable then s.errorAt .granule 0 (128 * sector) [] (fun s => granuleError s sector)
      else startGrinder s sector (pageOfLine s (sector / 4))
    else s)

/-- Two decoded values are the same. -/
def sameValue (a b : Val) : Bool := (a.isNan && b.isNan) || (Val.eq a b && a.sign == b.sign)

/-- Every element of a sector encoded in D under a scale, where each keeps its value (R371).
DEDUCED (unsafe, log 37). -/
def recodeUnder (grid : Grid) (x : Sector) (d : Fmt) (sc : Byte) : Option Sector :=
  let n := sectorCount 64 grid
  let y := (writeSectorElems 64 grid { bits := 0, tag := tagUndef } clsValid d sc true (fun _ => .nearest)
    (fun j => .val (sectorVal 64 grid x j) 0)).1
  if (List.range n).all (fun j => sameValue (sectorVal 64 grid y j) (sectorVal 64 grid x j)) then some y else none

/-- Grind (R371): the sector recoded, or as it was.
DEDUCED (unsafe, log 37). -/
def grind (page : PageAttr) (x : Sector) : Option Sector :=
  let grid := Grid.ofBits page.grid
  match qualifies page x.tag, Fmt.ofCode page.dfmt with
  | true, some d =>
    let c : List Byte := if Fmt.isFolding d || Fmt.isMicro d then [127]
      else [tagScale x.tag, fitScaleOf d ((List.range (sectorCount 64 grid)).map (fun j => sectorVal 64 grid x j))]
    c.findSome? (recodeUnder grid x d)
  | _, _ => none

/-- DONE of GRCTL counts, and saturates. -/
def countDone (w : Word) : Word :=
  let n := field w 32 32
  if n = 2 ^ 32 - 1 then w else setField w 32 32 (n + 1)

/-- The sector that a home stack's Grinder holds.
DEDUCED (unsafe, log 37). -/
def grinderHolds (s : State) (stack : Nat) : Option (Nat × PageAttr) := s.busy.find? (fun b => (lineHome s (b.1 / 4)).1 == stack)

/-- The sector that a Grinder holds was read with an uncorrectable error (R377). -/
def recodingError (s : State) (stack : Nat) : State := match grinderHolds s stack with
  | none => s
  | some (sec, page) =>
    let t := s.mem.tag sec
    let s : State := { s with busy := eraseNat sec s.busy, mem := s.mem.setTag sec (mkTag clsPoison (tagScale t) (tagFmt t)) }
    (s.storeLine (sec / 4) page).settleCounts

/-- R371, R377: the recalled sector is recoded where every element keeps its value; BUSY ends.
DEDUCED (unsafe, log 37). -/
def execGrinderRecallComplete (stack : Nat) (uncorrectable : Bool) (s : State) : Out :=
  .next (match grinderHolds s stack with
    | none => s
    | some (sec, page) =>
      if uncorrectable then s.errorAt .recoding 0 (128 * sec) [stack] (fun s => recodingError s stack)
      else
        let t : State := { s with busy := eraseNat sec s.busy }
        match grind page (s.mem.sector sec) with
        | none => t.settleCounts
        | some y =>
          let t : State := { t with
            mem := t.mem.setSector sec y
            mgmt := { t.mgmt with grctl := insertNat stack (countDone (grctl t stack)) t.mgmt.grctl } }
          (t.storeLine (sec / 4) page).settleCounts)

/-! ### The LLC (R363 to R365) -/

/-- R363 to R365: a line of an address space comes into the LLC that no request of this model asked for, on behalf of a block's task or, for
block 0, of the device; its sectors that are there already are hits.
DESIGN CHOICE (unsafe, log 71). -/
def execLlcFill (line vline : Nat) (user : LineUser) (s : State) : Out :=
  .next (
    let ctx : Ctx := { die := 0, gid := none, asid := BitVec.ofNat 12 user.asid, user := false, view := 0, barista := false }
    match translate s ctx .read (BitVec.ofNat 64 (512 * vline)) with
    | .error _ => s
    | .ok p =>
      let part := if user.block = 0 then 0 else partitionOf s user.block
      if p.pa / 512 ≠ line ∨ !cacheable s p then s
      else (List.range 4).foldl (fun s i => llcRequest s (line * 4096) i part p.attr p.names) s)

/-- A write of LLCPARTn (R364); WAYS = 0 leaves the register. -/
def State.writeLlcpart (s : State) (n : Nat) (value : Word) : State :=
  (if 15 < n ∨ field value 0 32 = 0 then s
    else { s with mgmt := { s.mgmt with llcpart := insertNat n (value &&& 0x1FFFFFFFFF) s.mgmt.llcpart } })

/-! ### The Touchstone (R375) -/

/-- A physical address lies in a journalled range (R404). -/
def journalled (s : State) (pa : Nat) : Bool :=
  s.mgmt.jrnrange.any (fun r =>
    let log := field r.2 1 6
    let base := field r.2 13 39 * 2 ^ 13
    bit r.2 0 && decide (13 ≤ log) && decide (log ≤ 51) && base % 2 ^ log == 0 && pa / 2 ^ log == base / 2 ^ log)

/-- The elements that a strand waits to perform in ticket order. -/
def ticketsLeft (x : Strand) : List Nat := match x.wait with
  | some (.touchstone _ l) => l
  | _ => []

/-- The record of a grant (R404): ticket, physical address, die, core, strand. -/
def grantRecord (s : State) (g pa : Nat) : JrnRecord :=
  { kind := 5, src := coreOf g, fields := recordFields [s.touchstone.toNat, pa, dieOf g, coreOf g, g % 32], blocks := [] }

/-- The next element of strand `g` gets a ticket; the instruction runs once all have. -/
def giveTicket (s : State) (g : Nat) : State :=
  let x := s.strandAt g
  match x.wait with
  | some (.touchstone since (_ :: l)) =>
    let n := match x.progress with
      | some (.tickets n) => n + 1
      | _ => 1
    { s.setStrandAt g { x with wait := some (if l.isEmpty then .finish else .touchstone since l), progress := some (.tickets n) } with
      touchstone := s.touchstone + 1 }
  | _ => s

/-- When the requests of a strand for tickets arrived. -/
def askedAt (x : Strand) : Option Nat := match x.wait with
  | some (.touchstone since _) => some since
  | _ => none

/-- Another strand comes before strand `g` (R375): it holds tickets of elements that have not performed, for which a later ticket waits, or
its requests came earlier, or in the same clock from a lower strand.
DEDUCED (unsafe, log 47). -/
def ticketsHeld (s : State) (g since : Nat) : Bool := s.occupied.any (fun p => p.1 != g && (match p.2.progress with
  | some (.tickets _) => true
  | _ => (askedAt p.2).any (fun t => decide (t < since) || (t == since && decide (p.1 < g)))))

/-- The next element to get a ticket, where it is the turn of strand `g` (R375). -/
def nextTicket (s : State) (g : Nat) : Option Nat := match (s.strandAt g).wait with
  | some (.touchstone since (pa :: _)) => if ticketsHeld s g since then none else some pa
  | _ => none

/-- R375: the Touchstone grants the next element of a strand its ticket. Replay forces the recorded winners of journalled ranges (R403).
DEDUCED (unsafe, log 47). -/
def execTouchstoneGrant (g : Nat) (s : State) : Out :=
  .next (match nextTicket s g with
    | none => s
    | some pa =>
      if journalled s pa then s.recorded (grantRecord s g pa) (fun s => giveTicket s g)
      else giveTicket s g)

end Sys2Proof.Machine
end

