-- ==== Sys2Proof/Machine/FaultQueue.lean ====
section
/-! DEFINITION. The consumer's side of the die fault queues (R358, R360): writes of FQHEAD, FQBASE and FQSTAT, and the held postings that
enter the ring. -/

namespace Sys2Proof.Machine

/-- The oldest held posting enters the ring, and the strand that waits for it takes its trap (R360). -/
def enterPosting (s : State) (die : Nat) (p : Posting) (rest : List Posting) : State :=
  let s := (s.setDie die { s.die die with heldPostings := rest }).writeRecord die p.record true
  match p.source with
  | none => s
  | some g => match (s.strandAt g).wait with
    | some (.held t) => s.as g (fun s => s.enterTrap t false)
    | _ => s

/-- Held postings enter in order of arrival while the ring takes records (R360). -/
def enterPostings (die : Nat) : Nat → State → State
  | 0, s => s
  | n + 1, s => match (s.die die).heldPostings with
    | [] => s
    | p :: l => if (s.die die).ringOpen then enterPostings die n (enterPosting s die p l) else s

def State.drainPostings (s : State) (die : Nat) : State := enterPostings die (s.die die).heldPostings.length s

/-- A write of FQHEAD that lies from HEAD to TAIL (R358); any other is ignored. -/
def State.writeFqhead (s : State) (die : Nat) (value : Word) : State :=
  (
    let d := s.die die
    let h : BitVec 13 := value.setWidth 13
    if (d.fqtail - d.fqhead).toNat < (h - d.fqhead).toNat then s
    else (s.setDie die { d with fqhead := h }).drainPostings die)

/-- A write of FQBASE (R358); reserved bits stay 0. -/
def State.writeFqbase (s : State) (die : Nat) (value : Word) : State :=
  ((s.setDie die { s.die die with fqbase := value &&& 0xFFFFFFFFC0001 }).drainPostings die)

/-- A write of FQSTAT with bit 0 set clears OVF and OVFCNT (R358). -/
def State.writeFqstat (s : State) (die : Nat) (value : Word) : State :=
  (if bit value 0 then s.setDie die { s.die die with ovf := false, ovfcnt := 0 } else s)

end Sys2Proof.Machine
end

