-- ==== Sys2Proof/Machine/Rcb.lean ====
section
/-! DEFINITION. Region control blocks: install and its refusals (R378 to R380, R406), removal, and the recovery of a fault domain
(R382). -/

namespace Sys2Proof.Machine

/-! ### Memory as a block's address space has it -/

/-- Translate an address with the root table that a block's chain gives (R346, R378). -/
def blockPage (s : State) (block : Nat) (acc : Access) (va : Word) : Option Page :=
  if !canonicalVa va then none
  else match walk s (deviceCtx 0 (effAsid s block)) acc va (effRoot s block) 4 with
    | .ok p => some p
    | .error _ => none

/-- The bits of `n` sectors at a physical address, UNDEF reading as zero; none where one is POISON or BUSY. -/
def physArea (s : State) (pa : Nat) : Nat → Option Nat
  | 0 => some 0
  | n + 1 =>
    let t := s.physTag (pa / 128)
    match physArea s (pa + 128) n with
    | none => none
    | some r =>
      if tagVcls t = clsPoison ∨ tagVcls t = clsBusy then none
      else some ((if tagVcls t = clsUndef then 0 else (s.baseSector (pa / 128)).bits.toNat) + 2 ^ 1024 * r)

/-! ### Install (R378, R380) -/

/-- The limits of a block's own fields (R379, R380).
DEDUCED (unsafe, log 61). -/
def fieldsOk (b : Block) : Bool :=
  b.bits 0 8 == 1 && b.bits 39 25 == 0 && b.bits 78 50 == 0 && b.bits 446 2 == 0 && b.bits 608 32 == 0 && b.bits 912 48 == 0
    && b.bits 1344 2752 == 0
    && b.bits 128 9 == 0 && b.bits 192 14 == 0 && b.bits 256 2 == 0
    && (b.bits 25 2 != 0 || b.bits 320 64 == 0)
    && decide (b.bits 384 14 ≤ 12288) && decide (b.bits 398 12 ≤ 3072) && decide (b.bits 410 4 ≤ 8) && decide (b.bits 414 20 ≤ 122880)
    && b.bits 512 23 == 0
    && (List.range 4).all (fun i => b.bits (640 + 64 * i) 2 == 0) && (b.bits 896 16 == 0 || decide (64 ≤ b.bits 896 16))
    && b.bits 1024 3 == 0 && (List.range 4).all (fun i => b.bits (1088 + 64 * i) 7 == 0)
    && (b.bits 128 64 != 0 || b.bits 64 14 == 0)

/-- A block uses an address-space identifier of its own. -/
def ownsAsid (b : Block) (x : Nat) : Bool := b.bits 77 1 == 0 && b.bits 27 12 == x

/-- The installed block that first took an identifier (R380). -/
def asidHolder (s : State) (x : Nat) : Option Nat :=
  match s.blocks.filter (fun b => ownsAsid b.2 x) with
  | [] => none
  | b :: l => some (l.foldl (fun a c => if c.2.tookAsid < a.2.tookAsid then c else a) b).1

/-- The physical addresses of a block's launch queues, in the tentative state that holds the block; none where one is malformed or is
named by another block (R380).
DEDUCED (unsafe, log 61). -/
def queuePlaces (s : State) (a : Nat) (b : Block) : Option (List (Option Nat)) :=
  (List.range 4).mapM (fun i =>
    let q : Word := BitVec.ofNat 64 (b.bits (1088 + 64 * i) 64)
    if q = 0 then some none
    else match blockPage s a .read q with
      | none => none
      | some p =>
        if p.grid ≠ .raw ∨ tagVcls (s.physTag (p.pa / 128)) = clsPoison ∨ !queueWellFormed (queueHeader s p.pa) then none
        else if s.blocks.any (fun c => c.1 != a && c.2.lqPa.contains (some p.pa)) then none
        else some (some p.pa))

/-- The physical address of a block's own blend image; none where it has none, an inner none where it does not translate.
DEDUCED (unsafe, log 61). -/
def blendPlace (s : State) (a : Nat) (b : Block) : Option (Option Nat) :=
  if b.bits 25 2 = 0 ∨ b.bits 67 1 = 1 then some none
  else (blockPage s a .read (BitVec.ofNat 64 (b.bits 320 64))).map (fun p => some p.pa)

/-- What install does: the status of R406, and the state after it.
DEDUCED (unsafe, log 61). -/
def install (s : State) (a : Nat) : Nat × State :=
  match physArea s a 4 with
  | none => (1, s)
  | some image =>
    let old := lookupNat a s.blocks
    let b : Block :=
      { order := s.blockSeq, tookAsid := s.blockSeq, image := BitVec.ofNat 4096 image, lqPa := [], blimgPa := none
        viewsUsed := (old.map (·.viewsUsed)).getD 0, spillUsed := (old.map (·.spillUsed)).getD 0
        btimeUsed := (old.map (·.btimeUsed)).getD 0, recovery := (old.map (·.recovery)).getD .idle }
    let b : Block := match old with
      | some o => if ownsAsid o (b.bits 27 12) then { b with tookAsid := o.tookAsid } else b
      | none => b
    let parent := b.bits 128 64
    if !fieldsOk b then (1, s)
    else if parent ≠ 0 ∧ (lookupNat parent s.blocks).isNone then (2, s)
    else if old.isSome ∧ under s a parent then (1, s)
    else if old.isNone ∧ 4096 ≤ s.blocks.length then (3, s)
    else
      let t : State := { s with blocks := insertNat a b s.blocks, blockSeq := s.blockSeq + 1 }
      let holder := asidHolder s (b.bits 27 12)
      let asidOk := b.bits 77 1 == 1 || match holder with
        | none => true
        | some h => h == a || under t h a
      match asidOk, queuePlaces t a b, blendPlace t a b with
      | true, some l, some i => (0, { t with blocks := insertNat a { b with lqPa := l, blimgPa := i } t.blocks })
      | _, _, _ => (1, s)

/-- A command ends: BUSY clears, STATUS reports (R406). -/
def State.report406 (s : State) (status : Nat) : State :=
  { s with mgmt := { s.mgmt with rcbcmd := 0, rcbres := BitVec.ofNat 64 (2 * status) } }

/-- R378: the host installs a block. -/
def execRcbInstall (block : Nat) (s : State) : Out :=
  .next (let r := install s block
    r.2.report406 r.1)

/-! ### Recovery (R382) -/

/-- A judge that gave up its strand is removed: its fork ends, and its copies run to their end without it. -/
def removeParked (s : State) (p : Parked) : State :=
  let x := p.strand
  let s := discardRivals s p.fork
  let s : State := { s with forks := eraseNat p.fork s.forks, parked := s.parked.filter (fun q => q.fork != p.fork) }
  let s := x.q.toList.foldl (fun s b => match b with
    | some q => s.unbindQueue p.core q.toNat
    | none => s) s
  let s := if x.vid ≠ 0 then s
    else orphanCopies s x.block (fun r => r.gid.isNone && r.orphan.isNone && r.asid == x.asid && r.view == 0 && r.save == areaOf x.task)
  let s := s.faultView x none
  (s.freeGranules p.core x.strip).freeSlot x.task x.asid

/-- Every task that `mine` names by its block is removed (R382 steps 1 to 4 and 7): running ones, rivals before their judges, so that
their views are faulted (R219), then judges that gave up their strand, and saved or parked ones. Only a task on a strand is running, so
only it posts a record. -/
def removeTasks (s : State) (mine : Nat → Bool) : State :=
  let run := s.occupied.filter (fun p => mine p.2.block)
  let s := ([4, 3, 2, 1, 0, 5, 6, 7].flatMap (fun d => run.filter (fun p => p.2.depth == d))).foldl (fun s p => removeTask s p.1) s
  let s := (s.parked.filter (fun p => mine p.strand.block)).foldl removeParked s
  (s.cores.flatMap (fun c => (c.2.images.filter (fun i => mine i.task.block)).map (fun i => (c.1, i)))).foldl
    (fun s p => removeImage s p.1 p.2) s

/-- A queued frame with an image: its header reads removed. -/
def removeQueued (s : State) (block : Nat) (frame : Word) : State :=
  match blockPage s block .read frame with
  | none => s
  | some p =>
    let f := queueHeader s p.pa
    if !frameImg f then s
    else match blockPage s block .write (frameSave f) with
      | none => s
      | some h => s.storePhys none h.pa 8 (setField (physWord s h.pa) 8 3 4).toNat

/-- The frames that stand in a queue, from its head on. -/
def queuedFrames (s : State) (pa : Nat) : List Word :=
  let size := queueSize (queueHeader s pa)
  let head := (physWord s (pa + 64)).toNat
  (List.range size).filterMap (fun i =>
    let e := physWord s (pa + 1024 + 8 * ((head + i) % size))
    if bit e 0 then some (e &&& ~~~(127 : Word)) else none)

/-- A launch queue is emptied (R382): HEAD := TAIL and every entry 0. -/
def emptyQueue (s : State) (pa : Nat) : State :=
  let s := (List.range (queueSize (queueHeader s pa))).foldl (fun s i =>
    if physWord s (pa + 1024 + 8 * i) = 0 then s else s.storePhys none (pa + 1024 + 8 * i) 8 0) s
  s.storePhys none (pa + 64) 8 (physWord s (pa + 512)).toNat

/-- The record of a distributor about a frame of a block (R303, R388, R389). -/
def frameRecord (s : State) (block : Nat) (frame : Word) (code : BitVec 8) : FaultRecord :=
  mkRecord { code := code, sub := 0, asid := effAsid s block, core := 0x1FF, strand := 0, vec := false, pc := 0, va := frame
             pa := 0xFFFFFFFFFFFFFFFF, vstart := 0, block := domainOf s block, view := 0, depth := 0 } s.cycle

/-- A queued frame goes: its image reads removed, and where its block is removed its die's distributor drops it with record 0x81 (R382,
R389). -/
def dropQueued (s : State) (die block : Nat) (removal : Bool) (frame : Word) : State :=
  let t := removeQueued s block frame
  if removal then t.distributorPost die (frameRecord s block frame 0x81) else t

/-- The first die whose cores a queue's mask covers. -/
def queueDie (s : State) (pa : Nat) : Nat :=
  ((List.range 4).find? (fun d => cut (queueHeader s pa) (128 + 96 * d) 96 != 0)).getD 0

/-- The queues of blocks are emptied, with the frames that wait behind them in hold lists. Where the blocks are removed, each of those
frames reaches the head as its queue is emptied and is dropped there.
DEDUCED (unsafe, log 62). -/
def emptyQueues (s : State) (mine : Nat → Bool) (removal : Bool) : State :=
  let s := (s.blocks.filter (fun b => mine b.1)).foldl (fun s b => b.2.queues.foldl (fun s q =>
    emptyQueue ((queuedFrames s q.2).foldl (fun s f => dropQueued s (queueDie s q.2) (queueBlock s b.1 q.2) removal f) s) q.2) s) s
  s.dies.foldl (fun s d =>
    let gone := d.2.holdList.filter (fun f => mine f.block)
    let s := gone.foldl (fun s f => dropQueued s d.1 (match queuePa s f.block f.queue with
      | some pa => queueBlock s f.block pa
      | none => f.block) removal f.frame) s
    s.setDie d.1 { s.die d.1 with holdList := (s.die d.1).holdList.filter (fun f => !mine f.block) }) s

/-- The identifiers that blocks took themselves (R382: the domain's ASIDs). -/
def asidsOf (s : State) (mine : Nat → Bool) : List Nat :=
  (s.blocks.filter (fun b => mine b.1 && b.2.bits 77 1 == 0)).map (fun b => b.2.bits 27 12)

/-- The prefetches of the ASIDs that `p` names are dropped, and PFDROP counts them (R342, R344). -/
def Barista.withoutPrefetches (x : Barista) (p : Nat → Bool) : Barista :=
  { x with
    prefetches := x.prefetches.filter (fun f => !p f.asid.toNat)
    counters := (x.prefetches.filter (fun f => p f.asid.toNat)).foldl (fun c _ => { c with pfdrop := satInc c.pfdrop }) x.counters }

/-- Root tables and handler entries go, with the prefetches of the identifiers (R326, R344, R346). -/
def dropAsids (s : State) (l : List Nat) : State :=
  let s := dropDirectory s (fun x => l.contains x)
  { s with baristas := s.baristas.map (fun q => (q.1, q.2.withoutPrefetches (fun x => l.contains x))) }

/-- Steps 1 to 7 of R382 for the blocks that `mine` names; `removal`: they are removed themselves. -/
def recoverBlocks (s : State) (mine : Nat → Bool) (removal : Bool) : State :=
  dropAsids (emptyQueues (removeTasks s mine) mine removal) (asidsOf s mine)

/-- R382: the recovery of a domain that was asked for.
DEDUCED (unsafe, log 62). -/
def execFaultDomainRecovery (block : Nat) (s : State) : Out :=
  .next (match lookupNat block s.blocks with
    | none => s
    | some b =>
      if b.recovery ≠ .requested then s
      else (recoverBlocks s (fun x => domainOf s x == block) false).modBlock block (fun b => { b with recovery := .draining }))

/-- The blocks of a subtree are no longer installed. -/
def dropBlocks (s : State) (block : Nat) : State := { s with blocks := s.blocks.filter (fun x => !under s block x.1) }

/-- R378, R382: nothing of the domain, or of the blocks that are removed, is in flight any more; a command that asked for it is done.
DEDUCED (unsafe, log 62). -/
def execRecoveryComplete (block : Nat) (s : State) : Out :=
  .next (match lookupNat block s.blocks with
    | none => s
    | some b => match b.recovery with
      | .draining =>
        if orphanLeft s (fun x => domainOf s x == block) then s
        else
          let s := s.modBlock block (fun b => { b with recovery := .idle })
          if field s.mgmt.rcbcmd 0 2 = 3 ∧ domainOf s (field s.mgmt.rcbcmd 9 55 * 512) = block then s.report406 0 else s
      | .removing =>
        if orphanLeft s (under s block) then s
        else
          let t := dropBlocks s block
          if field s.mgmt.rcbcmd 0 2 = 2 ∧ field s.mgmt.rcbcmd 9 55 * 512 = block then t.report406 0 else t
      | _ => s)

/-- R382, R406: the host asks for the recovery of a block's domain; the command ends with the recovery. -/
def execRcbRecover (block : Nat) (s : State) : Out :=
  .next (match lookupNat block s.blocks with
    | none => s.report406 4
    | some _ =>
      let r := domainOf s block
      let s : State := { s with mgmt := { s.mgmt with rcbcmd := BitVec.ofNat 64 (3 + block / 512 * 512), rcbres := 1 } }
      s.modBlock r (fun b => { b with recovery := .requested }))

/-- R378: a block and its subtree are removed with their tasks; the removal ends once nothing of theirs is in flight. A record 0x82 of a
removed task starts the recovery of its domain, where that has AUTO and its root stays (R379).
DEDUCED (unsafe, log 62). -/
def execRcbRemove (block : Nat) (s : State) : Out :=
  .next (match lookupNat block s.blocks with
    | none => s.report406 4
    | some b =>
      let mine (x : Nat) : Bool := under s block x
      let up := b.bits 128 64
      let struck := up != 0 && s.occupied.any (fun p => mine p.2.block && domainOf s p.2.block == domainOf s up)
      let t := recoverBlocks s mine true
      let t := if struck then t.autoRecover up else t
      if orphanLeft t mine then
        let busy : State := { t with mgmt := { t.mgmt with rcbcmd := BitVec.ofNat 64 (2 + block / 512 * 512), rcbres := 1 } }
        { busy with blocks := busy.blocks.map (fun x => (x.1, if mine x.1 then { x.2 with recovery := .removing } else x.2)) }
      else (dropBlocks t block).report406 0)

end Sys2Proof.Machine
end

