-- ==== Sys2Proof/Machine/Launch.lean ====
section
/-! DEFINITION. The die distributors (R304, R384 to R389): what they see of the launch queues, selection, where a frame fits, placement,
ageing, notices for aged frames, and moves. -/

namespace Sys2Proof.Machine

/-! ### Queues as a distributor sees them -/

/-- A launch queue: its owning block, the block that names it and its address there, its physical address. -/
structure LaunchQueue where
  block : Nat
  namer : Nat
  va : Word
  pa : Nat
deriving DecidableEq, Repr

/-- Insert a block by the order of its install. -/
def insertByOrder (p : Nat × Block) : List (Nat × Block) → List (Nat × Block)
  | [] => [p]
  | q :: l => if p.2.order < q.2.order then p :: q :: l else q :: insertByOrder p l

/-- The live queues in ring order (R386): by the install of their blocks, then LQ0 to LQ3. Those of a block that is being removed take no
more placements. -/
def launchQueues (s : State) : List LaunchQueue :=
  ((s.blocks.foldl (fun l b => insertByOrder b l) []).filter (fun b => b.2.recovery != .removing)).flatMap (fun b =>
    b.2.queues.map (fun q => { block := queueBlock s b.1 q.2, namer := b.1, va := q.1, pa := q.2 }))

/-- The queue that placed a task. -/
def placedBy (s : State) (t : TaskInfo) : Option LaunchQueue := (launchQueues s).find? (fun q => q.block == t.block && q.va == t.queue)

/-- A queue's mask names a core (R383). -/
def maskHas (header core : Nat) : Bool := header / 2 ^ (128 + core) % 2 == 1

/-- The queues whose mask covers a core of a die. -/
def dieQueues (s : State) (die : Nat) : List LaunchQueue :=
  (launchQueues s).filter (fun q =>
    let h := queueHeader s q.pa
    (List.range 96).any (fun i => maskHas h (die * 96 + i)))

def QueueTrack.reset : QueueTrack := { deficit := 0, tail := 0, head := 0, headSince := none, aged := false }

/-- What a distributor keeps of a queue. -/
def State.track (s : State) (die pa : Nat) : QueueTrack := (lookupNat pa (s.die die).tracks).getD QueueTrack.reset
def State.setTrack (s : State) (die pa : Nat) (t : QueueTrack) : State :=
  s.setDie die { s.die die with tracks := insertNat pa t (s.die die).tracks }

/-- The frames of a die's hold list that stand behind a queue's tail (R388). -/
def heldFrames (s : State) (die : Nat) (q : LaunchQueue) : List HeldFrame :=
  (s.die die).holdList.filter (fun f => f.queue == q.va && f.block == q.namer)

/-- What the distributor of a die sees of a queue now (R384): a new head starts its time anew, also where it is appended before a frame of
the hold list (R388), and an empty queue has no deficit (R386). -/
def seen (s : State) (die : Nat) (q : LaunchQueue) : QueueTrack :=
  let t := s.track die q.pa
  let tail := physWord s (q.pa + 512)
  let head := physWord s (q.pa + 64)
  if head = tail ∧ (heldFrames s die q).isEmpty then { deficit := 0, tail := tail, head := head, headSince := none, aged := false }
  else if t.headSince.isSome ∧ t.head = head ∧ (t.tail ≠ t.head ∨ tail = head) then { t with tail := tail }
  else { t with tail := tail, head := head, headSince := some s.cycle.toNat, aged := false }

def State.observe (s : State) (die : Nat) (q : LaunchQueue) : State := s.setTrack die q.pa (seen s die q)

/-- R384: the distributor sees a write to a queue's TAIL line or to the entry that it awaits. -/
def execQueueTailObserved (die queue : Nat) (s : State) : Out :=
  .next (match (dieQueues s die).find? (fun q => q.pa == queue) with
    | some q => s.observe die q
    | none => s)

/-- The head frame of a queue for a die (R385, R388): the FULL entry at HEAD before the TAIL that the die has seen, else the first frame of
its hold list. The answer says whether it stands in the hold list.
DEDUCED (unsafe, log 63). -/
def headFrame (s : State) (die : Nat) (q : LaunchQueue) : Option (Word × Bool) :=
  let head := physWord s (q.pa + 64)
  let t := s.track die q.pa
  if t.headSince.isNone then none
  else if head ≠ t.tail then
    let e := physWord s (q.pa + 1024 + 8 * (head.toNat % queueSize (queueHeader s q.pa)))
    if bit e 0 then some (e &&& ~~~(1 : Word), false) else none
  else (heldFrames s die q).head?.map (fun f => (f.frame, true))

/-! ### Frames -/

/-- A frame as a distributor reads it (R303, R304): none where it is malformed. -/
def readFrame (s : State) (block : Nat) (a : Word) : Option Frame :=
  if a.toNat % 128 ≠ 0 then none
  else match blockPage s block .read a with
    | none => none
    | some p =>
      let t := s.physTag (p.pa / 128)
      let f := queueHeader s p.pa
      if tagVcls t = clsUndef ∨ tagVcls t = clsPoison ∨ !frameOk f then none else some f

/-- What a placement needs: the frame, its MIN, its granules, the core that keeps its image with its strip allocation, the core that it is
bound to, and the header of its image. -/
structure Need where
  frame : Frame
  least : Nat
  granules : Nat
  kept : Option Nat
  bound : Option Nat
  header : Option Nat
deriving DecidableEq, Repr

/-- The granules that a placement takes on a core: none where the core keeps the strip allocation (R289). -/
def Need.fresh (n : Need) (core : Nat) : Nat := if n.kept = some core then 0 else n.granules

/-- The header of a frame's image, with its limits checked (R284). -/
def imageHeader (s : State) (block : Nat) (f : Frame) : Option Nat :=
  match blockPage s block .read (frameSave f) with
  | none => none
  | some p => match physArea s p.pa 64 with
    | some h => if headerOk h then some h else none
    | none => none

/-- A frame's image has a header with an uncorrectable error (R293). -/
def headerLost (s : State) (block : Nat) (f : Frame) : Bool :=
  frameImg f && match blockPage s block .read (frameSave f) with
    | some p => (List.range 64).any (fun i => tagVcls (s.physTag (p.pa / 128 + i)) == clsPoison)
    | none => false

/-- The needs of a well-formed frame; none where its image is malformed. -/
def needOf (s : State) (block : Nat) (f : Frame) : Option Need :=
  if !frameImg f then
    some { frame := f, least := frameMin f, granules := granulesFor (frameStrip f), kept := none, bound := none, header := none }
  else match imageHeader s block f with
    | none => none
    | some h =>
      some { frame := f, least := cut (cut h (128 + 64 * 8) 64) 8 4, granules := granulesFor (frameStrip f)
             kept := (imageCore s (effAsid s block) (frameSave f)).map (·.1)
             bound := if cut h 11 1 = 1 then none else some (cut h 12 9), header := some h }

/-! ### FindCore (R387) -/

/-- The number of live clusters of a core. -/
def liveCount (s : State) (core : Nat) : Nat := (liveClusters (s.core core)).length

/-- MinSum: the sum of MIN over the tasks of a core, rivals among them. -/
def minSum (s : State) (core : Nat) : Nat :=
  (s.occupied.filter (fun p => coreOf p.1 == core)).foldl (fun n p => n + p.2.least) 0

/-- A free save slot of a block's pool (R387).
DEDUCED (unsafe, log 28). -/
def freeSaveSlot (s : State) (block : Nat) : Option Word :=
  let pool := effective s block .savepool 512 64
  let n := Nat.min (effective s block .savepool 576 32) (s.saveSlots.length + 1)
  ((List.range n).map (fun i => BitVec.ofNat 64 (pool + i * 2 ^ 23))).find? (fun a =>
    !s.saveSlots.contains ((effAsid s block).toNat, a))

/-- The blend image of a block as a bank's holder is recorded: its address and its address space. -/
def imageKey (s : State) (block : Nat) : Nat := effective s block .blend 320 64 * 4096 + (effAsid s block).toNat
def blendBank (s : State) (block : Nat) : Nat := effective s block .blend 25 2

/-- A bank is held: a task that was placed with its image is on the core. -/
def bankHeld (s : State) (core bank : Nat) : Bool :=
  match lookupNat bank (s.core core).bankHolders with
  | none => false
  | some k => s.occupied.any (fun p => coreOf p.1 == core && p.2.task.any (fun t => t.bank == some (bank, k)))

/-- The bank of a block can be had on a core. -/
def bankFits (s : State) (block core : Nat) : Bool :=
  let b := blendBank s block
  b == 0 || !bankHeld s core b || lookupNat b (s.core core).bankHolders == some (imageKey s block)

/-- A core is reserved for the frame of another queue: the first reserved one whose mask names the core (R388). -/
def reservedFor (s : State) (die : Nat) (q : LaunchQueue) (core : Nat) : Bool :=
  ((s.die die).reserved.find? (fun r => maskHas (queueHeader s r.1) core)).any (fun r => r.1 != q.pa)

/-- The conditions of R387 on a core. -/
def coreFits (s : State) (die : Nat) (q : LaunchQueue) (n : Need) (core : Nat) : Bool :=
  maskHas (queueHeader s q.pa) core && !(s.core core).closed && (freeStrandOf s core).isSome
    && decide (n.fresh core ≤ (freeGranuleList s core).length)
    && decide (minSum s core + n.least ≤ liveCount s core)
    && decide (n.least ≤ capOn s q.block core none)
    && strandFits s q.block
    && withinAll s q.block (fun b => decide (granulesCharged s b + n.granules ≤ effective s b .stripg 414 20))
    && (frameSave n.frame != 0 || (freeSaveSlot s q.block).isSome)
    && bankFits s q.block core && !reservedFor s die q core && (n.header.isNone || !saveStalled s core)
    && (match n.bound with
      | some c => c == core
      | none => true)

/-- The cores of a die in the order of Key (R387). -/
def coreOrder (die : Nat) : List Nat := (List.range 96).map (fun k => die * 96 + 8 * (k % 12) + k / 12)

/-- The order in which FindCore tries them: after the core of the last placement. -/
def tryOrder (s : State) (die : Nat) : List Nat :=
  match (s.die die).nextCore with
  | none => coreOrder die
  | some c =>
    let k := ((coreOrder die).takeWhile (· != c)).length
    (coreOrder die).drop (k + 1) ++ (coreOrder die).take (k + 1)

/-- The first core of a die, in the order of R387, that takes a frame of a queue.
DEDUCED (unsafe, log 63). -/
def findCore (s : State) (die : Nat) (q : LaunchQueue) (n : Need) : Option Nat := (tryOrder s die).find? (coreFits s die q n)

/-! ### Take and Place (R304, R385, R387) -/

/-- The head frame leaves its queue: the entry becomes 0 and HEAD advances (R385), or it leaves the hold list. -/
def takeHead (s : State) (die : Nat) (q : LaunchQueue) (held : Bool) : State :=
  let s :=
    if held then
      let gone := (heldFrames s die q).head?
      s.setDie die { s.die die with holdList := (s.die die).holdList.filter (fun f => some f != gone) }
    else
      let head := physWord s (q.pa + 64)
      let slot := q.pa + 1024 + 8 * (head.toNat % queueSize (queueHeader s q.pa))
      (s.storePhys (some die) slot 8 0).storePhys (some die) (q.pa + 64) 8 (head + 1).toNat
  let s := s.setDie die { s.die die with reserved := (s.die die).reserved.filter (fun r => r.1 != q.pa) }
  let t := { s.track die q.pa with headSince := none, aged := false }
  (s.setTrack die q.pa t).observe die q

/-- The block that owns a block's address space (R326, R346): the nearest one up the chain that takes its own. -/
def asidOwner (s : State) (block : Nat) : Nat :=
  ((chain s block).find? (fun a => match lookupNat a s.blocks with
    | some b => b.bits 77 1 == 0
    | none => false)).getD block

/-- The handler directory entry of an address space (R326). -/
def directoryEntryOf (s : State) (owner : Nat) : DirEntry :=
  let w (lo : Nat) : Word := BitVec.ofNat 64 (effective s owner .handlers lo 64)
  { miss := w 640, fill := w 704, evict := w 768, msg := w 832, limit := effective s owner .handlers 896 16
    harg := w 960, acnt := w 1024, block := owner }

/-- The first task of an address space on a die loads its root table and its handler entry (R326, R346). -/
def loadSpace (s : State) (die block : Nat) : State :=
  let a := (effAsid s block).toNat
  let d := s.die die
  s.setDie die { d with
    roots := if (lookupNat a d.roots).isSome then d.roots else insertNat a (effRoot s block) d.roots
    directory := if (lookupNat a d.directory).isSome then d.directory else insertNat a (directoryEntryOf s (asidOwner s block)) d.directory }

/-- The physical address of a block's effective blend image (R378). -/
def blendImagePa (s : State) (block : Nat) : Option Nat := match itemOwner s .blend (s.blocks.length + 1) block with
  | some b => b.blimgPa
  | none => none

/-- A bank that no task holds takes a block's image (R387). An entry that `blendw` would refuse is not loaded (log 72).
DESIGN CHOICE (unsafe, log 72). -/
def loadBank (s : State) (block core : Nat) : State :=
  let b := blendBank s block
  if b = 0 ∨ bankHeld s core b then s
  else match blendImagePa s block with
    | none => s
    | some pa =>
      let c := s.core core
      let l := (List.range 4096).filterMap (fun i =>
        let e := if tagVcls (s.physTag ((pa + i) / 128)) = clsUndef then 0 else s.physByte (pa + i)
        let row : BitVec 6 := BitVec.ofNat 6 (i / 64)
        let col : BitVec 6 := BitVec.ofNat 6 i
        if malformedEntry row col e || e == defaultEntry row col then none else some (b * 4096 + i, e))
      let kept := c.blend.filter (fun e => e.1 / 4096 != b)
      s.setCore core { c with
        blend := l.foldl (fun m e => insertNat e.1 e.2 m) kept, bankHolders := insertNat b (imageKey s block) c.bankHolders }

/-- The registers of a task at entry (R20, R304). -/
def enteringStrand (s : State) (q : LaunchQueue) (frame : Word) (f : Frame) (info : TaskInfo) (strip : List Nat) : Strand :=
  let least := frameMin f
  let x : Strand := { Strand.reset with
    phase := .running, asid := effAsid s q.block, task := some info, strip := strip
    pc := if frameRes f then BitVec.ofNat 64 (cut f 128 64) else frameEntry f
    sys := { SysRegs.reset with
      tvec := BitVec.ofNat 64 (effective s q.block .tvec 256 64)
      vcfg := BitVec.ofNat 64 (cut f 24 5)
      lease := BitVec.ofNat 64 (least * 256 + framePref f * 4096 + (if 1 ≤ least then 65536 else 0))
      inldepth := BitVec.ofNat 64 (if cut f 34 4 = 0 then 8 else cut f 34 4) }
    wait := if strip.isEmpty then none else some (.tagging (s.cycle.toNat + strip.length)) }
  (x.setMath (cut f 29 3) (cut f 32 2) (BitVec.ofNat 64 (cut f 192 64)) 0).setArgs
    (frame :: (List.range 6).map (fun i => BitVec.ofNat 64 (cut f (512 + 64 * i) 64)))

/-- The first word of a frame changes: RES or IMG is cleared (R302). -/
def clearFrameBit (s : State) (die block : Nat) (frame : Word) (k : Nat) : State :=
  match blockPage s block .write frame with
  | none => s
  | some p => s.storePhys (some die) p.pa 8 (setBit (physWord s p.pa) k false).toNat

/-- Place (R387) and EnterTask (R304) of a frame on a core. -/
def place (s : State) (die : Nat) (q : LaunchQueue) (frame : Word) (n : Need) (core : Nat) : State :=
  match freeStrandOf s core with
  | none => s
  | some g =>
    let f := n.frame
    let asid := effAsid s q.block
    let s := loadBank (loadSpace s die q.block) q.block core
    let s := s.setDie die { s.die die with nextCore := some core, placeFrom := s.cycle.toNat + 16 }
    let save := frameSave f
    let slot : Option Word := if save = 0 then freeSaveSlot s q.block
      else if s.saveSlots.contains (asid.toNat, save) then some save else none
    let s : State := if save ≠ 0 then s else match slot with
      | some a => { s with saveSlots := s.saveSlots ++ [(asid.toNat, a)] }
      | none => s
    let bank := blendBank s q.block
    let info : TaskInfo :=
      { frame := frame, queue := q.va, block := q.block, save := save, slot := slot, rival := none, placedAt := s.cycle.toNat
        bank := if bank = 0 then none else some (bank, imageKey s q.block) }
    match n.header with
    | some h =>
      restoreOn (clearFrameBit s die q.block frame 9) g asid info h n.granules
    | none =>
      let r := s.takeGranules core n.granules
      let s := if frameRes f then clearFrameBit r.1 die q.block frame 8 else r.1
      s.setStrandAt g (enteringStrand s q frame f info r.2)

/-- R240: the tagging of a new allocation is done, and the placement ends. -/
def execStripTaggingComplete (g : Nat) (s : State) : Out :=
  .next (s.onWait g (fun x => match x.wait with
    | some (.tagging t) => decide (t ≤ s.cycle.toNat)
    | _ => false) Strand.rerun)

/-! ### Frames that are dropped -/


/-- Every core of the mask has fewer live clusters than a frame's MIN (R388). -/
def nowhereLive (s : State) (q : LaunchQueue) (least : Nat) : Bool :=
  let h := queueHeader s q.pa
  (List.range 384).all (fun c => !maskHas h c || decide (liveCount s c < least))

/-- The record with which a head frame is dropped: malformed (0x81), its header lost (0x82, R293), with a malformed image (0x84), or too
large (0x81).
DEDUCED (unsafe, log 63). -/
def dropCode (s : State) (q : LaunchQueue) (frame : Word) : Option (BitVec 8) :=
  match readFrame s q.block frame with
  | none => some 0x81
  | some f => match needOf s q.block f with
    | none => some (if headerLost s q.block f then 0x82 else 0x84)
    | some n => if nowhereLive s q n.least then some 0x81 else none

/-- A frame of a hold list whose queue is no longer named (R389).
DEDUCED (unsafe, log 63). -/
def orphanFrame (s : State) (die : Nat) : Option HeldFrame :=
  (s.die die).holdList.find? (fun f => (queuePa s f.block f.queue).isNone)


/-- A frame is dropped (R303, R388, R389). -/
def dropHead (s : State) (die : Nat) (q : LaunchQueue) (frame : Word) (held : Bool) (code : BitVec 8) : State :=
  let t := (takeHead s die q held).distributorPost die (frameRecord s q.block frame code)
  let t := match code == 0x82, readFrame s q.block frame with
    | true, some f => match imageCore t (effAsid s q.block) (frameSave f) with
      | some (c, i) => removeImage t c i
      | none => t
    | _, _ => t
  if code = 0x84 ∨ code = 0x82 then t.autoRecover q.block else t

/-! ### Selection (R386) -/

/-- A head frame that could be placed or waits to fit: its queue, its address, whether it is held, and its needs. -/
structure Candidate where
  queue : LaunchQueue
  frame : Word
  held : Bool
  need : Need
deriving DecidableEq, Repr

def candidates (s : State) (die : Nat) : List Candidate :=
  (dieQueues s die).filterMap (fun q => match headFrame s die q with
    | none => none
    | some (a, held) => match readFrame s q.block a with
      | none => none
      | some f => (needOf s q.block f).map (fun n => { queue := q, frame := a, held := held, need := n }))

/-- The head frames to be dropped. -/
def droppable (s : State) (die : Nat) : Option (LaunchQueue × Word × Bool × BitVec 8) :=
  (dieQueues s die).findSome? (fun q => match headFrame s die q with
    | none => none
    | some (a, held) => (dropCode s q a).map (fun c => (q, a, held, c)))

/-- The aged frame that has stood longest at its head (R386); ties in ring order. -/
def longestAged (s : State) (die : Nat) (l : List Candidate) : Option Candidate :=
  let since (c : Candidate) : Nat := ((s.track die c.queue.pa).headSince).getD 0
  match l.filter (fun c => (s.track die c.queue.pa).aged) with
  | [] => none
  | c :: r => some (r.foldl (fun b x => if since x < since b then x else b) c)

/-- r[q] of R386: the rounds until a queue's deficit allows a placement. -/
def roundsOf (s : State) (die : Nat) (c : Candidate) : Nat :=
  let left := (Max.max 0 (256 - (s.track die c.queue.pa).deficit)).toNat
  let w := effShare s c.queue.block
  (left + w - 1) / w

/-- The queues of a priority in ring order after the one that was served last. -/
def afterLast (s : State) (die p : Nat) (l : List Candidate) : List Candidate :=
  match lookupNat p (s.die die).lastByPriority with
  | none => l
  | some pa =>
    let ring := (launchQueues s).map (·.pa)
    let after := (ring.dropWhile (· != pa)).tail
    l.filter (fun c => after.contains c.queue.pa) ++ l.filter (fun c => !after.contains c.queue.pa)

/-- The first candidate with the least rounds. -/
def leastRounds (s : State) (die : Nat) : List Candidate → Option Candidate
  | [] => none
  | c :: l => match leastRounds s die l with
    | none => some c
    | some d => if roundsOf s die d < roundsOf s die c then some d else some c

/-- The deficits after a choice (R386). -/
def payDeficits (s : State) (die : Nat) (l : List Candidate) (chosen : Candidate) : State :=
  let r := roundsOf s die chosen
  let s' := l.foldl (fun t c =>
    let k := t.track die c.queue.pa
    t.setTrack die c.queue.pa { k with deficit := Min.min (k.deficit + r * effShare s c.queue.block) 512 }) s
  let k := s'.track die chosen.queue.pa
  s'.setTrack die chosen.queue.pa { k with deficit := k.deficit - 256 }

/-- The candidates of a priority that fit somewhere. -/
def fitting (s : State) (die p : Nat) : List Candidate :=
  (candidates s die).filter (fun c => effPrio s c.queue.block == p && (findCore s die c.queue c.need).isSome)

/-- The highest priority with a frame that fits. -/
def topPriority (s : State) (die : Nat) : Option Nat := [7, 6, 5, 4, 3, 2, 1, 0].find? (fun p => !(fitting s die p).isEmpty)

/-- The placement is an acquire of what was appended to its queue (R311): the task knows what the producers knew. -/
def acquireQueue (s : State) (q : LaunchQueue) (g : Option Nat) : State := match g with
  | some g =>
    let k := slotKey ((q.pa + 512) / 128) 0
    (s.informs (.sector k) (.agent g false)).informs (.sector k) (.agent g true)
  | none => s

/-- Take a candidate and place it. -/
def takeAndPlace (s : State) (die : Nat) (c : Candidate) (core : Nat) : State :=
  acquireQueue (place (takeHead s die c.queue c.held) die c.queue c.frame c.need core) c.queue (freeStrandOf s core)

/-- Selection by priority and share (R386). -/
def selectByShare (s : State) (die : Nat) : State :=
  match topPriority s die with
  | none => s
  | some p =>
    let l := fitting s die p
    match leastRounds s die (afterLast s die p l) with
    | none => s
    | some c => match findCore s die c.queue c.need with
      | none => s
      | some core =>
        let t := payDeficits s die l c
        let t := t.setDie die { t.die die with lastByPriority := insertNat p c.queue.pa (t.die die).lastByPriority }
        takeAndPlace t die c core

/-- A frame is reserved (R388). -/
def reserveFrame (s : State) (die : Nat) (c : Candidate) : State :=
  let d := s.die die
  if d.reserved.any (fun r => r.1 == c.queue.pa) then s
  else s.setDie die { d with reserved := d.reserved ++ [(c.queue.pa, some s.cycle.toNat)] }

/-! ### Moves (R388) -/

/-- A task whose MIN exceeds the live clusters of its core, and whether no core of its queue's mask has them. -/
def misplaced (s : State) (die : Nat) : Option (Nat × Bool) :=
  s.occupied.findSome? (fun p => match p.2.task with
    | none => none
    | some t =>
      if dieOf p.1 = die ∧ p.2.phase = .running ∧ p.2.vid = 0 ∧ liveCount s (coreOf p.1) < p.2.least then
        let nowhere : Bool := match placedBy s t with
          | some q => nowhereLive s q p.2.least
          | none => true
        if nowhere || p.2.notice.isNone then some (p.1, nowhere) else none
      else none)

/-- A misplaced task is noticed, or removed with record 0x81 where no core of its mask could take it (R388). -/
def moveTask (s : State) (g : Nat) (nowhere : Bool) : State :=
  if nowhere then removeWith s g 0x81 else postNotice s g .distributor

/-! ### The distributor's turn -/

/-- A distributor whose record is held stalls (R360). -/
def distributorStalled (s : State) (die : Nat) : Bool := (s.die die).heldPostings.any (fun p => p.source == some (13000 + die))

/-- The reservations whose frame still stands at its queue's head.
DEDUCED (unsafe, log 63). -/
def liveReserves (s : State) (die : Nat) : List (Nat × Option Nat) :=
  let l := candidates s die
  (s.die die).reserved.filter (fun r => l.any (fun c => c.queue.pa == r.1))

/-- The frame that a reservation was made for is gone. -/
def staleReserve (s : State) (die : Nat) : Bool := (liveReserves s die).length != (s.die die).reserved.length

/-- What SelectAndPlace does on a die: moves and dropped frames first, then the aged frame, then selection by share.
DEDUCED (unsafe, log 63). -/
def selectAndPlace (s : State) (die : Nat) : State :=
  match misplaced s die with
  | some (g, nowhere) => moveTask s g nowhere
  | none => match orphanFrame s die with
    | some f =>
      (s.setDie die { s.die die with holdList := (s.die die).holdList.filter (· != f) }).distributorPost die
        (frameRecord s f.block f.frame 0x81)
    | none => match droppable s die with
      | some (q, a, held, code) => dropHead s die q a held code
      | none =>
        if staleReserve s die then s.setDie die { s.die die with reserved := liveReserves s die }
        else if s.cycle.toNat < (s.die die).placeFrom then s
        else match longestAged s die (candidates s die) with
          | some c => match findCore s die c.queue c.need with
            | some core => takeAndPlace s die c core
            | none => reserveFrame s die c
          | none => selectByShare s die

/-- The distributor has something to do that SelectAndPlace does. -/
def selectDue (s : State) (die : Nat) : Bool :=
  !distributorStalled s die && ((misplaced s die).isSome || (orphanFrame s die).isSome || (droppable s die).isSome || staleReserve s die
    || (decide ((s.die die).placeFrom ≤ s.cycle.toNat) && match longestAged s die (candidates s die) with
      | some c => (findCore s die c.queue c.need).isSome || (s.die die).reserved.all (fun r => r.1 != c.queue.pa)
      | none => (topPriority s die).isSome))

/-- R386: a die's distributor makes at most one placement per 16 clocks.
DESIGN CHOICE (safe, log 11). -/
def execSelectAndPlace (die : Nat) (s : State) : Out :=
  .next (if distributorStalled s die then s else selectAndPlace s die)

/-! ### Ageing and notices for an aged frame (R388) -/

/-- A frame is within its budget: STR and STRIPG allow it, and MIN is within Cap on some core of the die. -/
def withinBudget (s : State) (die : Nat) (c : Candidate) : Bool :=
  strandFits s c.queue.block
    && withinAll s c.queue.block (fun b => decide (granulesCharged s b + c.need.granules ≤ effective s b .stripg 414 20))
    && (coreOrder die).any (fun k => maskHas (queueHeader s c.queue.pa) k && decide (c.need.least ≤ capOn s c.queue.block k none))

/-- A head frame that becomes aged now. -/
def agesNow (s : State) (die : Nat) (c : Candidate) : Bool :=
  let t := s.track die c.queue.pa
  !t.aged && withinBudget s die c && match t.headSince with
    | some n => decide (n + 2 ^ 20 ≤ s.cycle.toNat)
    | none => false

/-- R388: a frame within its budget that has stood at its queue's head for 2^20 clocks is aged. -/
def execFrameAged (die queue : Nat) (s : State) : Out :=
  .next (match (candidates s die).find? (fun c => c.queue.pa == queue && agesNow s die c) with
    | some _ => s.setTrack die queue { s.track die queue with aged := true }
    | none => s)

/-- The first candidate that is reserved on a die past its further 65,536 clocks and that still does not fit. -/
def overdueFrame (s : State) (die : Nat) : Option Candidate :=
  let late := (s.die die).reserved.filter (fun r => r.2.any (fun t => decide (t + 65536 ≤ s.cycle.toNat)))
  if late.isEmpty then none
  else (candidates s die).find? (fun c => late.any (fun r => r.1 == c.queue.pa) && (findCore s die c.queue c.need).isNone)

/-- The tasks of a core of lower priority than `p`, rivals among them, the most recently placed first. -/
def victims (s : State) (core p : Nat) : List Nat :=
  let l := s.occupied.filter (fun x => coreOf x.1 == core && x.2.task.isSome && decide (effPrio s x.2.block < p))
  (l.foldl (fun acc x => put x acc) []).map (·.1)
where
  /-- Insert by the clock of placement, the latest first. -/
  put (x : Nat × Strand) : List (Nat × Strand) → List (Nat × Strand)
    | [] => [x]
    | y :: r =>
      let at_ (z : Nat × Strand) : Nat := (z.2.task.map (·.placedAt)).getD 0
      if at_ y < at_ x then x :: y :: r else y :: put x r

/-- The tasks whose removal, one after another, makes a frame fit on a core; none where it would not fit. -/
def removalsFor (s : State) (die : Nat) (c : Candidate) (core : Nat) : List Nat → Option (List Nat)
  | [] => none
  | g :: l =>
    let t := s.vacate g false
    if coreFits t die c.queue c.need core then some [g] else (removalsFor t die c core l).map (g :: ·)

/-- R388: notices go to the tasks of lower priority on the first core, in Key order, where their removal would make the reserved frame
fit. -/
def execReservePreemptTimeout (die : Nat) (s : State) : Out :=
  .next (match overdueFrame s die with
    | none => s
    | some c =>
      let s := s.setDie die { s.die die with
        reserved := (s.die die).reserved.map (fun r => if r.1 = c.queue.pa then (r.1, none) else r) }
      match (coreOrder die).findSome? (fun k => removalsFor s die c k (victims s k (effPrio s c.queue.block))) with
      | none => s
      | some l => l.foldl (fun s g => postNotice s g .distributor) s)

end Sys2Proof.Machine
end

