-- ==== Sys2Proof/Machine/Fabric.lean ====
section
/-! DEFINITION. What comes in through the ports: host accesses to device memory (R394), Cemen transfers (R395), link training (R396),
acknowledgements (R397, R398) and binding (R391). -/

namespace Sys2Proof

/-! ### The header of a Cemen transfer (R395) -/

def CemenMsg.type (m : CemenMsg) : Nat := (m.header.extractLsb' 0 8).toNat
def CemenMsg.ver (m : CemenMsg) : Nat := (m.header.extractLsb' 8 4).toNat
def CemenMsg.smask (m : CemenMsg) : BitVec 4 := m.header.extractLsb' 12 4
def CemenMsg.src (m : CemenMsg) : Nat := (m.header.extractLsb' 16 12).toNat
def CemenMsg.target (m : CemenMsg) : BitVec 12 := m.header.extractLsb' 28 12
def CemenMsg.addr (m : CemenMsg) : Nat := (m.header.extractLsb' 40 52).toNat
def CemenMsg.tagAt (m : CemenMsg) (i : Nat) : Tag := m.header.extractLsb' (92 + 16 * i) 16
def CemenMsg.opx (m : CemenMsg) (lo n : Nat) : Nat := m.header.toNat / 2 ^ lo % 2 ^ n

/-- The sectors of a line that a transfer names, in line order. -/
def CemenMsg.sectors (m : CemenMsg) : List Nat := (List.range 4).filter (fun i => m.smask.getLsbD i)

/-- The sector numbers that a transfer reaches. -/
def CemenMsg.places (m : CemenMsg) : List Nat := m.sectors.map (fun i => m.addr / 512 * 4 + i)

/-- A transfer reaches device HBM4 alone. -/
def CemenMsg.inHbm (m : CemenMsg) : Bool := decide (m.addr < 0x8000000000)

end Sys2Proof

namespace Sys2Proof.Machine

/-! ### Host accesses (R394) -/

/-- The module takes host accesses once its memory is trained (R409).
DEDUCED (unsafe, log 56). -/
def memoryUp (s : State) : Bool := decide (4 ≤ s.mgmt.mgmtst.toNat)

/-- The host default tag of a physical address (R394).
DEDUCED (unsafe, log 57). -/
def hostDefaultTag (s : State) (pa : Nat) : Tag :=
  let t : Tag := BitVec.ofNat 16 (s.physBytes (s.mgmt.hpatbase.toNat + 2 * (pa / 2 ^ 23)) 2)
  let t := mkTag clsValid (tagScale t) (tagFmt t)
  if malformedReg t ∨ tagFormat t = .raw then tagRaw else t

/-- The enabled bytes of a 64-byte write put into a sector's storage. -/
def mergeBytes (old : BitVec 1024) (off : Nat) (data : BitVec 512) (enables : BitVec 64) : BitVec 1024 :=
  (List.range 64).foldl (fun b i =>
    if enables.getLsbD i then setSectorField b (8 * (off + i)) 8 (data.toNat / 256 ^ i % 256) else b) old

/-- The sector after a host write.
DEDUCED (unsafe, log 15). -/
def hostWritten (x : Sector) (d : Tag) (off : Nat) (data : BitVec 512) (enables : BitVec 64) : Sector :=
  let undef := tagVcls x.tag == clsUndef
  { bits := mergeBytes (if undef then 0 else x.bits) off data enables
    tag := mkTag (if undef then clsValid else tagVcls x.tag) (tagScale d) (tagFmt d) }

/-- A sector is being recoded: a request that reaches the home for it waits (R371). -/
def sectorBusy (s : State) (sec : Nat) : Bool := (lookupNat sec s.busy).isSome

/-- An access that comes in through the ports reaches the LLC slice of its sectors, in partition 0 (R364). -/
def State.reachHome (s : State) (secs : List Nat) : State :=
  secs.foldl (fun s x => llcRequest s (wayOf (slotKey x 0)) (x % 4) 0 (pageOfLine s (x / 4)) none) s

/-- A host write performs; none while its sector is BUSY. An access outside device HBM4 has no effect.
DEDUCED (unsafe, log 57). -/
def hostWriteEffect (s : State) (pa : Nat) (data : BitVec 512) (enables : BitVec 64) : Option State :=
  let pa := pa / 64 * 64
  if !memoryUp s || decide (0x8000000000 ≤ pa) || enables == 0 then some s
  else if sectorBusy s (pa / 128) then none
  else some ((s.reachHome [pa / 128]).writeBase none (pa / 128)
    (hostWritten (s.baseSector (pa / 128)) (hostDefaultTag s pa) (pa % 128) data enables))

/-- A host read performs; none while its sector is BUSY. The host gets the data, zeros for an UNDEF sector, and the poison
indication. -/
def hostReadEffect (s : State) (pa : Nat) : Option State :=
  let pa := pa / 64 * 64
  if !memoryUp s || decide (0x8000000000 ≤ pa) then some s
  else if sectorBusy s (pa / 128) then none
  else
    let x := s.baseSector (pa / 128)
    let v : BitVec 512 := if tagVcls x.tag = clsUndef then 0 else BitVec.ofNat 512 (x.bytes (pa % 128) 64)
    some { s.reachHome [pa / 128] with hostReads := s.hostReads ++ [(pa, (v, tagVcls x.tag == clsPoison))] }

/-- A transfer for this device on a port that carries Cemen (R396). -/
def accepted (s : State) (m : CemenMsg) (type : Nat) : Bool :=
  m.type == type && m.ver == 1 && m.target == Config.deviceId && memoryUp s && match lookupNat m.port s.mgmt.ports with
    | some p => p.1 && p.2 != 0
    | none => false

/-! ### Tagged writes (R152, R395) -/

/-- The smallest grid that two formats fit: the target knows no page (log 41).
DESIGN CHOICE (unsafe, log 41). -/
def commonGrid (a b : Fmt) : Grid :=
  if Fmt.fits a .g8 && Fmt.fits b .g8 then .g8 else if Fmt.fits a .g16 && Fmt.fits b .g16 then .g16 else .g32

/-- Storage bytes of a partial write (R395: PMODE 0). -/
def bytesOver (old : Sector) (new : BitVec 1024) (mask : BitVec 128) : BitVec 1024 :=
  (List.range 128).foldl (fun b i => if mask.getLsbD i then setSectorField b (8 * i) 8 (sectorField new (8 * i) 8) else b)
    (if tagVcls old.tag = clsUndef then 0 else old.bits)

/-- The elements that a byte mask covers whole. -/
def elementsOf (mask : BitVec 128) (w n : Nat) : BitVec 128 :=
  (List.range n).foldl (fun (m : BitVec 128) j =>
    if (List.range 128).all (fun b => decide ((b + 1) * 8 ≤ j * w) || decide ((j + 1) * w ≤ b * 8) || mask.getLsbD b)
    then m ||| BitVec.twoPow 128 j else m) 0

/-- The sector after a partial write (R47, R152, R395).
DESIGN CHOICE (unsafe, log 41). -/
def partialWrite (old new : Sector) (mask : BitVec 128) (byElement : Bool) : Sector :=
  let f := tagFormat new.tag
  let of := tagFormat old.tag
  let vcls : BitVec 2 := if tagVcls old.tag = clsPoison then clsPoison else if tagVcls new.tag = clsUndef then clsUndef else clsValid
  let sameTag := tagFmt old.tag == tagFmt new.tag && tagScale old.tag == tagScale new.tag
  if !byElement && (f == .raw || of == .raw || (sameTag && !Fmt.isMicro f)) then
    { bits := bytesOver old new.bits mask, tag := mkTag vcls (tagScale new.tag) (tagFmt new.tag) }
  else
    let g := commonGrid f of
    let m := if byElement then mask else elementsOf mask (Fmt.width 64 f) (sectorCount 64 g)
    (writeSectorElems 64 g old vcls f (tagScale new.tag) true (fun _ => .nearest) (fun j =>
      if !m.getLsbD j then .keep
      else if Fmt.isMicro f then .val (sectorVal 64 g new j) 0
      else .bits (sectorElem 64 new.bits f j))).1

/-- A tagged write performs at the target's home. -/
def taggedWriteEffect (s : State) (m : CemenMsg) : Option State :=
  if !m.inHbm then some s
  else if m.places.any (sectorBusy s) then none
  else if m.opx 156 1 = 1 then
    match m.sectors with
    | [i] =>
      let sec := m.addr / 512 * 4 + i
      some ((s.reachHome [sec]).writeBase none sec (partialWrite (s.baseSector sec) { bits := m.blocks.headD 0, tag := m.tagAt i } m.mask (m.opx 157 1 == 1)))
    | _ => some s
  else some ((m.sectors.zip m.blocks).foldl (fun s p =>
    s.writeBase none (m.addr / 512 * 4 + p.1) { bits := p.2, tag := m.tagAt p.1 }) (s.reachHome m.places))

/-! ### Reads, responses and atomics (R395) -/

/-- A response to a transfer: data or the cause code that the requester raises. -/
def response (m : CemenMsg) (smask : Nat) (tags : Nat) (err : Option Nat) (blocks : List (BitVec 1024)) : Sent :=
  .cemen { port := m.port
           header := cemenHeader 3 smask m.src m.addr tags (match err with
             | some c => 1 + 2 * c
             | none => 0)
           mask := 0, blocks := blocks }

def State.respond (s : State) (x : Sent) : State := s.sendPlain x

/-- A tagged read is answered with its sectors and their tags. Of an address outside device HBM4 the answer is the window fault
(log 41).
DESIGN CHOICE (unsafe, log 41). -/
def taggedReadEffect (s : State) (m : CemenMsg) : Option State :=
  if !m.inHbm then some (s.respond (response m 0 0 (some 0x60) []))
  else if m.places.any (sectorBusy s) then none
  else
    let l := m.sectors.map (fun i => (i, s.baseSector (m.addr / 512 * 4 + i)))
    some ((s.reachHome m.places).respond (response m m.smask.toNat (l.foldl (fun t p => t + p.2.tag.toNat * 2 ^ (16 * p.1)) 0) none (l.map (·.2.bits))))

/-- A response answers a request for an address of a device. -/
def answersTo (m : CemenMsg) (dev addr : Nat) : Bool := dev == m.src && (addr == m.addr || addr / 512 * 512 == m.addr)

/-- A response is the answer that the first copy request asked for that has none yet (R393). -/
def copyResponse (s : State) (m : CemenMsg) : State :=
  let mine (r : CopyReq) : Bool := r.answer.isNone && r.asking.any (fun a => answersTo m a.1 a.2)
  match s.cores.findSome? (fun c => (c.2.copies.find? mine).map (fun r => (c.1, r.id))) with
  | none => s
  | some (core, id) => s.modCopy core id (fun r => { r with answer := some m })

/-- A response is the answer that a waiting agent asked for: the lowest such strand, or barista, runs its instruction again with it; without
one it is a copy request's. -/
def readResponseEffect (s : State) (m : CemenMsg) : Option State :=
  let asks (w : Option Wait) : Option Nat := match w with
    | some (.response dev addr key) => if answersTo m dev addr then some key else none
    | _ => none
  let l := s.occupied.filterMap (fun p => (asks p.2.wait).map (fun k => (p.1, k)))
    ++ s.baristas.filterMap (fun p => (asks p.2.wait).map (fun k => (12288 + p.1, k)))
  match l with
  | [] => some (copyResponse s m)
  | p :: r =>
    let q := r.foldl (fun (b : Nat × Nat) x => if x.1 < b.1 then x else b) p
    let s : State := { s with replies := insertNat q.1 (((lookupNat q.1 s.replies).getD []) ++ [(q.2, m)]) s.replies }
    some (if q.1 < 12288 then s.modStrand q.1 Strand.finishing
      else s.setBarista (q.1 - 12288) { s.barista (q.1 - 12288) with wait := none })

/-- The rounding that an atomic carries: RM in byte 16, the element's stochastic bits in bytes 20 to 23. -/
def carriedRounding (b : Nat) : Rounding := match cut b 128 8 with
  | 0 => .nearest
  | 1 => .zero
  | 2 => .up
  | 3 => .down
  | _ => .stochastic (BitVec.ofNat 32 (cut b 160 32))

/-- The operation codes of R160 and R161. -/
def amoOfCode : Nat → Option AmoOp
  | 0 => some .add | 1 => some .and | 2 => some .or | 3 => some .xor | 4 => some .min | 5 => some .max | 6 => some .minu
  | 7 => some .maxu | 8 => some .swap | 9 => some .cas
  | _ => none

def vamoOfCode : Nat → Option VamoOp
  | 0 => some .add | 1 => some .min | 2 => some .max | 3 => some .swap | 4 => some .cas
  | _ => none

/-- The exact sum that a scatter-add group carries (R395). -/
def carriedSum (b : Nat) : Val :=
  let e := (BitVec.ofNat 16 (cut b 16 16)).toInt
  let m := cut b 512 512
  .fin (b % 2 == 1) (if 0 ≤ e then m * 2 ^ e.toNat else m) (if 0 ≤ e then 1 else 2 ^ (-e).toNat)

/-- An element atomic or a group at the target: the fault it raises, or the old bits and the new sector (R156, R161). The blend lookup is
made in bank 0.
DESIGN CHOICE (unsafe, log 41). -/
def elementAtomic (m : CemenMsg) (i : Nat) (x : Sector) : Except Nat (Word × Sector) :=
  let b := (m.blocks.headD 0).toNat
  let kind := m.opx 160 2
  let j := m.opx 162 7
  let t := m.tagAt i
  let f := tagFormat x.tag
  let old := elementBits 64 x j
  let rm := carriedRounding b
  if kind = 3 then .error 0x27
  else if malformedReg x.tag then .error 0x08
  else if kind = 1 then
    match vamoOfCode (m.opx 156 4) with
    | none => .error 0x27
    | some op =>
      if tagFmt x.tag ≠ tagFmt t ∨ (!Fmt.isFolding f && f != .raw && tagScale x.tag != tagScale t) ∨ !op.accepts f .raw then .error 0x27
      else if tagVcls x.tag = clsPoison then .error 0x0B
      else .ok (old, setElement 64 x j (op.apply rm x.tag old (BitVec.ofNat 64 b) (BitVec.ofNat 64 (cut b 64 64))).1)
  else if (blend CoreSt.reset 0 f (tagFormat t)).2 = .trap then .error 0x09
  else if f = .raw ∨ Fmt.isMicro f ∨ Fmt.isWide f then .error 0x27
  else if tagVcls x.tag = clsPoison then .error 0x0B
  else .ok (old, setElement 64 x j (scatterInto rm x.tag old (carriedSum b, 0)).1)

/-- An 8-byte atomic at the target (R160); the low bits of ADDR give the place of its bytes (log 40).
DESIGN CHOICE (unsafe, log 40). -/
def wordAtomic (m : CemenMsg) (x : Sector) : Except Nat (Word × Sector) :=
  let b := (m.blocks.headD 0).toNat
  let off := m.addr % 128 / 8 * 8
  let old : Word := BitVec.ofNat 64 (if tagVcls x.tag = clsUndef then 0 else x.bytes off 8)
  match amoOfCode (m.opx 156 4) with
  | none => .error 0x01
  | some op =>
    if malformedReg x.tag then .error 0x08
    else if tagVcls x.tag = clsPoison then .error 0x0B
    else .ok (old, x.storeBytes off 8 (op.apply old (BitVec.ofNat 64 b) (BitVec.ofNat 64 (cut b 64 64))).toNat)

/-- An atomic performs at its home and is answered with the old value; a failure answers with its cause code. -/
def atomicEffect (s : State) (m : CemenMsg) : Option State :=
  match m.sectors with
  | [i] =>
    let sec := m.addr / 512 * 4 + i
    let fail (c : Nat) : Option State := some (s.respond (response m (2 ^ i) 0 (some c) []))
    if !m.inHbm then fail 0x60
    else if sectorBusy s sec then none
    else
      let r := if m.opx 160 2 = 0 then wordAtomic m (s.baseSector sec) else elementAtomic m i (s.baseSector sec)
      match r with
      | .error c => fail c
      | .ok (old, x) => some (((s.reachHome [sec]).writeBase none sec x).respond (response m (2 ^ i) 0 none
          (if m.opx 160 2 = 2 then [] else [BitVec.ofNat 1024 old.toNat])))
  | _ => some s

/-! ### Links, acknowledgements and binding (R390, R391, R396 to R398) -/

/-- The Cemen versions of this release: bit 1 (R396). -/
def cemenVersions : BitVec 16 := 0x0002

/-- The highest version of a bitmap; 0 without one. -/
def highestVersion (b : BitVec 16) : Nat := (List.range 16).foldl (fun n i => if b.getLsbD i then i else n) 0

/-- The negotiation transfer of a port: the bitmap of the versions that this device supports (R395, R396); its ADDR, SMASK and
destination are 0.
DESIGN CHOICE (unsafe, log 40). -/
def negotiation (port : Nat) : Sent :=
  .cemen { port := port, header := cemenHeader 7 0 0 0 0 cemenVersions.toNat, mask := 0, blocks := [] }

/-- R396: a port trains: it sends its versions and takes the highest one that both partners support; with none it carries plain CXL
only. -/
def execLinkTraining (port : Nat) (partner : BitVec 16) (s : State) : Out :=
  .next (if 12 ≤ port then s else { s with
    sent := s.sent ++ [negotiation port], sentSeq := s.sentSeq + 1
    mgmt := { s.mgmt with
      ports := insertNat port (true, BitVec.ofNat 16 (highestVersion (cemenVersions &&& partner))) s.mgmt.ports } })

/-- R390, R391: the fabric binds a device, which some ports reach, or this device itself. -/
def execFabricBind (device : Nat) (reached : Option (BitVec 12)) (s : State) : Out :=
  .next (
    let m := s.mgmt
    match reached with
    | none => { s with mgmt := { m with fab := true } }
    | some ports => { s with mgmt := { m with bound := insertNat device ports m.bound } })

/-- R397: the acknowledgement of a write returns. -/
def execFabricAck (id : Nat) (s : State) : Out := .next { s with unacked := eraseNat id s.unacked }

/-- The first agent that waits for an acknowledgement: a strand, or barista b as 12,288 + b. -/
def ackWaiter (s : State) (id : Nat) : Option Nat :=
  match s.occupied.find? (fun p => p.2.wait == some (.acknowledge id)) with
  | some p => some p.1
  | none => (s.baristas.find? (fun q => q.2.wait == some (.acknowledge id))).map (fun q => 12288 + q.1)

/-- An acknowledgement that an agent waits for is overdue (R398). -/
def ackLost (s : State) (id : Nat) : Option (Nat × Unacked) := match lookupNat id s.unacked, ackWaiter s id with
  | some u, some g => if u.since + 65536 ≤ s.cycle.toNat then some (g, u) else none
  | _, _ => none

/-- R398: a release or fence at fabric scope that waits for an acknowledgement past 65,536 clocks raises the completion-lost fault; a
handler aborts.
DEDUCED (unsafe, log 23). -/
def execCompletionLost (id : Nat) (s : State) : Out :=
  .next (match ackLost s id with
    | none => s
    | some (g, u) =>
      if g < 12288 then s.as g (fun s => s.takeTrap { code := 0x61, data := u.addr, vec := false, sub := 0, pa := 0xFFFFFFFFFFFFFFFF })
      else s.abortHandler (g - 12288) 0xFD)

end Sys2Proof.Machine
end

