-- ==== Sys2Proof/Machine/Collect.lean ====
section
/-! DEFINITION. Collectives (R399 to R401): the group descriptor, submission, the fragments that participants exchange (R395; their
layout is the model's, log 43), and what the collective units compute and write. -/

namespace Sys2Proof.Machine

/-- The word of a collective: edata of its illegal-instruction trap (R76, R88). -/
def collWord (d a : BitVec 6) (minor : BitVec 7) : Word := (packWord (Fields.fmtA 0x70 d a 0 minor)).setWidth 64

/-- The operations of R400. -/
inductive CollOp where
  | add | min | max | fo | bcast
deriving DecidableEq, Repr

def CollOp.code : CollOp → Nat
  | .add => 0 | .min => 1 | .max => 2 | .fo => 3 | .bcast => 4

/-! ### The descriptor (R399) -/

/-- P, the number of participants. -/
def descParticipants (x : Nat) : Nat := cut x 8 12 + 1

/-- The descriptor's own limits. -/
def descOk (x : Nat) : Bool :=
  let ofmt := Fmt.ofCode (BitVec.ofNat 6 (cut x 44 6))
  cut x 0 8 == 1 && decide (cut x 20 12 ≤ cut x 8 12) && decide (cut x 32 12 ≤ cut x 8 12)
    && (ofmt == some .fp32 || ofmt == some .fp16 || ofmt == some .bf16 || ofmt == some .int32)
    && cut x 50 14 == 0 && cut x 192 64 % 8 == 0 && cut x 320 704 == 0

/-- A descriptor sector that can be one: RAW bytes of a RAW-grid page. -/
def descSector (p : Page) (x : Sector) : Bool :=
  p.grid == .raw && !malformedSector p.grid x.tag && tagVcls x.tag == clsValid && descOk x.bits.toNat

/-! ### Buffers -/

/-- The sectors that n elements of a width in bytes span, from a byte offset in the first. -/
def sectorSpan (w off n : Nat) : Nat := (off + n * w + 127) / 128

/-- The addresses of the sectors of a buffer. -/
def bufferSectors (base : Word) (w n : Nat) : List Word :=
  (List.range (sectorSpan w (base.toNat % 128) n)).map (fun k => sectorVa base + BitVec.ofNat 64 (128 * k))

/-- Every address of a list, translated. -/
def translateAll (s : State) (ctx : Ctx) (acc : Access) : List Word → Except Stop (List (Word × Page))
  | [] => .ok []
  | a :: l => do
    let p ← translate s ctx acc a
    let r ← translateAll s ctx acc l
    .ok ((a, p) :: r)

/-- The sectors of a buffer, as the units read them. -/
def readAll (s : State) (ctx : Ctx) : List (Word × Page) → Except Stop (List Sector × State)
  | [] => .ok ([], s)
  | e :: l => do
    let x ← loadSector s ctx e.2 e.1 false
    let r ← readAll x.2 ctx l
    .ok (x.1 :: r.1, r.2)

/-! ### Fragments (R395, log 43) -/

/-- A byte of memory as the device reads it for itself. -/
def deviceByte (s : State) (ctx : Ctx) (a : Word) : Option Nat :=
  (deviceWord s ctx (a &&& ~~~(7 : Word))).map (fun w => field w (8 * (a.toNat % 8)) 8)

/-- The DEVIDs of a group in rank order; none for one that the device cannot read. -/
def groupMembers (s : State) (ctx : Ctx) (table : Word) (p : Nat) : List (Option Nat) :=
  (List.range p).map (fun r =>
    let a := table + BitVec.ofNat 64 (2 * r)
    match deviceByte s ctx a, deviceByte s ctx (a + 1) with
    | some lo, some hi => some ((lo + 256 * hi) % 4096)
    | _, _ => none)

/-- Every other participant is reached by a port that carries Cemen (R396). -/
def membersReached (s : State) (rank : Nat) (members : List (Option Nat)) : Bool :=
  members.zipIdx.all (fun m => m.2 == rank || match m.1 with
    | some dev => !(portsTo s dev).isEmpty
    | none => true)

/-- The block that describes what a participant submits.
DESIGN CHOICE (unsafe, log 43). -/
def fragmentBlock (c : Collective) (first : Nat) : Nat :=
  packFields [(64, c.gid.toNat), (32, c.gen.toNat), (32, c.count), (8, c.op), (8, c.ofmt.toNat), (16, c.rank), (16, c.off),
    (8, match c.grid with
      | .g8 => 0
      | .g16 => 1
      | .g32 => 2
      | .raw => 3), (8, c.slot), (32, first)]

/-- A fragment: the describing block in slot 0, and up to three sectors from number `first`.
DESIGN CHOICE (unsafe, log 43). -/
def fragmentMsg (c : Collective) (dst first : Nat) : CemenMsg :=
  let l := (c.own.drop first).take 3
  { port := 0
    header := cemenHeader 6 (2 ^ (l.length + 1) - 1) dst 0
      ((l.zip (List.range l.length)).foldl (fun t p => t + p.1.tag.toNat * 2 ^ (16 * (p.2 + 1))) tagRaw.toNat) 0
    mask := 0, blocks := BitVec.ofNat 1024 (fragmentBlock c first) :: l.map (·.bits) }

/-- A participant's submission goes to every other participant. -/
def sendFragments (s : State) (c : Collective) (members : List (Option Nat)) : State :=
  let firsts := (List.range (Nat.max 1 ((c.own.length + 2) / 3))).map (fun k => 3 * k)
  (members.zip (List.range members.length)).foldl (fun s m => match m.1 with
    | some dst => if m.2 = c.rank then s else firsts.foldl (fun s f => s.sendPlain (.cemen (fragmentMsg c dst f))) s
    | none => s) s

/-! ### Issue (R400) -/

/-- CollIssue.
DEDUCED (unsafe, log 55). -/
def collIssue (s : State) (d a : SReg) (op : CollOp) : Except Stop State := do
  let da := s.rdS a
  let src := s.rdS (a + 1)
  let dst := s.rdS (a + 2)
  let n := (s.rdS (a + 3)).toNat
  let bad : Stop := trapOf 0x62 da
  let slot := s.strand.wmax
  let counted := decide (1 ≤ n) && decide (n ≤ 2 ^ 24)
  need (s.strand.depth == 0) escape
  let pd ← translate s s.ctx .rmw da
  let ps ← translate s s.ctx .read src
  let pt ← translate s s.ctx .write dst
  let w := ps.grid.width slot / 8
  let wt := pt.grid.width slot / 8
  let from_ ← if counted then translateAll s s.ctx .read (bufferSectors src w n) else .ok []
  let into ← if counted then translateAll s s.ctx .write (bufferSectors dst wt n) else .ok []
  need (da.toNat % 128 == 0 && counted) bad
  let x ← loadSector s s.ctx pd da false
  let desc := x.1.bits.toNat
  need (descSector pd x.1 && from_.all (fun e => e.2.grid == ps.grid) && into.all (fun e => e.2.grid == pt.grid)
    && (op != .bcast || (src.toNat % 128 == 0 && dst.toNat % 128 == 0))) bad
  checkAlign src w
  checkAlign dst wt
  let members := groupMembers s s.ctx (BitVec.ofNat 64 (cut desc 128 64)) (descParticipants desc)
  need (membersReached s (cut desc 20 12) members) (trapOf 0x60 da)
  copiesDone s .copies
  fabricRelease s .fabric true true
  let gen : BitVec 32 := BitVec.ofNat 32 (cut desc 288 32) + 1
  let rank := cut desc 20 12
  let gives := op != .bcast || rank == cut desc 32 12
  let own ← readAll x.2 s.ctx (if gives then from_ else [])
  let t ← storeSector own.2 s.ctx pd da (byteMask 36 4) none (.bytes 36 4 gen.toNat) false
  let c : Collective :=
    { die := dieOf s.strandId, asid := s.strand.asid, gid := BitVec.ofNat 64 (cut desc 64 64), gen := gen, op := op.code
      p := descParticipants desc, rank := rank, root := cut desc 32 12, ofmt := BitVec.ofNat 6 (cut desc 44 6)
      cpl := BitVec.ofNat 64 (cut desc 192 64), count := n, issue := s.cycle.toNat, tmo := cut desc 256 32
      slot := slot, grid := ps.grid, off := src.toNat % 128, own := own.1, dstGrid := pt.grid, dstOff := dst.toNat % 128
      dst := into, status := none, flags := 0 }
  let u : State := { sendFragments t c members with collectives := t.collectives ++ [c] }
  .ok ((u.putS 1 d (gen.setWidth 64) 0).retire)

/-- The shape of every collective: its operand limits are those of its encoding (R400). -/
def State.collective (s : State) (d a : SReg) (op : CollOp) : State :=
  s.onStrand (fun s =>
    if a.toNat ≤ 60 then s.finish (collIssue s d a op)
    else s.stop (illegalWith s (collWord d a (BitVec.ofNat 7 op.code))))

/-- R400: coll.red.add. -/
def execCollRedAdd (d a : SReg) (s : State) : Out := .next (s.collective d a .add)

/-- R400: coll.red.min. -/
def execCollRedMin (d a : SReg) (s : State) : Out := .next (s.collective d a .min)

/-- R400: coll.red.max. -/
def execCollRedMax (d a : SReg) (s : State) : Out := .next (s.collective d a .max)

/-- R400: coll.red.fo. -/
def execCollRedFo (d a : SReg) (s : State) : Out := .next (s.collective d a .fo)

/-- R400: coll.bcast. -/
def execCollBcast (d a : SReg) (s : State) : Out := .next (s.collective d a .bcast)

/-! ### What the units have of the participants -/

/-- What one participant has submitted. -/
structure Submission where
  rank : Nat
  op : Nat
  count : Nat
  ofmt : Nat
  slot : Nat
  grid : Grid
  off : Nat
  sectors : List (Nat × Sector)

/-- The submission of this device. -/
def Collective.mine (c : Collective) : Submission :=
  { rank := c.rank, op := c.op, count := c.count, ofmt := c.ofmt.toNat, slot := c.slot, grid := c.grid, off := c.off
    sectors := (List.range c.own.length).zip c.own }

/-- The describing block of a fragment that came in. -/
def fragmentHead (m : CemenMsg) : Nat := (m.blocks.headD 0).toNat

/-- A fragment belongs to a collective (GID, GEN). -/
def fragmentOf (c : Collective) (m : CemenMsg) : Bool :=
  cut (fragmentHead m) 0 64 == c.gid.toNat && cut (fragmentHead m) 64 32 == c.gen.toNat

/-- The submission of a rank, where its first fragment has come in.
DESIGN CHOICE (unsafe, log 43). -/
def submissionOf (s : State) (c : Collective) (r : Nat) : Option Submission :=
  if r = c.rank then some c.mine else
  match s.fragments.filter (fun m => fragmentOf c m && cut (fragmentHead m) 144 16 == r) with
  | [] => none
  | m :: l =>
    let b := fragmentHead m
    some
      { rank := r, op := cut b 128 8, ofmt := cut b 136 8, count := cut b 96 32, slot := cut b 184 8
        grid := Grid.ofBits (BitVec.ofNat 2 (cut b 176 8)), off := cut b 160 16
        sectors := (m :: l).flatMap (fun m =>
          (m.blocks.drop 1).zipIdx.map (fun p => (cut (fragmentHead m) 192 32 + p.2, { bits := p.1, tag := m.tagAt (p.2 + 1) }))) }

/-- The width in bytes of an element of a submission. -/
def Submission.width (x : Submission) : Nat := x.grid.width x.slot / 8

/-- Every sector of the submission is here; a participant that gives nothing has none. -/
def Submission.complete (x : Submission) (gives : Bool) : Bool :=
  !gives || (List.range (sectorSpan x.width x.off x.count)).all (fun k => (lookupNat k x.sectors).isSome)

/-- All submissions of a collective in rank order, once every one is complete. -/
def submissions (s : State) (c : Collective) : Option (List Submission) :=
  let l := (List.range c.p).filterMap (submissionOf s c)
  if l.length = c.p ∧ l.all (fun x => x.complete (c.op != 4 || x.rank == c.root)) then some l else none

/-- The sector of element i, and its place there. -/
def Submission.element (x : Submission) (i : Nat) : Option (Sector × Nat) :=
  let b := x.off + i * x.width
  (lookupNat (b / 128) x.sectors).map (fun y => (y, b % 128 / x.width))

/-- The value of element i of a submission (R41); an UNDEF sector reads as zeros. -/
def Submission.value (x : Submission) (i : Nat) : Val × Sticky :=
  match x.element i with
  | none => (.fin false 0 1, 0)
  | some (y, j) =>
    let slot := x.grid.width x.slot
    let f := tagFormat y.tag
    if tagVcls y.tag = clsUndef then (decodeEl f (tagScale y.tag) 127 0, 0)
    else (sectorVal slot x.grid y j, readFlags f (sectorElem slot y.bits f j))

/-- The format of element i. -/
def Submission.format (x : Submission) (i : Nat) : Fmt := match x.element i with
  | some (y, _) => tagFormat y.tag
  | none => .raw

/-- A sector that a sum does not accept (R400). -/
def Submission.refused (x : Submission) : Bool :=
  x.sectors.any (fun p =>
    let f := tagFormat p.2.tag
    malformedSector x.grid p.2.tag || f == .raw || f == .a48 || f == .i48)

/-! ### The result of one element (R400) -/

/-- An addend of the exact sum: a multiple of 2^-160 below 2^147 in magnitude, over 2^-160, with the flags of its rounding. -/
def addend (neg : Bool) (n d : Nat) : Int × Sticky :=
  let m := roundMag .nearest neg (n * 2 ^ 160) d
  let nx : Sticky := if n * 2 ^ 160 % d = 0 then 0 else flagNX
  let m2 := if 2 ^ 307 ≤ m then 2 ^ 307 - 1 else m
  (if neg then -(m2 : Int) else m2, nx ||| (if 2 ^ 307 ≤ m then flagOF else 0))

/-- The exact sum of the values. -/
def exactSum (l : List Val) : Val × Sticky :=
  if l.any Val.isNan ∨ (l.any (fun v => v.isInf && v.sign) ∧ l.any (fun v => v.isInf && !v.sign)) then (.nan, flagNV)
  else match l.find? Val.isInf with
    | some v => (v, 0)
    | none =>
      let t := l.foldl (fun (a : Int × Sticky) v => match v with
        | .fin neg n d => let x := addend neg n d; (a.1 + x.1, a.2 ||| x.2)
        | _ => a) (0, 0)
      (.fin (decide (t.1 < 0)) t.1.natAbs (2 ^ 160), t.2)

/-- One FP32 sum, rounded to nearest even. -/
def fp32Sum (x y : Val) : Val × Sticky :=
  let z := Val.add false x y
  if z.isNan then (.nan, flagNV)
  else
    let e := encodeEl .fp32 127 127 .nearest false z
    (decodeEl .fp32 127 127 e.1, e.2)

/-- Sums in rank order. -/
def orderedSum : List Val → Val × Sticky
  | [] => (.fin false 0 1, 0)
  | v :: l => l.foldl (fun (a : Val × Sticky) x => let r := fp32Sum a.1 x; (r.1, a.2 ||| r.2)) (v, if v.isNan then flagNV else 0)

/-- Sums in the order of the fabric's tree, which the spec leaves open: two partial sums at a time (log 44).
DESIGN CHOICE (safe, log 44). -/
def treeSum (pick : Nat → Nat × Nat) : Nat → List Val → Val × Sticky
  | 0, l => orderedSum l
  | _ + 1, [] => (.fin false 0 1, 0)
  | _ + 1, [v] => (v, if v.isNan then flagNV else 0)
  | fuel + 1, v :: w :: l =>
    let all := v :: w :: l
    let i := (pick fuel).1 % all.length
    let rest := all.eraseIdx i
    let j := (pick fuel).2 % rest.length
    let x := fp32Sum (all.getD i v) (rest.getD j w)
    let r := treeSum pick fuel (x.1 :: rest.eraseIdx j)
    (r.1, x.2 ||| r.2)

/-- The least or the greatest value; any NaN gives a NaN. -/
def extremeOf (least : Bool) : List Val → Val
  | [] => .fin false 0 1
  | v :: l => l.foldl (fun a x => (if least then minOp .fp32 a x else maxOp .fp32 a x).1) v

/-- Element i of the result, before its encoding.
DEDUCED (unsafe, log 55). -/
def resultValue (op : Nat) (pick : Nat → Nat × Nat) (l : List Submission) (i : Nat) : Val × Sticky :=
  let vs := l.map (fun x => x.value i)
  let fl := vs.foldl (fun a v => a ||| v.2) 0
  let v := vs.map (·.1)
  let r : Val × Sticky := match op with
    | 0 => if l.any (fun x => x.format i == .fp32) then treeSum pick v.length v else exactSum v
    | 1 => (extremeOf true v, 0)
    | 2 => (extremeOf false v, 0)
    | _ => orderedSum v
  (r.1, r.2 ||| fl)

/-- Element i of the result under OFMT and SCALE 127 (R49). -/
def resultBits (c : Collective) (pick : Nat → Nat × Nat) (l : List Submission) (i : Nat) : Word × Sticky :=
  let r := resultValue c.op pick l i
  let e := encodeEl ((Fmt.ofCode c.ofmt).getD .fp32) 127 127 .nearest false r.1
  (e.1, e.2 ||| r.2)

/-! ### Destination sectors (R152, R400) -/

/-- The element of the buffer that element j of destination sector k is. -/
def bufferIndex (c : Collective) (k j : Nat) : Option Nat :=
  let w := c.dstGrid.width c.slot / 8
  let b := 128 * k + j * w
  if c.dstOff ≤ b ∧ (b - c.dstOff) / w < c.count then some ((b - c.dstOff) / w) else none

/-- The elements of destination sector k that are written. -/
def covered (c : Collective) (k : Nat) : List (Nat × Nat) :=
  (List.range (sectorCount (c.dstGrid.width c.slot) c.dstGrid)).filterMap (fun j => (bufferIndex c k j).map (fun i => (j, i)))

/-- A partial or a whole store into a destination sector. -/
def storedClass (old : Sector) (whole undef : Bool) : BitVec 2 :=
  if tagVcls old.tag = clsPoison ∧ !whole then clsPoison else if undef then clsUndef else clsValid

/-- Destination sector k of a reduction; the page's demotion policy applies to OFMT (R46).
DEDUCED (unsafe, log 55). -/
def reducedSector (c : Collective) (pick : Nat → Nat → Nat × Nat) (l : List Submission) (page : Page) (k : Nat) (old : Sector) :
    Sector × Sticky :=
  let slot := c.dstGrid.width c.slot
  let els := covered c k
  let whole := els.length == sectorCount slot c.dstGrid
  let src := mkTag clsValid 127 c.ofmt
  let fs := (storedFormat src page.grid page.dfmt page.dpol).getD (.raw, 127)
  let res := els.map (fun e => (e.1, resultBits c (pick e.2) l e.2))
  let el (j : Nat) : Elem := match lookupNat j res with
    | none => .keep
    | some r =>
      if fs.1 = tagFormat src then .coded r.1 r.2
      else if fs.1 = .raw then .coded r.1 r.2
      else .val (decodeEl (tagFormat src) 127 127 r.1) r.2
  writeSectorElems slot c.dstGrid old (storedClass old whole false) fs.1 fs.2 true (fun _ => .nearest) el

/-- A POISON input makes its destination sector POISON (R401). -/
def poisonedInputs (c : Collective) (l : List Submission) (k : Nat) : Bool :=
  (covered c k).any (fun e => l.any (fun x => match x.element e.2 with
    | some y => tagVcls y.1.tag == clsPoison
    | none => false))

/-- A sector of the root that its destination sector takes is POISON (R401). -/
def poisonedRoot (root : Submission) (k : Nat) : Bool := match lookupNat k root.sectors with
  | some x => tagVcls x.tag == clsPoison
  | none => false

/-- Destination sector k of a broadcast: the root's sector with its tag, in part where the buffer ends in it. -/
def broadcastSector (c : Collective) (root : Submission) (k : Nat) (old : Sector) : Sector :=
  let slot := c.dstGrid.width c.slot
  let els := covered c k
  match lookupNat k root.sectors with
  | none => old
  | some x =>
    if els.length = sectorCount slot c.dstGrid then x
    else
      let f := tagFormat x.tag
      let undef := tagVcls x.tag == clsUndef
      let cls := if poisonedRoot root k then clsPoison else storedClass old false undef
      (writeSectorElems slot c.dstGrid old cls f (tagScale x.tag) true (fun _ => .nearest) (fun j =>
        match lookupNat j els with
        | none => .keep
        | some _ => if Fmt.isMicro f then .val (sectorVal slot c.dstGrid x j) 0 else .bits (sectorElem slot x.bits f j))).1

/-- A sector of the root that a destination page does not take (R265). -/
def broadcastRefused (c : Collective) (root : Submission) : Bool :=
  (c.dst.zip (List.range c.dst.length)).any (fun e => match lookupNat e.2 root.sectors with
    | some x => malformedSector root.grid x.tag || !Fmt.fits (tagFormat x.tag) e.1.2.grid
    | none => true)

/-- What the units find: the status, and where it is 0 or 4 what each destination sector becomes. -/
def collOutcome (s : State) (c : Collective) (l : List Submission) : BitVec 4 × (Nat → Page → Sector → Sector × Sticky) :=
  let nothing : Nat → Page → Sector → Sector × Sticky := fun _ _ x => (x, 0)
  let pick (i k : Nat) : Nat × Nat := Config.reductionPick s.freeTick (4096 * i + k)
  if l.any (fun x => x.op != c.op || x.count != c.count || x.ofmt != c.ofmt.toNat) then (1, nothing)
  else if c.op = 4 then match l.find? (fun x => x.rank == c.root) with
    | none => (1, nothing)
    | some r =>
      if broadcastRefused c r then (5, nothing)
      else (if (List.range c.dst.length).any (poisonedRoot r) then 4 else 0, fun k _ old => (broadcastSector c r k old, 0))
  else if l.any Submission.refused ∨ c.dst.any (fun e =>
      (storedFormat (mkTag clsValid 127 c.ofmt) e.2.grid e.2.dfmt e.2.dpol).isNone) then (5, nothing)
  else
    (if (List.range c.dst.length).any (poisonedInputs c l) then 4 else 0,
      fun k page old =>
        if poisonedInputs c l k then ({ old with tag := mkTag clsPoison (tagScale old.tag) (tagFmt old.tag) }, 0)
        else reducedSector c pick l page k old)

/-- The number that names a collective among the agents whose writes may await acknowledgement (R397, R401). -/
def Collective.agent (c : Collective) : Nat := 16384 + 4 * (2 ^ 32 * c.gid.toNat + c.gen.toNat) + c.die

/-- The destination sectors are written; none while one of them is BUSY. -/
def writeResult (s : State) (c : Collective) (f : Nat → Page → Sector → Sector × Sticky) : Option (State × Sticky) :=
  (c.dst.zip (List.range c.dst.length)).foldl (fun r e => match r with
    | none => none
    | some (s, fl) =>
      let p := e.1.2
      let old := s.baseSector (p.pa / 128)
      let els := covered c e.2
      let m := els.foldl (fun (m : BitVec 128) x => m ||| BitVec.twoPow 128 x.1) 0
      let whole := els.length == sectorCount (c.dstGrid.width c.slot) c.dstGrid
      match storeSector s { deviceCtx c.die c.asid with agent := some c.agent, vec := true } p e.1.1 (BitVec.allOnes 128) (if whole then none else some m)
          (.whole (f e.2 p old).1) true with
      | .ok t => some (t, fl ||| (f e.2 p old).2)
      | .error (.wait _) => none
      | .error _ => some (s, fl)) (some (s, 0))

/-! ### The units' steps -/

/-- The first collective of a die and group of which a condition holds, by its place: each generation by itself (R400). -/
def findCollective (s : State) (die gid : Nat) (p : Collective → Bool) : Option (Nat × Collective) :=
  (s.collectives.zipIdx.find? (fun q => q.1.die == die && q.1.gid.toNat == gid && p q.1)).map (fun q => (q.2, q.1))

def State.setCollective (s : State) (i : Nat) (c : Collective) : State := { s with collectives := s.collectives.set i c }

/-- All submissions of a collective have met and its results can be written.
DEDUCED (unsafe, log 55). -/
def matched (s : State) (c : Collective) : Option (State × BitVec 4 × Sticky) :=
  match c.status, submissions s c with
  | none, some l =>
    let o := collOutcome s c l
    if o.1 = 0 ∨ o.1 = 4 then (writeResult s c o.2).map (fun r => (r.1, o.1, r.2)) else some (s, o.1, 0)
  | _, _ => none

/-- R400: all P submissions of a generation have met; the result is computed and written. -/
def execCollectiveMatch (die gid : Nat) (s : State) : Out :=
  .next (match findCollective s die gid (fun c => (matched s c).isSome) with
    | none => s
    | some (i, c) => match matched s c with
      | none => s
      | some (t, st, fl) => { t.setCollective i { c with status := some st, flags := fl } with freeTick := t.freeTick + 1 })

/-- R401: the completion word. -/
def completionWord (c : Collective) : Word :=
  BitVec.ofNat 64 (c.gen.toNat + 2 ^ 32 * (c.status.getD 0).toNat + 2 ^ 36 * c.flags.toNat)

/-- Every destination write of a collective has performed at fabric scope: none awaits its acknowledgement (R401). -/
def Collective.performed (s : State) (c : Collective) : Bool := s.unacked.all (fun u => !u.2.known.contains (.agent c.agent true))

/-- The completion word is written; none while its sector is BUSY (R34). -/
def writeCompletion (s : State) (c : Collective) : Option State :=
  let ctx := deviceCtx c.die c.asid
  match translate s ctx .write c.cpl with
  | .error (.wait _) => none
  | .error _ => some s
  | .ok p => match storeSector s ctx p c.cpl (byteMask (c.cpl.toNat % 128) 8) none (.bytes (c.cpl.toNat % 128) 8 (completionWord c).toNat) true with
    | .ok t => some t
    | .error (.wait _) => none
    | .error _ => some s

/-- A collective whose outcome is known can complete now. -/
def Collective.ready (s : State) (c : Collective) : Bool := c.status.isSome && c.performed s && (writeCompletion s c).isSome

/-- R401: once its destination writes have performed at fabric scope, the completion word is written, and the collective is over. -/
def execCollectiveComplete (die gid : Nat) (s : State) : Out :=
  .next (match findCollective s die gid (Collective.ready s) with
    | none => s
    | some (i, c) => match writeCompletion s c with
      | none => s
      | some t => { t with
          collectives := t.collectives.eraseIdx i, fragments := t.fragments.filter (fun m => !fragmentOf c m) })

/-- A collective's time has run out (R399: TMO). -/
def collectiveLate (s : State) (c : Collective) : Bool := c.status.isNone && c.tmo != 0 && decide (c.issue + c.tmo ≤ s.cycle.toNat)

/-- R401: status 2. -/
def execCollectiveTimeout (die gid : Nat) (s : State) : Out :=
  .next (match findCollective s die gid (collectiveLate s) with
    | none => s
    | some (i, c) => s.setCollective i { c with status := some 2 })

/-- R401: a participant is lost: every generation of the group whose submissions have not all met takes status 3.
DEDUCED (unsafe, log 55). -/
def execParticipantLost (die gid : Nat) (s : State) : Out :=
  .next { s with collectives := s.collectives.map (fun c =>
    if c.die = die ∧ c.gid.toNat = gid ∧ c.status.isNone ∧ (submissions s c).isNone then { c with status := some 3 } else c) }

end Sys2Proof.Machine
end

