-- ==== Sys2Proof/Machine/Control.lean ====
section
/-! DEFINITION. Control transfer (R100, R101), the strip-mined loop (R102, R103) and the prefix (R70, R104). -/

namespace Sys2Proof.Machine

/-- A branch (R100): taken when its condition holds and its guard is 1. -/
def State.branch (s : State) (c : Bool) (off : BitVec 19) : State :=
  s.guarded (fun s => if c then s.retireTo (branchTarget s.pc off) else s.retire)

/-- A transfer to an address, with a link (R101): a misaligned target traps before the link is written (R69). -/
def State.transfer (s : State) (link : Option SReg) (target : Word) : State :=
  s.guarded (fun s =>
    if target.toNat % 4 ≠ 0 then s.stop (trapOf 0x05 target)
    else match link with
      | some d => (s.putS 1 d (s.pc + 4) 0).retireTo target
      | none => s.retireTo target)

/-- R100: bz. -/
def execBz (a : SReg) (off : BitVec 19) (s : State) : Out := .next (s.branch (s.rdS a == 0) off)

/-- R100: bnz. -/
def execBnz (a : SReg) (off : BitVec 19) (s : State) : Out := .next (s.branch (s.rdS a != 0) off)

/-- R100: bp. -/
def execBp (a : PReg) (off : BitVec 19) (s : State) : Out := .next (s.branch (s.rdP0 a) off)

/-- R100: bnp. -/
def execBnp (a : PReg) (off : BitVec 19) (s : State) : Out := .next (s.branch (!s.rdP0 a) off)

/-- R101: call to a label. -/
def execCall (d : SReg) (imm : BitVec 19) (s : State) : Out := .next (s.transfer (some d) (branchTarget s.pc imm))

/-- R101: jmp to a label. -/
def execJmp (imm : BitVec 19) (s : State) : Out := .next (s.transfer none (branchTarget s.pc imm))

/-- R101: call through a register; the base is read before the link is written. -/
def execCallReg (d a : SReg) (imm : BitVec 13) (s : State) : Out :=
  .next (s.transfer (some d) (s.rdS a + imm.signExtend 64 * 4))

/-- R101: jmp through a register. -/
def execJmpReg (a : SReg) (imm : BitVec 13) (s : State) : Out := .next (s.transfer none (s.rdS a + imm.signExtend 64 * 4))

/-- R101: ret. -/
def execRet (a : SReg) (s : State) : Out := .next (s.transfer none (s.rdS a))

/-! ### The loop (R102) -/

/-- The strand waits at the strip boundary before a pass, with the loop's context and its captured body (R102, R80). -/
def State.waitAtPass (s : State) (l : LoopContext) (w : Wait) : State :=
  { s with strand := { s.strand with loop := some { l with running := true }, wait := some w } }

/-- The next pass of a loop, or its end: the strip boundary, the lease-absent trap without a lane cluster, VL for the count. A strand
that waits at the boundary stands at the `loopv` with its context live, and goes on from there without another capture (log 21).
DEDUCED (unsafe, log 21). -/
def loopPass (s : State) (l : LoopContext) : State :=
  let here := { s with strand := { s.strand with loop := none, pc := l.pc } }
  if (s.rdS l.count).toInt ≤ 0 then
    { s with strand := { s.strand with loop := none, pc := l.pc + 4 + 4 * BitVec.ofNat 64 l.len } }
  else
    if olderPending here then here.waitAtPass l .older else
    let r := stripBoundary here
    if r.2 then r.1.waitAtPass l .grant
    else if r.1.strand.vlmax = 0 then r.1.stop leaseAbsent
    else
      let t := r.1.tickSched
      let vl := Nat.min (s.rdS l.count).toNat t.strand.vlmax
      { t with strand := { t.strand.setVl vl with loop := some { l with running := true }, pc := l.pc + 4 } }

/-- The end of a pass: the count goes down by VL, and the next pass begins. A write of the count by the body that is pending in an exposed
region lands at its own clock, after the subtraction and in its place (R24), though R102 has a body's write take effect before it.
DESIGN CHOICE (unsafe, log 20). -/
def endPass (s : State) (l : LoopContext) : State :=
  loopPass { s with strand := s.strand.setS l.count (s.rdS l.count - BitVec.ofNat 64 s.strand.vl) } l

/-- The strand stands at the boundary before a pass of a live loop, where it has waited. -/
def State.atPassStart (s : State) : Option LoopContext := match s.turn, s.strand.loop with
  | none, some l => if l.running && s.strand.pc == l.pc then some l else none
  | _, _ => none

/-- The strand stands at the end of a running pass. -/
def State.atPassEnd (s : State) : Option LoopContext := match s.turn, s.strand.loop with
  | none, some l => if s.strand.atPassEnd then some l else none
  | _, _ => none

/-- R102: loopv captures its body, then runs passes. A body word that would trap, or that R81 forbids, raises that trap here.
DEDUCED (unsafe, log 21). -/
def execLoopv (a : SReg) (len : BitVec 19) (s : State) : Out :=
  .next (s.onStrand (fun s => match captureBody s (s.pc + 4) len.toNat with
    | .error x => s.stop x
    | .ok body =>
      let s := s.fetchedBody (s.pc + 4) len.toNat
      let l : LoopContext := { pc := s.pc, len := len.toNat, count := a, body := body, running := true }
      if (s.rdS a).toInt ≤ 0 then
        { s.tickSched with strand := { s.tickSched.strand with loop := none, pc := l.pc + 4 + 4 * BitVec.ofNat 64 l.len } }
      else loopPass s l))

/-! ### The prefix (R104) -/

/-- The shape of every `pre`: the fields are lent to the next word along sequential flow. -/
def State.lend (s : State) (l : Lent) : State := (s.retire).setLent (some l)

/-- R104: pre p. -/
def execPre (p : PReg) (s : State) : Out := .next (s.lend (mkLent p false 0 false 0))

/-- R104: pre.n p. -/
def execPreN (p : PReg) (s : State) : Out := .next (s.lend (mkLent p true 0 false 0))

/-- R104: pre p, reg. -/
def execPreCopy (p : PReg) (cls : RClass) (cd : BitVec 6) (s : State) : Out :=
  .next (s.lend (mkLent p false cd true (classBits cls)))

/-- R104: pre.n p, reg. -/
def execPreNCopy (p : PReg) (cls : RClass) (cd : BitVec 6) (s : State) : Out :=
  .next (s.lend (mkLent p true cd true (classBits cls)))

end Sys2Proof.Machine
end

