-- ==== Sys2Proof/Machine/Manage.lean ====
section
/-! DEFINITION. Management and bring-up: the package register block (R405, R423), the firmware store (R407), the journal's registers
(R403, R404), the module state (R409) and the thermal trip (R410). -/

namespace Sys2Proof.Machine

/-! ### SHA-256, the digest of a firmware image (R407) -/

/-- The primes up to 311: the first 64. -/
def digestPrimes : List Nat := (List.range 312).filter (fun p => decide (2 ≤ p) && (List.range p).all (fun d => decide (d ≤ 1) || p % d != 0))

/-- The largest number of `n` more bits below `r` whose k-th power stays within `x`. -/
def rootWithin (k x : Nat) : Nat → Nat → Nat
  | 0, r => r
  | n + 1, r => rootWithin k x n (if (r + 2 ^ n) ^ k ≤ x then r + 2 ^ n else r)

/-- The first 32 bits after the point of the k-th root of a prime. -/
def rootFraction (k p : Nat) : BitVec 32 := BitVec.ofNat 32 (rootWithin k (p * 2 ^ (32 * k)) 36 0)

/-- The digest's round constants, from cube roots, and its start, from square roots. -/
def roundConstants : List (BitVec 32) := digestPrimes.map (rootFraction 3)
def digestStart : List (BitVec 32) := (digestPrimes.take 8).map (rootFraction 2)

/-- The sum without carry of a word turned right by each of some numbers of places. -/
def twist (w : BitVec 32) (turns : List Nat) : BitVec 32 := (turns.map (fun n => w.rotateRight n)).foldl (fun x y => x ^^^ y) 0

/-- The 64 words of a block's schedule, oldest first, from a window of 16. -/
def schedule : Nat → List (BitVec 32) → List (BitVec 32)
  | 0, w => w
  | n + 1, w =>
    let at_ (i : Nat) : BitVec 32 := w.getD i 0
    let next := at_ 0 + at_ 9 + (twist (at_ 1) [7, 18] ^^^ (at_ 1 >>> 3)) + (twist (at_ 14) [17, 19] ^^^ (at_ 14 >>> 10))
    at_ 0 :: schedule n (w.drop 1 ++ [next])

/-- A round over the eight words of the digest, with the sum of its constant and its schedule word. -/
def digestRound (v : List (BitVec 32)) (k : BitVec 32) : List (BitVec 32) :=
  let at_ (i : Nat) : BitVec 32 := v.getD i 0
  let chosen := at_ 6 ^^^ (at_ 4 &&& (at_ 5 ^^^ at_ 6))
  let most := (at_ 0 &&& at_ 1) ||| (at_ 2 &&& (at_ 0 ||| at_ 1))
  let x := at_ 7 + twist (at_ 4) [6, 11, 25] + chosen + k
  ((x + twist (at_ 0) [2, 13, 22] + most) :: v.take 3) ++ ((at_ 3 + x) :: (v.drop 4).take 3)

/-- A block of 16 words goes into the digest. -/
def digestBlock (h w : List (BitVec 32)) : List (BitVec 32) :=
  let sums := (roundConstants.zip (schedule 48 w)).map (fun p => p.1 + p.2)
  (h.zip (sums.foldl digestRound h)).map (fun p => p.1 + p.2)

/-- Byte i of a message of `n` bytes with its padding: a set bit, zeros, and its length in bits at the end of the last block. -/
def paddedByte (f : Nat → Byte) (n i : Nat) : Byte :=
  if i < n then f i
  else if i = n then 128
  else if i / 64 = (n + 8) / 64 then BitVec.ofNat 8 (8 * n / 256 ^ (63 - i % 64))
  else 0

/-- The SHA-256 digest of the bytes f 0 to f (n - 1). -/
def sha256 (f : Nat → Byte) (n : Nat) : List Byte :=
  let word (i : Nat) : BitVec 32 := (List.range 4).foldl (fun w k => (w <<< 8) ||| (paddedByte f n (i + k)).setWidth 32) 0
  let blocks := List.range ((n + 8) / 64 + 1)
  let h := blocks.foldl (fun h b => digestBlock h ((List.range 16).map (fun j => word (64 * b + 4 * j)))) digestStart
  h.flatMap (fun w => [24, 16, 8, 0].map (fun k => (w >>> k).setWidth 8))

/-- An image of `n` bytes ends with the digest of every byte before it. -/
def imageOk (f : Nat → Byte) (n : Nat) : Bool := sha256 f (n - 32) == (List.range 32).map (fun i => f (n - 32 + i))

/-! ### The firmware store (R407) -/

/-- A byte of the staged image as the device reads it. -/
def stagedByte (s : State) (a : Nat) : Byte := if tagVcls (s.physTag (a / 128)) = clsUndef then 0 else s.physByte a

/-- States in which the firmware registers are writable. -/
def firmwareOpen (s : State) : Bool := s.mgmt.mgmtst == 4 || s.mgmt.mgmtst == 5 || s.mgmt.mgmtst == 6

/-- A write of FWCTL (R407). -/
def writeFwctl (s : State) (value : Word) : State :=
  if bit value 0 && firmwareOpen s && !s.mgmt.fwbusy then { s with mgmt := { s.mgmt with fwbusy := true } } else s

/-- The length and the place of a staged image are within R407's limits. -/
def stagedOk (m : Mgmt) : Bool :=
  m.fwlen.toNat % 4096 == 0 && decide (4096 ≤ m.fwlen.toNat) && decide (m.fwlen.toNat ≤ 67108864)
    && decide (m.fwaddr.toNat + m.fwlen.toNat ≤ 0x8000000000)

/-- R407: the check of a commit ends: malformed address or length, digest mismatch, or accepted and stored.
DESIGN CHOICE (safe, log 45). -/
def execFwCommitComplete (s : State) : Out :=
  .next (
    let m := s.mgmt
    if !m.fwbusy then s
    else
      let byte (i : Nat) : Byte := stagedByte s (m.fwaddr.toNat + i)
      if !stagedOk m then { s with mgmt := { m with fwbusy := false, fwresult := 3 } }
      else if !imageOk byte m.fwlen.toNat then { s with mgmt := { m with fwbusy := false, fwresult := 2 } }
      else { s with
        freeTick := s.freeTick + 1
        mgmt := { m with
          fwbusy := false, fwresult := 1, fwstoredLen := m.fwlen.toNat, storever := Config.imageVersion s.freeTick
          fwstored := (List.range m.fwlen.toNat).filterMap (fun i => if byte i = 0 then none else some (i, byte i)) } })

/-- The stored image passes its check. The image that the device has from the factory, which no commit has replaced, passes (log 5).
DESIGN CHOICE (unsafe, log 5). -/
def storedOk (m : Mgmt) : Bool := m.fwstoredLen == 0 || imageOk (fun i => (lookupNat i m.fwstored).getD 0) m.fwstoredLen

/-- R407, R409: in state 2 the stored image is checked. -/
def execFirmwareCheckComplete (s : State) : Out :=
  .next (
    let m := s.mgmt
    if m.mgmtst ≠ 2 then s
    else if storedOk m then { s with mgmt := { m with mgmtst := 3, runver := m.storever } }
    else { s with mgmt := { m with mgmtst := 6 } })

/-! ### The module state (R409, R410) -/

/-- A write of MGMTST (R409): state 4 to state 5; the window map of that moment is in force (R392).
DEDUCED (unsafe, log 56). -/
def writeMgmtst (s : State) (value : Word) : State :=
  (if s.mgmt.mgmtst = 4 ∧ field value 0 4 = 5 then { s with mgmt := { s.mgmt with mgmtst := 5, fwmapForce := s.mgmt.fwmap } } else s)

/-- The retirement list is applied: lanes on it are not live (R225). -/
def applyRetirement (s : State) : State :=
  s.mgmt.retired.foldl (fun s r => s.setCore r.1 { s.core r.1 with lanemap := ~~~r.2 }) s

/-- R409: the self-test ends. -/
def execSelfTestComplete (s : State) : Out :=
  .next (if s.mgmt.mgmtst ≠ 1 then s else
    let t := applyRetirement s
    { t with mgmt := { t.mgmt with mgmtst := 2 } })

/-- R409: HBM4 training ends. -/
def execHbmTrainingComplete (s : State) : Out :=
  .next (if s.mgmt.mgmtst = 3 then { s with mgmt := { s.mgmt with mgmtst := 4 } } else s)

/-- The management state after a module reset: the firmware store, the retirement list and what record and replay need stay (R403,
R407, R409). -/
def Mgmt.afterReset (m : Mgmt) : Mgmt :=
  let replay := bit m.jrnctl 1
  { Mgmt.reset with
    jrnctl := m.jrnctl, jrnbase := m.jrnbase, jrnsize := m.jrnsize, jrnrange := m.jrnrange
    jrntail := if replay then m.jrntail else 0
    recording := bit m.jrnctl 0 && !replay, replaying := replay
    fwstored := m.fwstored, fwstoredLen := m.fwstoredLen, runver := m.runver, storever := m.storever, retired := m.retired }

/-- Memory without the contents of the scratchpads, whose sectors every module reset clears (R299, R409). -/
def Memory.noScratch (m : Memory) : Memory :=
  let kept (n : Nat) : Bool := match physClass n with
    | .scratch _ => false
    | _ => true
  { m with cells := m.cells.filter (fun c => kept c.1), tags := m.tags.filter (fun t => kept (128 * t.1)) }

/-- R409: module reset. What is outside the device stays; with REPLAY set device memory keeps the image that the host has restored (R403).
DEDUCED (unsafe, log 58). -/
def execModuleReset (s : State) : Out :=
  .next { State.reset with
    hostMem := s.hostMem, hostTags := s.hostTags, sent := s.sent, sentSeq := s.sentSeq, hostReads := s.hostReads
    freeTick := s.freeTick, inputs := s.inputs, mgmt := s.mgmt.afterReset
    mem := if bit s.mgmt.jrnctl 1 then s.mem.noScratch else Memory.empty
    frames := if bit s.mgmt.jrnctl 1 then s.frames else [] }

/-- R410: a thermal trip: every strand stops, and only module reset leaves state 7.
DESIGN CHOICE (safe, log 46). -/
def execThermalTrip (s : State) : Out := .next { s with mgmt := { s.mgmt with mgmtst := 7 } }

/-- A write of SKEWMAP (R409): in state 4 alone; `half` is the upper 64 bits. -/
def writeSkewmap (s : State) (half : Bool) (value : Word) : State :=
  (if s.mgmt.mgmtst ≠ 4 then s else
    let w := s.mgmt.skewmap
    { s with mgmt := { s.mgmt with skewmap :=
      if half then value ++ w.setWidth 64 else w.extractLsb' 64 64 ++ value } })

/-! ### The journal's registers (R403, R404) -/

/-- A write of JRNHEAD (R404): from HEAD to TAIL in steps of 64; what waited for room enters the ring. -/
def writeJrnhead (s : State) (value : Word) : State :=
  let m := s.mgmt
  if value.toNat % 64 ≠ 0 ∨ (m.jrntail - m.jrnhead).toNat < (value - m.jrnhead).toNat then s
  else State.settleJournal { s with mgmt := { m with jrnhead := value } }

/-- A write of JRNSIZE (R404): LOG from 16 to 36. -/
def writeJrnsize (s : State) (value : Word) : State :=
  (if field value 0 6 < 16 ∨ 36 < field value 0 6 then s
    else { s with mgmt := { s.mgmt with jrnsize := BitVec.ofNat 64 (field value 0 6) } })

/-- A write of JRNCTL (R403): REC and REPLAY act from the next release of module reset; writing 1 to DIV clears it. -/
def writeJrnctl (s : State) (value : Word) : State :=
  { s with mgmt := { s.mgmt with
    jrnctl := (value &&& 3) ||| (if bit value 2 then 0 else s.mgmt.jrnctl &&& 4) } }

/-! ### The package register block (R405) -/

/-- A write of RCBCMD (R406): ignored while BUSY; a command starts. -/
def writeRcbcmd (s : State) (value : Word) : State :=
  if bit s.mgmt.rcbres 0 ∨ field value 0 2 = 0 then s
  else { s with mgmt := { s.mgmt with rcbcmd := value &&& 0xFFFFFFFFFFFFFE03, rcbres := 1 } }

/-- A write of a register of the fault queue of a die (R358); FQTAIL is read-only. -/
def writeFaultQueue (s : State) (die reg : Nat) (value : Word) : State :=
  match reg with
  | 0x00 => s.writeFqbase die value
  | 0x08 => s.writeFqhead die value
  | 0x18 => s.writeFqstat die value
  | _ => s

/-- A write of an LLC, Grinder or skew register (R364, R370, R409); DONE is read-only. -/
def writeHomeRegister (s : State) (reg : Nat) (value : Word) : State :=
  if reg < 0x80 then s.writeLlcpart (reg / 8) value
  else if 0x100 ≤ reg ∧ reg < 0x120 then
    let k := (reg - 0x100) / 8
    { s with mgmt := { s.mgmt with
      grctl := insertNat k ((grctl s k &&& 0xFFFFFFFF00000000) ||| (value &&& 0xFFFF0003)) s.mgmt.grctl } }
  else if reg = 0x200 then writeSkewmap s false value
  else if reg = 0x208 then writeSkewmap s true value
  else s

/-- A write of half of a window entry (R392): the map that the next `tlbinv` of KIND 10 puts in force, or the entry into running. -/
def writeWindowEntry (s : State) (slot : Nat) (upper : Bool) (value : Word) : State :=
  let e := (lookupNat slot s.mgmt.fwmap).getD (0, 0)
  { s with mgmt := { s.mgmt with
    fwmap := insertNat slot (if upper then (e.1, value) else (value &&& 0x7FFF, e.2)) s.mgmt.fwmap } }

/-- A write of HPATBASE or of a journal register (R394, R404). A TAIL that is no multiple of 64 leaves the register, as such a HEAD does.
DEDUCED (unsafe, log 59). -/
def writeJournalRegister (s : State) (reg : Nat) (value : Word) : State :=
  match reg with
  | 0x00 => { s with mgmt := { s.mgmt with hpatbase := value } }
  | 0x10 => writeJrnctl s value
  | 0x18 => { s with mgmt := { s.mgmt with jrnbase := value &&& 0xFFFFFFFFFE000 } }
  | 0x20 => writeJrnsize s value
  | 0x28 => writeJrnhead s value
  | 0x30 => if bit s.mgmt.jrnctl 1 && value.toNat % 64 == 0 then { s with mgmt := { s.mgmt with jrntail := value } } else s
  | _ =>
    if 0x40 ≤ reg ∧ reg < 0x80 then
      { s with mgmt := { s.mgmt with jrnrange := insertNat ((reg - 0x40) / 8) (value &&& 0xFFFFFFFFFE07F) s.mgmt.jrnrange } }
    else s

/-- A write of RCBCMD or of a firmware register (R406, R407). -/
def writeCommandRegister (s : State) (reg : Nat) (value : Word) : State :=
  match reg with
  | 0x000 => writeRcbcmd s value
  | 0x100 => if firmwareOpen s then { s with mgmt := { s.mgmt with fwaddr := value &&& 0xFFFFFFFFFF000 } } else s
  | 0x108 => if firmwareOpen s then { s with mgmt := { s.mgmt with fwlen := value &&& 0xFFFFFFFF } } else s
  | 0x110 => writeFwctl s value
  | _ => s

/-- A write of a register of the block takes effect (R405). A write of a read-only register, and of an offset that names none, has no
effect.
DEDUCED (unsafe, log 57). -/
def registerWrite (s : State) (offset : Nat) (value : Word) : State :=
  (if offset % 8 ≠ 0 then s
    else if offset < 0x1000 then (if offset = 0x10 then writeMgmtst s value else s)
    else if offset < 0x10000 then writeCommandRegister s (offset - 0x1000) value
    else if offset < 0x10400 then writeFaultQueue s ((offset - 0x10000) / 0x100) (offset % 0x100) value
    else if 0x20000 ≤ offset ∧ offset < 0x30000 then writeHomeRegister s (offset - 0x20000) value
    else if 0x30000 ≤ offset ∧ offset < 0x34000 then
      (let r := (offset - 0x30000) / 16
      s.writeRegion r (if offset % 16 = 0 then .control value else .count value))
    else if 0x40000 ≤ offset ∧ offset < 0x44000 then
      (let die := (offset - 0x40000) / 0x1000
      let slice := offset % 0x1000 / 32
      if slice < 48 ∧ offset % 32 < 24 then s.clearCounters (die * 48 + slice) else s)
    else if 0x50000 ≤ offset ∧ offset < 0x54000 then writeWindowEntry s ((offset - 0x50000) / 16) (offset % 16 == 8) value
    else if 0x60000 ≤ offset ∧ offset < 0x60080 then writeJournalRegister s (offset - 0x60000) value
    else if offset = 0x80C00 then { s with mgmt := { s.mgmt with lrthr := value &&& 0xFFFF } }
    else if offset = 0x80C08 then { s with mgmt := { s.mgmt with asthr := value &&& 0xFFFF } }
    else s)

/-! ### Reading the block (R405): what each register shows -/

/-- ID (R423). -/
def regId : Word := BitVec.ofNat 64 (0x9200 + 2 ^ 16 * Config.revision.toNat)

/-- FQSTAT of a die (R358). -/
def regFqstat (d : DieSt) : Word :=
  BitVec.ofNat 64 ((if d.ovf then 1 else 0) + 2 ^ 16 * (d.heldPostings.length % 4096) + 2 ^ 32 * d.ovfcnt.toNat)

/-- FWCTL (R407). -/
def regFwctl (m : Mgmt) : Word :=
  BitVec.ofNat 64 ((if m.fwbusy then 2 else 0) + 4 * m.fwresult.toNat + 2 ^ 16 * m.runver.toNat + 2 ^ 32 * m.storever.toNat)

/-- The counter block of a slice (R342), as 192 bits. -/
def regCounters (x : Barista) : Nat :=
  let c := x.counters
  packFields [(32, c.dropq.toNat), (32, c.dropb.toNat), (32, c.aborts.toNat), (32, c.tlim.toNat), (8, c.last.toNat),
    (7, x.queue.length), (1, 0), (32, c.pfdrop.toNat), (16, 0)]

/-- What the host reads at an offset of the block (R405); power, temperature and coolant readings are free values.
DESIGN CHOICE (safe, log 46). -/
def packageRegister (s : State) (offset : Nat) : Word :=
  let m := s.mgmt
  if offset < 0x1000 then (match offset with
    | 0 => regId
    | 8 => s.cycle
    | 0x10 => m.mgmtst.setWidth 64
    | _ => 0)
  else if offset < 0x10000 then (match offset - 0x1000 with
    | 8 => m.rcbres
    | 0x100 => m.fwaddr
    | 0x108 => m.fwlen
    | 0x110 => regFwctl m
    | _ => 0)
  else if offset < 0x10400 then
    (let d := s.die ((offset - 0x10000) / 0x100)
    match offset % 0x100 with
    | 0x00 => d.fqbase
    | 0x08 => d.fqhead.setWidth 64
    | 0x10 => d.fqtail.setWidth 64
    | 0x18 => regFqstat d
    | _ => 0)
  else if 0x20000 ≤ offset ∧ offset < 0x30000 then
    (let r := offset - 0x20000
    if r < 0x80 then (lookupNat (r / 8) m.llcpart).getD 0x8FFFFFFFF
    else if 0x100 ≤ r ∧ r < 0x120 then grctl s ((r - 0x100) / 8)
    else if r = 0x200 then m.skewmap.setWidth 64
    else if r = 0x208 then m.skewmap.extractLsb' 64 64
    else 0)
  else if 0x30000 ≤ offset ∧ offset < 0x34000 then
    (let r := s.region ((offset - 0x30000) / 16)
    if offset % 16 = 0 then BitVec.ofNat 64 (r.owner.toNat + (if r.valid then 4096 else 0)) else r.count)
  else if 0x40000 ≤ offset ∧ offset < 0x44000 then
    if 48 ≤ offset % 0x1000 / 32 then 0 else
    BitVec.ofNat 64 (cut (regCounters (s.barista ((offset - 0x40000) / 0x1000 * 48 + offset % 0x1000 / 32))) (8 * (offset % 32)) 64)
  else if 0x50000 ≤ offset ∧ offset < 0x54000 then
    (let e := (lookupNat ((offset - 0x50000) / 16) m.fwmap).getD (0, 0)
    if offset % 16 = 0 then e.1 else e.2)
  else if 0x60000 ≤ offset ∧ offset < 0x60080 then (match offset - 0x60000 with
    | 0x00 => m.hpatbase
    | 0x10 => m.jrnctl
    | 0x18 => m.jrnbase
    | 0x20 => m.jrnsize
    | 0x28 => m.jrnhead
    | 0x30 => m.jrntail
    | r => if 0x40 ≤ r then (lookupNat ((r - 0x40) / 8) m.jrnrange).getD 0 else 0)
  else if 0x80000 ≤ offset ∧ offset < 0x80C00 then (lookupNat ((offset - 0x80000) / 8) m.retired).getD 0
  else if offset = 0x80C00 then m.lrthr
  else if offset = 0x80C08 then m.asthr
  else if 0x90000 ≤ offset then Config.sensorReading offset s.cycle.toNat
  else 0

end Sys2Proof.Machine
end

