-- ==== Sys2Proof/Machine/Ingress.lean ====
section
/-! DEFINITION. Ingress: what comes in through the ports takes effect, is held by a BUSY sector or by a full journal (R371, R403), or is ignored
in replay; host accesses (R394), writes of the register block (R405) and Cemen transfers (R395). -/

namespace Sys2Proof.Machine

/-! ### What is held, and what is let in -/

/-- What a transfer does; none while it waits for a BUSY sector. -/
def ingressEffect (s : State) (x : Ingress) : Option State := match x with
  | .hostWrite pa data en => hostWriteEffect s pa data en
  | .hostRead pa => hostReadEffect s pa
  | .register offset value => some (registerWrite s offset value)
  | .cemen m =>
    if accepted s m 1 then taggedWriteEffect s m
    else if accepted s m 2 then taggedReadEffect s m
    else if accepted s m 3 then readResponseEffect s m
    else if accepted s m 4 then atomicEffect s m
    else if accepted s m 5 then some { s with mailbox := s.mailbox ++ [m] }
    else if accepted s m 6 then some { s with fragments := s.fragments ++ [m] }
    else some s

/-- A transfer that brings data or a message into the package is journalled (R403); a read request is not. Byte 1 of the fields is the
opcode of a CXL request: 1 a host write, 3 a write of a register (log 70).
DESIGN CHOICE (unsafe, log 70). -/
def ingressRecord (x : Ingress) : Option JrnRecord := match x with
  | .hostWrite pa data en =>
    some { kind := 1, src := 0, fields := BitVec.ofNat 384 (0x100 + 2 ^ 64 * pa + 2 ^ 128 * en.toNat), blocks := [data.setWidth 1024] }
  | .hostRead _ => none
  | .register offset value =>
    some { kind := 1, src := 0, fields := BitVec.ofNat 384 (0x300 + 2 ^ 64 * offset + 2 ^ 128 * value.toNat), blocks := [] }
  | .cemen m => some { kind := 1, src := m.port, fields := m.mask ++ m.header, blocks := m.blocks.take 4 }

/-- The journal has room for what a transfer needs there. -/
def ingressRoom (s : State) (x : Ingress) : Bool := match ingressRecord x with
  | some r => !s.mgmt.recording || jrnRoom s r.blocks.length
  | none => true

/-- A transfer takes effect, with its record; none while it is held. -/
def admitIngress (s : State) (x : Ingress) : Option State :=
  if !ingressRoom s x then none
  else (ingressEffect s x).map (fun _ =>
    let t := match ingressRecord x with
      | some r => s.journal r
      | none => s
    (ingressEffect t x).getD t)

/-- A transfer arrives: behind those that are held, or held itself; replay ignores the ports (R403).
DEDUCED (unsafe, log 59). -/
def State.arrive (s : State) (x : Ingress) : State :=
  if s.mgmt.replaying then s
  else if !s.ingress.isEmpty then { s with ingress := s.ingress ++ [x] }
  else match admitIngress s x with
    | some t => t
    | none => { s with ingress := [x] }

/-- The first held transfer, where it can take effect now, with the state after it. -/
def heldIngress (s : State) : Option State := match s.ingress with
  | [] => none
  | x :: l => (admitIngress { s with ingress := [] } x).map (fun t => { t with ingress := l })

/-- R394: a host write of 64 bytes. -/
def execHostMemoryWrite (pa : Nat) (data : BitVec 512) (enables : BitVec 64) (s : State) : Out := .next (s.arrive (.hostWrite pa data enables))

/-- R394: a host read of 64 bytes. -/
def execHostMemoryRead (pa : Nat) (s : State) : Out := .next (s.arrive (.hostRead pa))

/-- A Cemen transfer of a type arrives. -/
def State.cemenIn (s : State) (m : CemenMsg) (type : Nat) : State := if m.type = type then s.arrive (.cemen m) else s

/-- R395: a tagged write. -/
def execCemenTaggedWrite (msg : CemenMsg) (s : State) : Out := .next (s.cemenIn msg 1)

/-- R395: a tagged read. -/
def execCemenTaggedRead (msg : CemenMsg) (s : State) : Out := .next (s.cemenIn msg 2)

/-- R395: a read response. -/
def execCemenReadResponse (msg : CemenMsg) (s : State) : Out := .next (s.cemenIn msg 3)

/-- R395: an atomic. -/
def execCemenAtomic (msg : CemenMsg) (s : State) : Out := .next (s.cemenIn msg 4)

/-- R393, R395: a host message that a peer sends to this device; what takes it from the mailbox the spec does not say (log 42).
DESIGN CHOICE (safe, log 42). -/
def execCemenHostMessage (msg : CemenMsg) (s : State) : Out := .next (s.cemenIn msg 5)

/-- R395: a collective fragment. -/
def execCemenCollectiveFragment (msg : CemenMsg) (s : State) : Out := .next (s.cemenIn msg 6)

/-! ### Host writes of the register block (R405) -/

/-- The journal's own registers are no input of the run that it records, and replay needs them (R403, R404): JRNCTL to JRNRANGE7.
DEDUCED (unsafe, log 59). -/
def journalRegister (offset : Nat) : Bool := decide (0x60010 ≤ offset) && decide (offset < 0x60080)

/-- A host write of a register of the block: it arrives at the ports as any CXL transfer does. -/
def State.hostRegister (s : State) (offset : Nat) (value : Word) : State :=
  if journalRegister offset then registerWrite s offset value else s.arrive (.register offset value)

/-- R405: a host write of a register of the block. -/
def execPackageRegisterWrite (offset : Nat) (value : Word) (s : State) : Out := .next (s.hostRegister offset value)

/-- R358: a write of FQHEAD of a die. -/
def execFqheadWrite (die : Nat) (value : Word) (s : State) : Out :=
  .next (if 3 < die then s else s.hostRegister (0x10008 + 0x100 * die) value)

/-- R358: a write of FQBASE of a die. -/
def execFqbaseWrite (die : Nat) (value : Word) (s : State) : Out :=
  .next (if 3 < die then s else s.hostRegister (0x10000 + 0x100 * die) value)

/-- R358: a write of FQSTAT of a die. -/
def execFqstatWrite (die : Nat) (value : Word) (s : State) : Out :=
  .next (if 3 < die then s else s.hostRegister (0x10018 + 0x100 * die) value)

/-- R372: a host write of RGCNT of a region. -/
def execRgcntWrite (region : Nat) (value : Word) (s : State) : Out :=
  .next (if 1023 < region then s else s.hostRegister (0x30008 + 16 * region) value)

/-- R372: a host write of RGCTL of a region. -/
def execRgctlWrite (region : Nat) (value : Word) (s : State) : Out :=
  .next (if 1023 < region then s else s.hostRegister (0x30000 + 16 * region) value)

/-- R364: a host write of LLCPARTn. -/
def execLlcpartWrite (n : Nat) (value : Word) (s : State) : Out :=
  .next (if 15 < n then s else s.hostRegister (0x20000 + 8 * n) value)

/-- R342, R405: the host clears a slice's counters. -/
def execBaristaCountersClear (bar : Nat) (s : State) : Out :=
  .next (if 191 < bar then s else s.hostRegister (0x40000 + 0x1000 * (bar / 48) + 32 * (bar % 48)) 0)

/-- R407: a write of FWCTL. -/
def execFwCommit (value : Word) (s : State) : Out := .next (s.hostRegister 0x1110 value)

/-- R409: a write of MGMTST. -/
def execMgmtstWrite (value : Word) (s : State) : Out := .next (s.hostRegister 0x10 value)

/-- R409: a write of a half of SKEWMAP. -/
def execSkewmapWrite (half : Bool) (value : Word) (s : State) : Out := .next (s.hostRegister (if half then 0x20208 else 0x20200) value)

/-- R404: a write of JRNHEAD. -/
def execJrnheadWrite (value : Word) (s : State) : Out := .next (s.hostRegister 0x60028 value)

/-- R404: a write of JRNSIZE. -/
def execJrnsizeWrite (value : Word) (s : State) : Out := .next (s.hostRegister 0x60020 value)

/-- R403: a write of JRNCTL. -/
def execJrnctlWrite (value : Word) (s : State) : Out := .next (s.hostRegister 0x60010 value)

end Sys2Proof.Machine
end

