-- ==== Sys2Proof/Machine/Replay.lean ====
section
/-! DEFINITION. Replay (R403, R404): the records of the journal are applied at their cycles; a record that cannot occur sets DIV and
halts every strand. -/

namespace Sys2Proof.Machine

/-- The record at JRNHEAD: its cycle and its parts.
DESIGN CHOICE (unsafe, log 70). -/
def journalHead (s : State) : Nat × JrnRecord :=
  let at_ (k : Nat) : Nat := jrnStart s + (s.mgmt.jrnhead.toNat + k) % jrnRing s
  let h := s.physBytes (at_ 0) 64
  let n := cut h 72 8
  (cut h 0 64,
    { kind := cut h 64 8, src := cut h 80 16, fields := BitVec.ofNat 384 (cut h 128 384)
      blocks := (List.range n).map (fun i => BitVec.ofNat 1024 (s.physBytes (at_ (64 + 128 * i)) 128)) })

/-- Replay has a record to apply. -/
def replayLeft (s : State) : Bool := s.mgmt.replaying && !bit s.mgmt.jrnctl 2 && s.mgmt.jrnhead != s.mgmt.jrntail

/-- A record takes effect now: its cycle has come, or it is a pad. -/
def replayDue (s : State) : Bool :=
  replayLeft s && (let r := journalHead s
    r.2.kind == 0 || decide (r.1 ≤ s.cycle.toNat))

/-- Replay has diverged: DIV is set, and every strand halts.
DEDUCED (unsafe, log 59). -/
def diverge (s : State) : State :=
  let s : State := { s with mgmt := { s.mgmt with jrnctl := s.mgmt.jrnctl ||| 4 } }
  s.mapStrands (fun _ x => if x.phase = .free then x else { x with phase := .halted, wait := none })

/-- The transfer that a record of kind 0x01 holds; a TYPE of 0 marks a CXL request, its opcode in byte 1 (log 70).
DESIGN CHOICE (unsafe, log 70). -/
def recordedIngress (r : JrnRecord) : Ingress :=
  if r.fields.toNat % 65536 = 0x300 then .register (r.word 1) (BitVec.ofNat 64 (r.word 2))
  else if r.fields.toNat % 256 = 0 then
    .hostWrite (r.word 1) ((r.blocks.headD 0).setWidth 512) (BitVec.ofNat 64 (r.word 2))
  else .cemen { port := r.src, header := r.fields.setWidth 256, mask := r.fields.extractLsb' 256 128, blocks := r.blocks }

/-- The response to a read of host memory that a record holds (R403): what the device reads there from its cycle on. -/
def recordedResponse (s : State) (r : JrnRecord) : State :=
  let x : Sector := { bits := r.blocks.headD 0, tag := tagRaw }
  { s with hostMem := (List.range 128).foldl (fun l i => insertNat (r.word 1 + i) (BitVec.ofNat 8 (x.bytes i 1)) l) s.hostMem }

/-- The effect of a recorded uncorrectable error; none where its unit has nothing to strike.
DESIGN CHOICE (unsafe, log 70). -/
def replayError (s : State) (r : JrnRecord) : Option State :=
  match r.word 0 with
  | 1 => match r.word 4 with
    | 0 => some (wordError s r.src (r.word 2) (r.word 3) .slots (r.word 5 == 1))
    | 1 => some (wordError s r.src (r.word 2) (r.word 3) .tag (r.word 5 == 1))
    | _ => some (wordError s r.src (r.word 2) (r.word 3) .micro (r.word 5 == 1))
  | 2 => if (s.strandAt (r.word 2)).phase = .free then none else some (stateError s (r.word 2))
  | 3 => some (stripError s r.src (r.word 2))
  | 4 => some (queueError s r.src (r.word 2) (r.word 3))
  | 5 => some (scratchError s (r.word 1))
  | 6 => some (slotError s (r.word 4) (r.word 1 / 128) (r.word 2) (r.word 3 == 1))
  | 7 => some (baristaError s r.src)
  | 8 => some (granuleError s (r.word 1 / 128))
  | 9 => if (grinderHolds s (r.word 2)).isSome then some (recodingError s (r.word 2)) else none
  | _ => none

/-- The effect of a record; none where it cannot occur.
DEDUCED (unsafe, log 59). -/
def replayEffect (s : State) (r : JrnRecord) : Option State :=
  match r.kind with
  | 0 => some s
  | 1 => if r.fields.toNat % 65536 = 0x200 then some (recordedResponse s r) else ingressEffect s (recordedIngress r)
  | 2 => match (s.barista r.src).invocation with
    | some v => if v.event.asid.toNat = r.word 0 ∧ v.start.toNat = r.word 1 then some (s.abortHandler r.src 0xFF) else none
    | none => none
  | 3 => match (s.core r.src).copies.find? (fun q => q.gid.getD 0xFFFF == r.word 0 && q.issued == r.word 1 && !q.missed) with
    | some q => some (missRequest s r.src q (BitVec.ofNat 64 (r.word 2)))
    | none => none
  | 4 => replayError s r
  | 5 =>
    let g := r.word 3 * 32 + r.word 4
    match ticketsLeft (s.strandAt g) with
    | pa :: _ => if pa = r.word 1 ∧ s.touchstone.toNat = r.word 0 then some (giveTicket s g) else none
    | [] => none
  | _ => none

/-- The bytes of a record in the ring; a pad reaches its end. -/
def replayLength (s : State) (r : JrnRecord) : Nat :=
  if r.kind = 0 then jrnRing s - s.mgmt.jrnhead.toNat % jrnRing s else recordLength r.blocks.length

/-- R403: the record at JRNHEAD is applied at its cycle, and HEAD passes it.
DEDUCED (unsafe, log 59). -/
def execReplayApply (s : State) : Out :=
  .next (
    if !replayDue s then s
    else
      let r := (journalHead s).2
      match replayEffect s r with
      | none => diverge s
      | some t => { t with mgmt := { t.mgmt with jrnhead := t.mgmt.jrnhead + BitVec.ofNat 64 (replayLength s r) } })

end Sys2Proof.Machine
end

