-- ==== Sys2Proof/Machine/Scalar.lean ====
section
/-! DEFINITION. Scalar arithmetic and logic, immediates, constants, compares and predicate logic (R89 to R94): one meaning
for each instruction over the shapes of Machine/Ops.lean. -/

namespace Sys2Proof.Machine


/-! ### The operations of R90 -/

/-- Bits [127:64] of the signed product. -/
def mulHigh (x y : Word) : Word := (BitVec.ofInt 128 (x.toInt * y.toInt)).extractLsb' 64 64
/-- Bits [127:64] of the unsigned product. -/
def mulHighU (x y : Word) : Word := (BitVec.ofNat 128 (x.toNat * y.toNat)).extractLsb' 64 64
/-- X / Y truncated toward zero; Y = 0 gives -1; the one overflow gives -2^63. -/
def divS (x y : Word) : Word := if y = 0 then BitVec.allOnes 64 else x.sdiv y
/-- x / y truncated; y = 0 gives 2^64 - 1. -/
def divU (x y : Word) : Word := if y = 0 then BitVec.allOnes 64 else x / y
/-- The remainder with the sign of X; Y = 0 gives X. -/
def remS (x y : Word) : Word := if y = 0 then x else x.srem y
/-- x mod y; y = 0 gives x. -/
def remU (x y : Word) : Word := if y = 0 then x else x % y
/-- Shifts by y[5:0]. -/
def shl (x y : Word) : Word := x <<< (y.toNat % 64)
def shrl (x y : Word) : Word := x >>> (y.toNat % 64)
def shra (x y : Word) : Word := x.sshiftRight (y.toNat % 64)
def minS (x y : Word) : Word := if y.slt x then y else x
def maxS (x y : Word) : Word := if x.slt y then y else x
def minU (x y : Word) : Word := if y < x then y else x
def maxU (x y : Word) : Word := if x < y then y else x
/-- The number of leading zero bits; 64 for 0. -/
def leadingZeros (x : Word) : Word := if x = 0 then 64 else BitVec.ofNat 64 (63 - x.toNat.log2)
/-- The number of one bits. -/
def popCount (x : Word) : Word := BitVec.ofNat 64 ((List.range 64).filter (fun i => x.getLsbD i)).length
/-- imm13 sign-extended (R91). -/
def imm13 (i : BitVec 13) : Word := i.signExtend 64
/-- imm19 sign-extended (R92). -/
def imm19 (i : BitVec 19) : Word := i.signExtend 64

/-- R90: add. -/
def execAdd (d a b : SReg) (s : State) : Out := .next (s.scalar 1 d (s.rdS a + s.rdS b))

/-- R90: sub. -/
def execSub (d a b : SReg) (s : State) : Out := .next (s.scalar 1 d (s.rdS a - s.rdS b))

/-- R90: mul. -/
def execMul (d a b : SReg) (s : State) : Out := .next (s.scalar 3 d (s.rdS a * s.rdS b))

/-- R90: mulh. -/
def execMulh (d a b : SReg) (s : State) : Out := .next (s.scalar 3 d (mulHigh (s.rdS a) (s.rdS b)))

/-- R90: mulhu. -/
def execMulhu (d a b : SReg) (s : State) : Out := .next (s.scalar 3 d (mulHighU (s.rdS a) (s.rdS b)))

/-- R90: div. -/
def execDiv (d a b : SReg) (s : State) : Out := .next (s.scalar 20 d (divS (s.rdS a) (s.rdS b)))

/-- R90: divu. -/
def execDivu (d a b : SReg) (s : State) : Out := .next (s.scalar 20 d (divU (s.rdS a) (s.rdS b)))

/-- R90: rem. -/
def execRem (d a b : SReg) (s : State) : Out := .next (s.scalar 20 d (remS (s.rdS a) (s.rdS b)))

/-- R90: remu. -/
def execRemu (d a b : SReg) (s : State) : Out := .next (s.scalar 20 d (remU (s.rdS a) (s.rdS b)))

/-- R90: and. -/
def execAnd (d a b : SReg) (s : State) : Out := .next (s.scalar 1 d (s.rdS a &&& s.rdS b))

/-- R90: or. -/
def execOr (d a b : SReg) (s : State) : Out := .next (s.scalar 1 d (s.rdS a ||| s.rdS b))

/-- R90: xor. -/
def execXor (d a b : SReg) (s : State) : Out := .next (s.scalar 1 d (s.rdS a ^^^ s.rdS b))

/-- R90: andn. -/
def execAndn (d a b : SReg) (s : State) : Out := .next (s.scalar 1 d (s.rdS a &&& ~~~(s.rdS b)))

/-- R90: sll. -/
def execSll (d a b : SReg) (s : State) : Out := .next (s.scalar 1 d (shl (s.rdS a) (s.rdS b)))

/-- R90: srl. -/
def execSrl (d a b : SReg) (s : State) : Out := .next (s.scalar 1 d (shrl (s.rdS a) (s.rdS b)))

/-- R90: sra. -/
def execSra (d a b : SReg) (s : State) : Out := .next (s.scalar 1 d (shra (s.rdS a) (s.rdS b)))

/-- R90: min. -/
def execMin (d a b : SReg) (s : State) : Out := .next (s.scalar 1 d (minS (s.rdS a) (s.rdS b)))

/-- R90: max. -/
def execMax (d a b : SReg) (s : State) : Out := .next (s.scalar 1 d (maxS (s.rdS a) (s.rdS b)))

/-- R90: minu. -/
def execMinu (d a b : SReg) (s : State) : Out := .next (s.scalar 1 d (minU (s.rdS a) (s.rdS b)))

/-- R90: maxu. -/
def execMaxu (d a b : SReg) (s : State) : Out := .next (s.scalar 1 d (maxU (s.rdS a) (s.rdS b)))

/-- R90: clz. -/
def execClz (d a : SReg) (s : State) : Out := .next (s.scalar 1 d (leadingZeros (s.rdS a)))

/-- R90: popc. -/
def execPopc (d a : SReg) (s : State) : Out := .next (s.scalar 1 d (popCount (s.rdS a)))

/-- R90: sextb. -/
def execSextB (d a : SReg) (s : State) : Out := .next (s.scalar 1 d (((s.rdS a).setWidth 8).signExtend 64))

/-- R90: sexth. -/
def execSextH (d a : SReg) (s : State) : Out := .next (s.scalar 1 d (((s.rdS a).setWidth 16).signExtend 64))

/-- R90: sextw. -/
def execSextW (d a : SReg) (s : State) : Out := .next (s.scalar 1 d (((s.rdS a).setWidth 32).signExtend 64))

/-- R90: zextb. -/
def execZextB (d a : SReg) (s : State) : Out := .next (s.scalar 1 d (((s.rdS a).setWidth 8).setWidth 64))

/-- R90: zexth. -/
def execZextH (d a : SReg) (s : State) : Out := .next (s.scalar 1 d (((s.rdS a).setWidth 16).setWidth 64))

/-- R90: zextw. -/
def execZextW (d a : SReg) (s : State) : Out := .next (s.scalar 1 d (((s.rdS a).setWidth 32).setWidth 64))

/-- R91: addi. -/
def execAddi (d a : SReg) (imm : BitVec 13) (s : State) : Out := .next (s.scalar 1 d (s.rdS a + imm13 imm))

/-- R91: andi. -/
def execAndi (d a : SReg) (imm : BitVec 13) (s : State) : Out := .next (s.scalar 1 d (s.rdS a &&& imm13 imm))

/-- R91: ori. -/
def execOri (d a : SReg) (imm : BitVec 13) (s : State) : Out := .next (s.scalar 1 d (s.rdS a ||| imm13 imm))

/-- R91: xori. -/
def execXori (d a : SReg) (imm : BitVec 13) (s : State) : Out := .next (s.scalar 1 d (s.rdS a ^^^ imm13 imm))

/-- R91: slli; an immediate outside 0 to 63 is an illegal instruction (R88). -/
def execSlli (d a : SReg) (imm : BitVec 13) (s : State) : Out :=
  if imm.toNat < 64 then .next (s.scalar 1 d (shl (s.rdS a) (imm13 imm))) else .next (s.stop (illegal s (.slli d a imm)))

/-- R91: srli; an immediate outside 0 to 63 is an illegal instruction (R88). -/
def execSrli (d a : SReg) (imm : BitVec 13) (s : State) : Out :=
  if imm.toNat < 64 then .next (s.scalar 1 d (shrl (s.rdS a) (imm13 imm))) else .next (s.stop (illegal s (.srli d a imm)))

/-- R91: srai; an immediate outside 0 to 63 is an illegal instruction (R88). -/
def execSrai (d a : SReg) (imm : BitVec 13) (s : State) : Out :=
  if imm.toNat < 64 then .next (s.scalar 1 d (shra (s.rdS a) (imm13 imm))) else .next (s.stop (illegal s (.srai d a imm)))

/-! ### Compares and predicates (R93, R94) -/

/-- A one-bit result in every bit of a predicate (R19). -/
def everyBit (b : Bool) : PosBits := if b then BitVec.allOnes 131072 else 0

/-- R93: cmp.eq. -/
def execCmpEq (d : PReg) (a b : SReg) (s : State) : Out := .next (s.predicate 1 d (everyBit (decide ((s.rdS a) = (s.rdS b)))))

/-- R93: cmp.ne. -/
def execCmpNe (d : PReg) (a b : SReg) (s : State) : Out := .next (s.predicate 1 d (everyBit (decide ((s.rdS a) ≠ (s.rdS b)))))

/-- R93: cmp.lt. -/
def execCmpLt (d : PReg) (a b : SReg) (s : State) : Out := .next (s.predicate 1 d (everyBit (decide ((s.rdS a).slt (s.rdS b)))))

/-- R93: cmp.ge. -/
def execCmpGe (d : PReg) (a b : SReg) (s : State) : Out := .next (s.predicate 1 d (everyBit (decide ((s.rdS b).sle (s.rdS a)))))

/-- R93: cmp.ltu. -/
def execCmpLtu (d : PReg) (a b : SReg) (s : State) : Out := .next (s.predicate 1 d (everyBit (decide ((s.rdS a) < (s.rdS b)))))

/-- R93: cmp.geu. -/
def execCmpGeu (d : PReg) (a b : SReg) (s : State) : Out := .next (s.predicate 1 d (everyBit (decide ((s.rdS b) ≤ (s.rdS a)))))

/-- R93: cmpi.eq. -/
def execCmpiEq (d : PReg) (a : SReg) (imm : BitVec 13) (s : State) : Out := .next (s.predicate 1 d (everyBit (decide ((s.rdS a) = (imm13 imm)))))

/-- R93: cmpi.ne. -/
def execCmpiNe (d : PReg) (a : SReg) (imm : BitVec 13) (s : State) : Out := .next (s.predicate 1 d (everyBit (decide ((s.rdS a) ≠ (imm13 imm)))))

/-- R93: cmpi.lt. -/
def execCmpiLt (d : PReg) (a : SReg) (imm : BitVec 13) (s : State) : Out := .next (s.predicate 1 d (everyBit (decide ((s.rdS a).slt (imm13 imm)))))

/-- R93: cmpi.ge. -/
def execCmpiGe (d : PReg) (a : SReg) (imm : BitVec 13) (s : State) : Out := .next (s.predicate 1 d (everyBit (decide ((imm13 imm).sle (s.rdS a)))))

/-- R94: pand. -/
def execPand (d a b : PReg) (s : State) : Out := .next (s.predicate 1 d (s.rdP a &&& s.rdP b))

/-- R94: por. -/
def execPor (d a b : PReg) (s : State) : Out := .next (s.predicate 1 d (s.rdP a ||| s.rdP b))

/-- R94: pxor. -/
def execPxor (d a b : PReg) (s : State) : Out := .next (s.predicate 1 d (s.rdP a ^^^ s.rdP b))

/-- R94: pandn. -/
def execPandn (d a b : PReg) (s : State) : Out := .next (s.predicate 1 d (s.rdP a &&& ~~~(s.rdP b)))

/-- R94: pnot. -/
def execPnot (d a : PReg) (s : State) : Out := .next (s.predicate 1 d (~~~(s.rdP a)))

/-- R94: pmov. -/
def execPmov (d a : PReg) (s : State) : Out := .next (s.predicate 1 d (s.rdP a))

/-! ### Constants (R92) -/

/-- R92: movi. -/
def execMovi (d : SReg) (imm : BitVec 19) (s : State) : Out := .next (s.scalar 1 d (imm19 imm))

/-- R92: movhi keeps bits [18:0]. -/
def execMovhi (d : SReg) (imm : BitVec 19) (s : State) : Out := .next (s.scalar 1 d ((imm19 imm <<< 19) ||| ((s.rdS d).setWidth 19).setWidth 64))

/-- R92: adr. -/
def execAdr (d : SReg) (imm : BitVec 19) (s : State) : Out := .next (s.scalar 1 d (s.pc + imm19 imm * 4))

end Sys2Proof.Machine
end

