-- ==== Sys2Proof/Machine/Transform.lean ====
section
/-! DEFINITION. The transform unit: streams of LEB128 and packed elements in strip memory, decoded into registers and encoded from
them (R270 to R274). -/

namespace Sys2Proof.Machine

/-- The window offset of the element that begins at stream byte `p` (R271). -/
def Handle.offsetOf (w : Handle) (p : Nat) : Nat := if w.wrap && w.len != 0 then p % w.len.toNat else p

/-- The stream-format fault (R273), with the window offset of the element. -/
def streamFault (s : State) (h : HReg) (p : Nat) : Stop := trapOf 0x49 (BitVec.ofNat 64 (s.strand.h[h.toNat].offsetOf p))

/-- The most bytes an element of a varint form may use (R270: E). -/
def varintBytes (f : Fmt) : Nat := (Fmt.width 64 f + 6) / 7

/-- The formats of the varint decoders, of the varint encoders and of the packed forms (R270). -/
def varintTarget (f : Fmt) : Bool := f == .uint8 || f == .int8 || f == .int16 || f == .int32 || f == .i48
def varintSource (f : Fmt) : Bool := Fmt.isInt f && !Fmt.isWide f
def packable (f : Fmt) : Bool := !(Fmt.isMicro f || Fmt.isWide f)

/-- The strip offset of byte `b` of a window (R271); none past the end of a window that does not wrap. -/
def Handle.byteAt (w : Handle) (b : Nat) : Option Nat :=
  if b < w.len.toNat then some (w.base.toNat + b)
  else if w.wrap then some (w.base.toNat + b % w.len.toNat) else none

/-- A stream byte of the element that begins at `start`, as a decoder reads it, whatever its sector's class (R147, R268, R271). -/
def streamByte (s : State) (h : HReg) (start b : Nat) : Except Stop Nat :=
  match s.strand.h[h.toNat].byteAt b with
  | none => .error (handleFault h start)
  | some off =>
    let x := s.stripRead off
    match stripHold s off 1 false with
    | some e => .error e
    | none => .ok (if tagVcls x.tag = clsUndef then 0 else x.bytes (off % 128) 1)

/-- A byte of the stream bytes [b, b + n) lies in a POISON sector. -/
def streamPoison (s : State) (h : HReg) (b n : Nat) : Bool :=
  (List.range n).any (fun i => match s.strand.h[h.toNat].byteAt (b + i) with
    | some off => tagVcls (s.stripRead off).tag == clsPoison
    | none => false)

/-- The groups of a varint that starts at byte `b`: its value, none where every byte that it may use has bit 7 set (R273), and its length.
-/
def readVarint (s : State) (h : HReg) (start : Nat) : Nat → Nat → Except Stop (Option Nat × Nat)
  | 0, _ => .ok (none, 0)
  | fuel + 1, b => match streamByte s h start b with
    | .error e => .error e
    | .ok v =>
      if v < 128 then .ok (some v, 1)
      else match readVarint s h start fuel (b + 1) with
        | .error e => .error e
        | .ok r => .ok (r.1.map (fun t => v % 128 + 128 * t), r.2 + 1)

/-- The bytes [b, b + n) of an element that begins at `start`, as a number. -/
def readStream (s : State) (h : HReg) (start : Nat) : Nat → Nat → Except Stop Nat
  | 0, _ => .ok 0
  | n + 1, b => match streamByte s h start b with
    | .error e => .error e
    | .ok v => match readStream s h start n (b + 1) with
      | .error e => .error e
      | .ok r => .ok (v + 256 * r)

/-- The integer whose zigzag code is `z` (R270). -/
def unzigzag (z : Nat) : Int := if z % 2 = 0 then ((z / 2 : Nat) : Int) else -(((z + 1) / 2 : Nat) : Int)
/-- The zigzag code of an integer. -/
def zigzag (x : Int) : Nat := if 0 ≤ x then 2 * x.toNat else 2 * (-x).toNat - 1

/-- A position of a stream: a byte from the start of the window, and a bit phase (R272). -/
abbrev StreamPos := Nat × Nat

/-- What a decoder reads at a position, and the position after it; in one element the window end ranks above poison, and poison above the
stream format (R273). -/
def decodeAt (s : State) (h : HReg) (f : Fmt) (varint signed : Bool) (p : StreamPos) : Except Stop (Elem × StreamPos) :=
  if varint then match readVarint s h p.1 (varintBytes f) p.1 with
    | .error e => .error e
    | .ok r => if streamPoison s h p.1 r.2 then .error poisonTrap else match r.1 with
      | none => .error (streamFault s h p.1)
      | some v => .ok (.val (Val.ofInt (if signed then unzigzag v else (v : Int))) 0, (p.1 + r.2, 0))
  else
    let w := Fmt.width s.strand.wmax f
    let n := (p.2 + w + 7) / 8
    match readStream s h p.1 n p.1 with
    | .error e => .error e
    | .ok v => if streamPoison s h p.1 n then .error poisonTrap else .ok (.bits (BitVec.ofNat 64 (v / 2 ^ p.2 % 2 ^ w)), (p.1 + (p.2 + w) / 8, (p.2 + w) % 8))

/-- The elements of a stream from position `i`, up to the first that stops: what was read, where it stopped and why. -/
def decodeRun (s : State) (h : HReg) (f : Fmt) (varint signed : Bool) :
    Nat → Nat → StreamPos → List Elem × StreamPos × Option (Nat × Stop)
  | 0, _, p => ([], p, none)
  | n + 1, i, p => match decodeAt s h f varint signed p with
    | .error e => ([], p, some (i, e))
    | .ok r =>
      let t := decodeRun s h f varint signed n (i + 1) r.2
      (r.1 :: t.1, t.2)

/-- POS after a `vxf` (R272): the resume index where it stopped, otherwise past the last byte it touched, modulo LEN. -/
def endPos (w : Handle) (varint : Bool) (p : StreamPos) (stop : Option (Nat × Stop)) : BitVec 32 :=
  match stop with
  | some _ => BitVec.ofNat 32 p.1
  | none => BitVec.ofNat 32 ((if !varint && p.2 != 0 then p.1 + 1 else p.1) % w.len.toNat)

/-- The clocks of work of a `vxf` (R274). -/
def vxfWork (x : Strand) (f : Fmt) (varint : Bool) (slot : Nat) : Nat :=
  Nat.max (x.beats slot) (if varint then (x.vl * varintBytes f + 63) / 64 else (x.vl * Fmt.width x.wmax f + 511) / 512)

/-- The checks that every `vxf` shares (R271, R273). The list of R273 has no place for the width trap of R44: it stands between the invalid
handle and the format.
DESIGN CHOICE (unsafe, log 26). -/
def checkVxf (s : State) (h : HReg) (f : Fmt) (ok : Bool) : Except Stop Unit := do
  let w := s.strand.h[h.toNat]
  need w.valid (handleFault h 0)
  need (!s.strand.tooWide f) widthTrap
  need (ok && w.grid == 3) formatTrap

/-- The bit phase at sys.vstart (R272). -/
def startPhase (x : Strand) (f : Fmt) (varint : Bool) : Nat :=
  if varint then 0 else x.sys.vstart.toNat * Fmt.width x.wmax f % 8

/-- POS lands: with the commit where the instruction completes (R274), at once where it stops.
DEDUCED (unsafe, log 26). -/
def State.putPos (s : State) (latency : Nat) (h : HReg) (v : BitVec 32) (stop : Option (Nat × Stop)) : State :=
  match stop with
  | none => s.put latency [.pos h v] 0 true
  | some _ => applyDest s (.pos h v)

/-- The register and POS after the elements that a decoder read. -/
def finishDecode (s : State) (d : VIdx) (h : HReg) (f : Fmt) (varint : Bool) (els : List Elem) (p : StreamPos)
    (stop : Option (Nat × Stop)) : State :=
  let x := s.strand
  let a := els.toArray
  let vs := x.sys.vstart.toNat
  let q := s.engine .xfm 8 (vxfWork x f varint (slotWidth x.wmax f)) EngineUse.none
  let t := q.1.putPos q.2 h (endPos x.h[h.toNat] varint p stop) stop
  if els.isEmpty then t
  else
    let k := vs + els.length
    let old := x.v[d.toNat]
    let r := writeReg x.wmax (x.positions old.fmt) (x.positions f) k old clsValid f 127 false (fun _ => .nearest)
      (fun i => if vs ≤ i ∧ i < k then a.getD (i - vs) .keep else .keep)
    if stop.isSome then t.landV d r.1 r.2 else t.putV q.2 d r.1 r.2

/-- The strip offsets of stream bytes [b, b + n). -/
def Handle.offsets (w : Handle) (b n : Nat) : List Nat := (List.range n).filterMap (fun i => w.byteAt (b + i))

/-- A decoder (R270 to R272). -/
def State.vxfDecode (s : State) (i : Instr) (d : VIdx) (h : HReg) (f : Fmt) (varint signed : Bool) : State :=
  s.vecGate i true (fun s =>
    match checkVxf s h f (if varint then varintTarget f else packable f) with
    | .error e => s.stop (vecStop e)
    | .ok _ =>
      let x := s.strand
      let w := x.h[h.toNat]
      let vs := x.sys.vstart.toNat
      let r := decodeRun s h f varint signed (x.vl - vs) vs (w.pos.toNat, startPhase x f varint)
      let t := s.stripReach (w.offsets w.pos.toNat (r.2.1.1 + 1 - w.pos.toNat))
      match r.2.2 with
      | some (k, e) =>
        if e.waits then s.stop e
        else (finishDecode t d h f varint r.1 r.2.1 (some (k, e))).memEnd (some (k, e))
      | none => (finishDecode t d h f varint r.1 r.2.1 none).memEnd none)

/-- R270: vxf.uvar. -/
def execVxfUvar (d : VIdx) (a : HReg) (fmt : Fmt) (s : State) : Out :=
  .next (s.vxfDecode (.vxfUvar d a fmt) d a fmt true false)

/-- R270: vxf.svar. -/
def execVxfSvar (d : VIdx) (a : HReg) (fmt : Fmt) (s : State) : Out :=
  .next (s.vxfDecode (.vxfSvar d a fmt) d a fmt true true)

/-- R270: vxf.unpk. -/
def execVxfUnpk (d : VIdx) (a : HReg) (fmt : Fmt) (s : State) : Out :=
  .next (s.vxfDecode (.vxfUnpk d a fmt) d a fmt false false)

/-! ### Encoders -/

/-- The bytes of a varint; `fuel` bounds them. -/
def varintOf : Nat → Nat → List Nat
  | 0, _ => []
  | fuel + 1, v => if v < 128 then [v] else (128 + v % 128) :: varintOf fuel (v / 128)

/-- An element as an encoder writes it: its bytes, or for the packed form its bits; and the flags of reading it. -/
def encodedElem (r : VReg) (f : Fmt) (varint signed : Bool) (i : Nat) : Nat × Sticky :=
  let b := r.slot i
  if !varint then (b.toNat % 2 ^ Fmt.width 64 f, 0)
  else if signed then
    (match elementValue f b with
      | .fin neg n _ => zigzag (if neg then -(n : Int) else n)
      | _ => 0, readFlags f b)
  else (b.toNat % 2 ^ Fmt.width 64 f, 0)

/-- The pieces of a stream that an encoder writes: a window byte, the bits it sets there, and how many bits from which on. -/
structure Piece where
  byte : Nat
  value : Nat
  lo : Nat
  width : Nat

/-- The pieces of an element at a position, and the position after it. -/
def piecesAt (w : Nat) (varint : Bool) (v : Nat) (p : StreamPos) : List Piece × StreamPos :=
  if varint then
    let l := varintOf 10 v
    ((l.zip (List.range l.length)).map (fun q => { byte := p.1 + q.2, value := q.1, lo := 0, width := 8 }), (p.1 + l.length, 0))
  else
    let all := v * 2 ^ p.2
    ((List.range ((p.2 + w + 7) / 8)).map (fun k =>
      let lo := if k = 0 then p.2 else 0
      { byte := p.1 + k, value := all / 2 ^ (8 * k) % 256 / 2 ^ lo, lo := lo, width := 8 - lo }),
      (p.1 + (p.2 + w) / 8, (p.2 + w) % 8))

/-- The check of the bytes of an element that begins at `start` (R147, R268, R271). -/
def checkPieces (s : State) (h : HReg) (start : Nat) : List Piece → Except Stop Unit
  | [] => .ok ()
  | p :: l => match s.strand.h[h.toNat].byteAt p.byte with
    | none => .error (handleFault h start)
    | some off => match stripHold s off 1 true with
      | some e => .error e
      | none => checkPieces s h start l

/-- The elements that an encoder writes, up to the first that stops. -/
def encodeRun (s : State) (h : HReg) (r : VReg) (f : Fmt) (varint signed : Bool) :
    Nat → Nat → StreamPos → List Piece × Sticky × StreamPos × Option (Nat × Stop)
  | 0, _, p => ([], 0, p, none)
  | n + 1, i, p =>
    let v := encodedElem r f varint signed i
    let ps := piecesAt (Fmt.width s.strand.wmax f) varint v.1 p
    match checkPieces s h p.1 ps.1 with
    | .error e => ([], 0, p, some (i, e))
    | .ok _ =>
      if r.marked i then ([], 0, p, some (i, poisonTrap))
      else
        let t := encodeRun s h r f varint signed n (i + 1) ps.2
        (ps.1 ++ t.1, v.2 ||| t.2.1, t.2.2)

/-- The bits of pieces on one byte, the rest of it as `old`; the bits above the last element are zero (R271). -/
def pieceByte (old : Nat) (ps : List Piece) : Nat :=
  ps.foldl (fun b p => b % 2 ^ p.lo + p.value % 2 ^ p.width * 2 ^ p.lo) old

/-- Sectors of a list of offsets, each once. -/
def sectorsOf (offs : List Nat) : List Nat :=
  offs.foldl (fun l o => if l.contains (o / 128 * 128) then l else l ++ [o / 128 * 128]) []

/-- Encoded bytes reach the strand's allocation (R152, R271): their sectors take the tag 0x1FC0, a POISON class staying where the
sector is written in part. -/
def writePieces (s : State) (h : HReg) (ps : List Piece) : State :=
  let at_ : List (Nat × Piece) := ps.filterMap (fun p => (s.strand.h[h.toNat].byteAt p.byte).map (fun o => (o, p)))
  (sectorsOf (at_.map (·.1))).foldl (fun s sec =>
    let old := s.stripRead sec
    let was (i : Nat) : Nat := if tagVcls old.tag = clsUndef then 0 else old.bytes i 1
    let mine := at_.filter (fun q => q.1 / 128 * 128 == sec)
    let new := (List.range 128).map (fun i =>
      let l := (mine.filter (fun q => q.1 % 128 == i)).map (·.2)
      (pieceByte (was i) l, !l.isEmpty))
    let bits := (new.zip (List.range 128)).foldl (fun b q => b + q.1.1 % 256 * 2 ^ (8 * q.2)) 0
    let full := new.all (·.2)
    s.stripWrite sec
      { bits := BitVec.ofNat 1024 bits
        tag := if tagVcls old.tag = clsPoison && !full then mkTag clsPoison 127 0 else tagRaw }) s

/-- The strip ranges of encoded bytes, a window that wraps giving two (R268, R274). -/
def pieceRanges (h : HReg) (w : Handle) (ps : List Piece) : List Dest :=
  let offs := ps.filterMap (fun p => w.byteAt p.byte)
  match offs with
  | [] => []
  | o :: l =>
    let up := (o :: l).filter (fun x => decide (o ≤ x))
    let down := (o :: l).filter (fun x => decide (x < o))
    let hi (m : List Nat) : Nat := m.foldl (fun n x => Nat.max n (x + 1)) 0
    .range h.toNat o (hi up - o) :: (if down.isEmpty then [] else [.range h.toNat w.base.toNat (hi down - w.base.toNat)])

/-- An encoder (R270 to R272). -/
def State.vxfEncode (s : State) (i : Instr) (d : VIdx) (h : HReg) (varint signed : Bool) : State :=
  s.vecGate i true (fun s =>
    let x := s.strand
    let r := s.vreg d
    let f := r.fmt
    let vs := x.sys.vstart.toNat
    let checks : Except Stop Unit := do
      checkVxf s h f (if varint then varintSource f else packable f)
      need (!(r.isUndef && decide (vs < x.vl))) undefinedTrap
      need (ownsStrip s x) escape
    match checks with
    | .error e => s.stop (vecStop e)
    | .ok _ =>
      let w := x.h[h.toNat]
      let t := encodeRun s h r f varint signed (x.vl - vs) vs (w.pos.toNat, startPhase x f varint)
      let stop := t.2.2.2
      let waits := match stop with
        | some (_, e) => e.waits
        | none => false
      match waits, stop with
      | true, some (_, e) => s.stop e
      | _, _ =>
        let q := (writePieces s h t.1).engine .xfm 8 (vxfWork x f varint (slotWidth x.wmax f)) EngineUse.none
        let p := q.1.putPos q.2 h (endPos w varint t.2.2.1 stop) stop
        let u := match stop with
          | none => p.put q.2 (if s.exposed then pieceRanges h w t.1 else []) t.2.1 true
          | some _ => applyCommit p { due := 0, dests := [], flags := t.2.1, vec := true }
        u.memEnd stop)

/-- R270: vxf.euvar. -/
def execVxfEuvar (d : VIdx) (a : HReg) (s : State) : Out := .next (s.vxfEncode (.vxfEuvar d a) d a true false)

/-- R270: vxf.esvar. -/
def execVxfEsvar (d : VIdx) (a : HReg) (s : State) : Out := .next (s.vxfEncode (.vxfEsvar d a) d a true true)

/-- R270: vxf.pack. -/
def execVxfPack (d : VIdx) (a : HReg) (s : State) : Out := .next (s.vxfEncode (.vxfPack d a) d a false false)

end Sys2Proof.Machine
end

