-- ==== Sys2Proof/Machine/VectorRed.lean ====
section
/-! DEFINITION. Reductions and the dot product (R64, R143 to R145). -/

namespace Sys2Proof.Machine

/-! ### The tree (R64) -/

/-- One level of the tree: neighbours 2j and 2j + 1 combine into node j under the index of R53; an unpaired last node passes
up unchanged. -/
def treeLevel {α : Type} (f : Nat → α → α → α × Sticky) (level j : Nat) : List α → List α × Sticky
  | a :: b :: l =>
    let x := f (j * 2 ^ level + level * 2 ^ 40) a b
    let r := treeLevel f level (j + 1) l
    (x.1 :: r.1, x.2 ||| r.2)
  | l => (l, 0)

/-- The tree from the nodes of a level on: the root, its level, and the flags. `fuel` bounds the levels. -/
def reduceTree {α : Type} (f : Nat → α → α → α × Sticky) (identity : α) : Nat → Nat → List α → α × Nat × Sticky
  | _, level, [] => (identity, level, 0)
  | _, level, [a] => (a, level, 0)
  | 0, level, a :: _ => (a, level, 0)
  | fuel + 1, level, l =>
    let r := treeLevel f (level + 1) 0 l
    let t := reduceTree f identity fuel (level + 1) r.1
    (t.1, t.2.1, r.2 ||| t.2.2)

/-- ceil(log2 (max n 1)): the extra term of R126 (R144). -/
def treeDepth (n : Nat) : Nat := if n ≤ 1 then 0 else (n - 1).log2 + 1

/-! ### The reduction formats (R144) -/

/-- The reduction format R. -/
inductive RedFmt where
  | fp32 | a48 | exact
deriving DecidableEq, Repr

/-- The path of a format (R144, R145); none for RAW. -/
def redFormat (f : Fmt) : Option RedFmt :=
  if f = .raw then none else if f = .a48 then some .a48 else if Fmt.isFloat f then some .fp32 else some .exact

/-- A node rounded to R under RM with an index; on the exact path it stays as it is. -/
def RedFmt.round (r : RedFmt) (x : Strand) (idx : Nat) (v : Val) : Val × Sticky :=
  match r with
  | .fp32 => roundTo .fp32 127 127 (x.rounding idx) false v
  | .a48 => roundTo .a48 127 127 (x.rounding idx) false v
  | .exact => (v, 0)

/-- The start value in the layout of R. -/
def RedFmt.start (r : RedFmt) (w : Word) : Val :=
  match r with
  | .fp32 => decodeEl .fp32 127 127 (cutBits 32 w)
  | .a48 => decodeEl .a48 127 127 (cutBits 48 w)
  | .exact => Val.ofInt w.toInt

/-- What is written to `s_d`: on the exact path a signed 64-bit integer, rounded under RM and saturated. -/
def RedFmt.write (r : RedFmt) (x : Strand) (idx : Nat) (sat : Bool) (v : Val) : Word × Sticky :=
  match r with
  | .fp32 => encodeEl .fp32 127 127 (x.rounding idx) sat v
  | .a48 => encodeEl .a48 127 127 (x.rounding idx) sat v
  | .exact => encodeInt (-(2 : Int) ^ 63) ((2 : Int) ^ 63 - 1) 64 0 (x.rounding idx) v

/-- The combining operations of R143. -/
inductive RedOp where
  | add | min | max
deriving DecidableEq, Repr

def RedOp.combine (op : RedOp) (down : Bool) (x y : Val) : Val × Sticky :=
  match op with
  | .add => addOp down .fp32 x y
  | .min => minOp .fp32 x y
  | .max => maxOp .fp32 x y

/-- The identity leaf (R144). -/
def RedOp.identity (op : RedOp) (r : RedFmt) : Val :=
  match op with
  | .add => .fin (r != .exact) 0 1
  | .min => .inf false
  | .max => .inf true

/-- The result of a reduction over leaves (R144): tree, rounding of a root that was never rounded, combination with the start
value, and the word that is written.
DEDUCED (unsafe, log 16). -/
def reduceValues (x : Strand) (op : RedOp) (r : RedFmt) (sat : Bool) (leaves : List Val) (start : Option Word) : Word × Sticky :=
  let down := x.rm == 3
  let node (idx : Nat) (a b : Val) : Val × Sticky :=
    let c := op.combine down a b
    let e := r.round x idx c.1
    (e.1, c.2 ||| e.2)
  let t := reduceTree node (op.identity r) 32 0 leaves
  let root := if leaves.length ≤ 1 then r.round x 0 t.1 else (t.1, 0)
  let last : Val × Sticky × Nat := match start with
    | some w =>
      let c := op.combine down root.1 (r.start w)
      (c.1, c.2, (t.2.1 + 1) * 2 ^ 40)
    | none => (root.1, 0, t.2.1 * 2 ^ 40)
  let out : Word × Sticky := match op, r, last.1 with
    | .min, .exact, .inf _ => (0x7FFFFFFFFFFFFFFF, 0)
    | .max, .exact, .inf _ => (0x8000000000000000, 0)
    | _, _, v => r.write x last.2.2 sat v
  (out.1, t.2.2 ||| root.2 ||| last.2.1 ||| out.2)

/-! ### The instructions -/

/-- The end of a reduction: `leaf` gives the leaf of an active position with its flags, `finish` the word from the leaves. A
poison stop writes flags of the elements below it only; sys.vstart at or above VL > 0 changes nothing (R123). -/
def State.reduce {α : Type} (s : State) (d : SReg) (base w : Nat) (marked : Nat → Bool) (identity : α)
    (leaf : Nat → α × Sticky) (finish : List α → Word × Sticky) : State :=
  let x := s.strand
  if 0 < x.vl ∧ x.vl ≤ x.sys.vstart.toNat then s.vecSkip .red base (treeDepth x.vl) (x.beats w)
  else
    let stop := s.firstActive marked
    let k := stop.getD x.vl
    let leaves := (List.range k).map (fun i => if s.active i then leaf i else (identity, 0))
    let fl := leaves.foldl (fun (a : Sticky) l => a ||| l.2) 0
    let q := s.occupy .red base (treeDepth x.vl) (x.beatsTo k w)
    match stop with
    | some _ => (applyCommit q.1 { due := 0, dests := [], flags := fl, vec := true }).vecEnd stop
    | none =>
      let r := finish (leaves.map (·.1))
      (q.1.putS q.2 d r.1 (fl ||| r.2) true).vecEnd none

/-- The shape of `vred.add`, `vred.min` and `vred.max` (R144).
DEDUCED (unsafe, log 16). -/
def State.vred (s : State) (i : Instr) (d : SReg) (a : VIdx) (b : SReg) (op : RedOp) : State :=
  s.vecGate i true (fun s =>
    let ra := s.vreg a
    if s.strand.tooWide ra.fmt then s.stop (vecStop widthTrap)
    else match redFormat ra.fmt with
      | none => s.stop (vecStop formatTrap)
      | some r =>
        if ra.isUndef && s.anyActive then s.stop (vecStop undefinedTrap)
        else s.reduce d 6 (slotWidth s.strand.wmax ra.fmt) ra.marked (op.identity r) (fun i => (ra.val i, s.vflags a i))
          (fun l => reduceValues s.strand op r false l (if b = 0 then none else some (s.rdS b))))

/-- The shape of `vred.and`, `vred.or` and `vred.xor` (R144): element bits, zero-extended. -/
def State.vredBits (s : State) (i : Instr) (d : SReg) (a : VIdx) (b : SReg) (op : Word → Word → Word) (ones : Bool) : State :=
  s.vecGate i true (fun s =>
    let ra := s.vreg a
    let w := Fmt.width s.strand.wmax ra.fmt
    let identity : Word := if ones then BitVec.ofNat 64 (2 ^ w - 1) else 0
    if s.strand.tooWide ra.fmt then s.stop (vecStop widthTrap)
    else if !(ra.fmt == .raw || Fmt.isInt ra.fmt) then s.stop (vecStop formatTrap)
    else if ra.isUndef && s.anyActive then s.stop (vecStop undefinedTrap)
    else s.reduce d 6 (slotWidth s.strand.wmax ra.fmt) ra.marked identity (fun i => (cutBits w (ra.slot i), 0))
      (fun l =>
        let root := l.foldl op identity
        (if b = 0 then root else op root (s.rdS b), 0)))

/-- R144: vred.add.
DEDUCED (unsafe, log 16). -/
def execVredAdd (d : SReg) (a : VIdx) (b : SReg) (s : State) : Out := .next (s.vred (.vredAdd d a b) d a b .add)

/-- R144: vred.min. -/
def execVredMin (d : SReg) (a : VIdx) (b : SReg) (s : State) : Out := .next (s.vred (.vredMin d a b) d a b .min)

/-- R144: vred.max. -/
def execVredMax (d : SReg) (a : VIdx) (b : SReg) (s : State) : Out := .next (s.vred (.vredMax d a b) d a b .max)

/-- R144: vred.and. -/
def execVredAnd (d : SReg) (a : VIdx) (b : SReg) (s : State) : Out :=
  .next (s.vredBits (.vredAnd d a b) d a b (fun x y => x &&& y) true)

/-- R144: vred.or. -/
def execVredOr (d : SReg) (a : VIdx) (b : SReg) (s : State) : Out :=
  .next (s.vredBits (.vredOr d a b) d a b (fun x y => x ||| y) false)

/-- R144: vred.xor. -/
def execVredXor (d : SReg) (a : VIdx) (b : SReg) (s : State) : Out :=
  .next (s.vredBits (.vredXor d a b) d a b (fun x y => x ^^^ y) false)

/-- R145: vdot sums the exact products onto the old `s_d`, on the path of the blend entry.
DEDUCED (unsafe, log 16). -/
def execVdot (d : SReg) (a b : VIdx) (s : State) : Out :=
  .next (s.vecGate (.vdot d a b) true (fun s =>
    let ra := s.vreg a
    let rb := s.vreg b
    let check : Except Stop ((Fmt × Act) × RedFmt) := do
      need (!s.strand.tooWide ra.fmt && !s.strand.tooWide rb.fmt) widthTrap
      let f ← s.lookup ra.fmt rb.fmt
      match redFormat f.1 with
      | none => .error formatTrap
      | some r =>
        need (!((ra.isUndef || rb.isUndef) && s.anyActive)) undefinedTrap
        .ok (f, r)
    match check with
    | .error x => s.stop (vecStop x)
    | .ok (f, r) =>
      let leaf (i : Nat) : Val × Sticky :=
        let x : Val × Sticky := if f.2 = .conv then s.convValue f.1 (convScale f.1 (tagScale ra.tag)) ra.val i else (ra.val i, 0)
        (x.1.mul (rb.val i), x.2 ||| productFlags x.1 (rb.val i) ||| s.vflags a i ||| s.vflags b i)
      let w := if s.wideReg a || s.wideReg b then 64 else s.strand.wmax
      s.reduce d 8 w (fun i => ra.marked i || rb.marked i) (RedOp.identity .add r) leaf
        (fun l =>
          let v := reduceValues s.strand .add r (f.2 == .sat) l (some (s.rdS d))
          (v.1, if f.2 = .sat ∧ s.anyActive then v.2 ||| flagFS else v.2))))

end Sys2Proof.Machine
end

