-- ==== Sys2Proof/Machine/Dispatch.lean ====
section
/-! DEFINITION. One arm for each constructor of Instr: the meaning of the instruction or event. -/

namespace Sys2Proof.Machine

def exec (i : Instr) (s : State) : Host.Outcome State Fault Refusal :=
  match i with
  | .add d a b => Sys2Proof.Machine.execAdd d a b s
  | .sub d a b => Sys2Proof.Machine.execSub d a b s
  | .mul d a b => Sys2Proof.Machine.execMul d a b s
  | .mulh d a b => Sys2Proof.Machine.execMulh d a b s
  | .mulhu d a b => Sys2Proof.Machine.execMulhu d a b s
  | .div d a b => Sys2Proof.Machine.execDiv d a b s
  | .divu d a b => Sys2Proof.Machine.execDivu d a b s
  | .rem d a b => Sys2Proof.Machine.execRem d a b s
  | .remu d a b => Sys2Proof.Machine.execRemu d a b s
  | .and d a b => Sys2Proof.Machine.execAnd d a b s
  | .or d a b => Sys2Proof.Machine.execOr d a b s
  | .xor d a b => Sys2Proof.Machine.execXor d a b s
  | .andn d a b => Sys2Proof.Machine.execAndn d a b s
  | .sll d a b => Sys2Proof.Machine.execSll d a b s
  | .srl d a b => Sys2Proof.Machine.execSrl d a b s
  | .sra d a b => Sys2Proof.Machine.execSra d a b s
  | .min d a b => Sys2Proof.Machine.execMin d a b s
  | .max d a b => Sys2Proof.Machine.execMax d a b s
  | .minu d a b => Sys2Proof.Machine.execMinu d a b s
  | .maxu d a b => Sys2Proof.Machine.execMaxu d a b s
  | .clz d a => Sys2Proof.Machine.execClz d a s
  | .popc d a => Sys2Proof.Machine.execPopc d a s
  | .sextB d a => Sys2Proof.Machine.execSextB d a s
  | .sextH d a => Sys2Proof.Machine.execSextH d a s
  | .sextW d a => Sys2Proof.Machine.execSextW d a s
  | .zextB d a => Sys2Proof.Machine.execZextB d a s
  | .zextH d a => Sys2Proof.Machine.execZextH d a s
  | .zextW d a => Sys2Proof.Machine.execZextW d a s
  | .addi d a imm => Sys2Proof.Machine.execAddi d a imm s
  | .andi d a imm => Sys2Proof.Machine.execAndi d a imm s
  | .ori d a imm => Sys2Proof.Machine.execOri d a imm s
  | .xori d a imm => Sys2Proof.Machine.execXori d a imm s
  | .slli d a imm => Sys2Proof.Machine.execSlli d a imm s
  | .srli d a imm => Sys2Proof.Machine.execSrli d a imm s
  | .srai d a imm => Sys2Proof.Machine.execSrai d a imm s
  | .cmpEq d a b => Sys2Proof.Machine.execCmpEq d a b s
  | .cmpNe d a b => Sys2Proof.Machine.execCmpNe d a b s
  | .cmpLt d a b => Sys2Proof.Machine.execCmpLt d a b s
  | .cmpGe d a b => Sys2Proof.Machine.execCmpGe d a b s
  | .cmpLtu d a b => Sys2Proof.Machine.execCmpLtu d a b s
  | .cmpGeu d a b => Sys2Proof.Machine.execCmpGeu d a b s
  | .cmpiEq d a imm => Sys2Proof.Machine.execCmpiEq d a imm s
  | .cmpiNe d a imm => Sys2Proof.Machine.execCmpiNe d a imm s
  | .cmpiLt d a imm => Sys2Proof.Machine.execCmpiLt d a imm s
  | .cmpiGe d a imm => Sys2Proof.Machine.execCmpiGe d a imm s
  | .pand d a b => Sys2Proof.Machine.execPand d a b s
  | .por d a b => Sys2Proof.Machine.execPor d a b s
  | .pxor d a b => Sys2Proof.Machine.execPxor d a b s
  | .pandn d a b => Sys2Proof.Machine.execPandn d a b s
  | .pnot d a => Sys2Proof.Machine.execPnot d a s
  | .pmov d a => Sys2Proof.Machine.execPmov d a s
  | .movi d imm => Sys2Proof.Machine.execMovi d imm s
  | .movhi d imm => Sys2Proof.Machine.execMovhi d imm s
  | .adr d imm => Sys2Proof.Machine.execAdr d imm s
  | .ldB d base off => Sys2Proof.Machine.execLdB d base off s
  | .ldBU d base off => Sys2Proof.Machine.execLdBU d base off s
  | .ldH d base off => Sys2Proof.Machine.execLdH d base off s
  | .ldHU d base off => Sys2Proof.Machine.execLdHU d base off s
  | .ldW d base off => Sys2Proof.Machine.execLdW d base off s
  | .ldWU d base off => Sys2Proof.Machine.execLdWU d base off s
  | .ldD d base off => Sys2Proof.Machine.execLdD d base off s
  | .stB d base off => Sys2Proof.Machine.execStB d base off s
  | .stH d base off => Sys2Proof.Machine.execStH d base off s
  | .stW d base off => Sys2Proof.Machine.execStW d base off s
  | .stD d base off => Sys2Proof.Machine.execStD d base off s
  | .ldeF32 d base off => Sys2Proof.Machine.execLdeF32 d base off s
  | .ldeI64 d base off => Sys2Proof.Machine.execLdeI64 d base off s
  | .ldeRaw d base off => Sys2Proof.Machine.execLdeRaw d base off s
  | .steF32 d base off => Sys2Proof.Machine.execSteF32 d base off s
  | .steI64 d base off => Sys2Proof.Machine.execSteI64 d base off s
  | .steRaw d base off => Sys2Proof.Machine.execSteRaw d base off s
  | .ldAcq d base scope off => Sys2Proof.Machine.execLdAcq d base scope off s
  | .stRel d base scope off => Sys2Proof.Machine.execStRel d base scope off s
  | .ldBndS d base bound t => Sys2Proof.Machine.execLdBndS d base bound t s
  | .ldBndF d base bound t => Sys2Proof.Machine.execLdBndF d base bound t s
  | .amoAdd d a b scope => Sys2Proof.Machine.execAmoAdd d a b scope s
  | .amoAnd d a b scope => Sys2Proof.Machine.execAmoAnd d a b scope s
  | .amoOr d a b scope => Sys2Proof.Machine.execAmoOr d a b scope s
  | .amoXor d a b scope => Sys2Proof.Machine.execAmoXor d a b scope s
  | .amoMin d a b scope => Sys2Proof.Machine.execAmoMin d a b scope s
  | .amoMax d a b scope => Sys2Proof.Machine.execAmoMax d a b scope s
  | .amoMinu d a b scope => Sys2Proof.Machine.execAmoMinu d a b scope s
  | .amoMaxu d a b scope => Sys2Proof.Machine.execAmoMaxu d a b scope s
  | .amoSwap d a b scope => Sys2Proof.Machine.execAmoSwap d a b scope s
  | .amoCas d a b scope => Sys2Proof.Machine.execAmoCas d a b scope s
  | .bz a off => Sys2Proof.Machine.execBz a off s
  | .bnz a off => Sys2Proof.Machine.execBnz a off s
  | .bp a off => Sys2Proof.Machine.execBp a off s
  | .bnp a off => Sys2Proof.Machine.execBnp a off s
  | .call d imm => Sys2Proof.Machine.execCall d imm s
  | .jmp imm => Sys2Proof.Machine.execJmp imm s
  | .callReg d a imm => Sys2Proof.Machine.execCallReg d a imm s
  | .jmpReg a imm => Sys2Proof.Machine.execJmpReg a imm s
  | .ret a => Sys2Proof.Machine.execRet a s
  | .loopv a len => Sys2Proof.Machine.execLoopv a len s
  | .nop => Sys2Proof.Machine.execNop s
  | .trap code => Sys2Proof.Machine.execTrap code s
  | .brk => Sys2Proof.Machine.execBrk s
  | .eret => Sys2Proof.Machine.execEret s
  | .wfe a b => Sys2Proof.Machine.execWfe a b s
  | .sev scope => Sys2Proof.Machine.execSev scope s
  | .yield => Sys2Proof.Machine.execYield s
  | .modeX => Sys2Proof.Machine.execModeX s
  | .modeI => Sys2Proof.Machine.execModeI s
  | .icinv => Sys2Proof.Machine.execIcinv s
  | .mfs d reg => Sys2Proof.Machine.execMfs d reg s
  | .mts reg src => Sys2Proof.Machine.execMts reg src s
  | .sleepUntil a => Sys2Proof.Machine.execSleepUntil a s
  | .blendw a b => Sys2Proof.Machine.execBlendw a b s
  | .tlbinv a b => Sys2Proof.Machine.execTlbinv a b s
  | .asidSet a => Sys2Proof.Machine.execAsidSet a s
  | .vcfg d nreg wmax mz => Sys2Proof.Machine.execVcfg d nreg wmax mz s
  | .setvl d a => Sys2Proof.Machine.execSetvl d a s
  | .vadd d a b => Sys2Proof.Machine.execVadd d a b s
  | .vsub d a b => Sys2Proof.Machine.execVsub d a b s
  | .vmul d a b => Sys2Proof.Machine.execVmul d a b s
  | .vfma d a b => Sys2Proof.Machine.execVfma d a b s
  | .vfms d a b => Sys2Proof.Machine.execVfms d a b s
  | .vmin d a b => Sys2Proof.Machine.execVmin d a b s
  | .vmax d a b => Sys2Proof.Machine.execVmax d a b s
  | .vabs d a => Sys2Proof.Machine.execVabs d a s
  | .vneg d a => Sys2Proof.Machine.execVneg d a s
  | .vdiv d a b => Sys2Proof.Machine.execVdiv d a b s
  | .vexp d a => Sys2Proof.Machine.execVexp d a s
  | .vlog d a => Sys2Proof.Machine.execVlog d a s
  | .vrcp d a => Sys2Proof.Machine.execVrcp d a s
  | .vrsqrt d a => Sys2Proof.Machine.execVrsqrt d a s
  | .vtanh d a => Sys2Proof.Machine.execVtanh d a s
  | .vsigm d a => Sys2Proof.Machine.execVsigm d a s
  | .vsin d a => Sys2Proof.Machine.execVsin d a s
  | .vcos d a => Sys2Proof.Machine.execVcos d a s
  | .vcmpEq d a b => Sys2Proof.Machine.execVcmpEq d a b s
  | .vcmpNe d a b => Sys2Proof.Machine.execVcmpNe d a b s
  | .vcmpLt d a b => Sys2Proof.Machine.execVcmpLt d a b s
  | .vcmpLe d a b => Sys2Proof.Machine.execVcmpLe d a b s
  | .vcmpGt d a b => Sys2Proof.Machine.execVcmpGt d a b s
  | .vcmpGe d a b => Sys2Proof.Machine.execVcmpGe d a b s
  | .vsel d a b c => Sys2Proof.Machine.execVsel d a b c s
  | .vand d a b => Sys2Proof.Machine.execVand d a b s
  | .vor d a b => Sys2Proof.Machine.execVor d a b s
  | .vxor d a b => Sys2Proof.Machine.execVxor d a b s
  | .vandn d a b => Sys2Proof.Machine.execVandn d a b s
  | .vnot d a => Sys2Proof.Machine.execVnot d a s
  | .vsll d a b => Sys2Proof.Machine.execVsll d a b s
  | .vsrl d a b => Sys2Proof.Machine.execVsrl d a b s
  | .vsra d a b => Sys2Proof.Machine.execVsra d a b s
  | .vcvt d a fmt => Sys2Proof.Machine.execVcvt d a fmt s
  | .vcvtSat d a fmt => Sys2Proof.Machine.execVcvtSat d a fmt s
  | .vcvtFit d a fmt => Sys2Proof.Machine.execVcvtFit d a fmt s
  | .vretag d a fmt => Sys2Proof.Machine.execVretag d a fmt s
  | .vscale d a b => Sys2Proof.Machine.execVscale d a b s
  | .vtag d a => Sys2Proof.Machine.execVtag d a s
  | .vtagRd d a => Sys2Proof.Machine.execVtagRd d a s
  | .vbcastF32 d a fmt => Sys2Proof.Machine.execVbcastF32 d a fmt s
  | .vbcastI64 d a fmt => Sys2Proof.Machine.execVbcastI64 d a fmt s
  | .vbcastRaw d a fmt => Sys2Proof.Machine.execVbcastRaw d a fmt s
  | .vbcastEl d a b => Sys2Proof.Machine.execVbcastEl d a b s
  | .vredAdd d a b => Sys2Proof.Machine.execVredAdd d a b s
  | .vredMin d a b => Sys2Proof.Machine.execVredMin d a b s
  | .vredMax d a b => Sys2Proof.Machine.execVredMax d a b s
  | .vredAnd d a b => Sys2Proof.Machine.execVredAnd d a b s
  | .vredOr d a b => Sys2Proof.Machine.execVredOr d a b s
  | .vredXor d a b => Sys2Proof.Machine.execVredXor d a b s
  | .vdot d a b => Sys2Proof.Machine.execVdot d a b s
  | .viota d a fmt => Sys2Proof.Machine.execViota d a fmt s
  | .vperm d a b => Sys2Proof.Machine.execVperm d a b s
  | .vrot d a b => Sys2Proof.Machine.execVrot d a b s
  | .vslideup d a b => Sys2Proof.Machine.execVslideup d a b s
  | .vslidedn d a b => Sys2Proof.Machine.execVslidedn d a b s
  | .vcompress d a b => Sys2Proof.Machine.execVcompress d a b s
  | .vexpand d a b => Sys2Proof.Machine.execVexpand d a b s
  | .vld d base off => Sys2Proof.Machine.execVld d base off s
  | .vldQ d base off => Sys2Proof.Machine.execVldQ d base off s
  | .vst d base off => Sys2Proof.Machine.execVst d base off s
  | .vlds d a b => Sys2Proof.Machine.execVlds d a b s
  | .vsts d a b => Sys2Proof.Machine.execVsts d a b s
  | .vldx d a b => Sys2Proof.Machine.execVldx d a b s
  | .vstx d a b => Sys2Proof.Machine.execVstx d a b s
  | .vsctadd d a b scope => Sys2Proof.Machine.execVsctadd d a b scope s
  | .vldSc d base off => Sys2Proof.Machine.execVldSc d base off s
  | .vstSc d base off => Sys2Proof.Machine.execVstSc d base off s
  | .vldBndS d base bound t => Sys2Proof.Machine.execVldBndS d base bound t s
  | .vldBndF d base bound t => Sys2Proof.Machine.execVldBndF d base bound t s
  | .stripOpen d a b => Sys2Proof.Machine.execStripOpen d a b s
  | .stripClose d => Sys2Proof.Machine.execStripClose d s
  | .stripLd d a => Sys2Proof.Machine.execStripLd d a s
  | .stripLdNa d a => Sys2Proof.Machine.execStripLdNa d a s
  | .stripSt d a => Sys2Proof.Machine.execStripSt d a s
  | .stripStNa d a => Sys2Proof.Machine.execStripStNa d a s
  | .qbind d a => Sys2Proof.Machine.execQbind d a s
  | .qpushV d a => Sys2Proof.Machine.execQpushV d a s
  | .qpushS d a => Sys2Proof.Machine.execQpushS d a s
  | .qpushB d a => Sys2Proof.Machine.execQpushB d a s
  | .qpopV d a => Sys2Proof.Machine.execQpopV d a s
  | .qpopS d a => Sys2Proof.Machine.execQpopS d a s
  | .qpeekV d a => Sys2Proof.Machine.execQpeekV d a s
  | .qpeekS d a => Sys2Proof.Machine.execQpeekS d a s
  | .qbr a off => Sys2Proof.Machine.execQbr a off s
  | .vamoAdd d a b scope => Sys2Proof.Machine.execVamoAdd d a b scope s
  | .vamoMin d a b scope => Sys2Proof.Machine.execVamoMin d a b scope s
  | .vamoMax d a b scope => Sys2Proof.Machine.execVamoMax d a b scope s
  | .vamoSwap d a b scope => Sys2Proof.Machine.execVamoSwap d a b scope s
  | .vamoCas d a b scope => Sys2Proof.Machine.execVamoCas d a b scope s
  | .fenceSv scope => Sys2Proof.Machine.execFenceSv scope s
  | .fenceVs scope => Sys2Proof.Machine.execFenceVs scope s
  | .fenceVv scope => Sys2Proof.Machine.execFenceVv scope s
  | .fenceAll scope => Sys2Proof.Machine.execFenceAll scope s
  | .vwait d a b scope => Sys2Proof.Machine.execVwait d a b scope s
  | .roundAdv d a => Sys2Proof.Machine.execRoundAdv d a s
  | .roundRd d a => Sys2Proof.Machine.execRoundRd d a s
  | .tileSet d a => Sys2Proof.Machine.execTileSet d a s
  | .mma d a b => Sys2Proof.Machine.execMma d a b s
  | .mmaW d a slot => Sys2Proof.Machine.execMmaW d a slot s
  | .mmaZ d a b => Sys2Proof.Machine.execMmaZ d a b s
  | .mmaWz d a slot => Sys2Proof.Machine.execMmaWz d a slot s
  | .mmaT d a b => Sys2Proof.Machine.execMmaT d a b s
  | .mmaTW d a slot => Sys2Proof.Machine.execMmaTW d a slot s
  | .mmaTZ d a b => Sys2Proof.Machine.execMmaTZ d a b s
  | .mmaTWz d a slot => Sys2Proof.Machine.execMmaTWz d a slot s
  | .wbLoad slot a b => Sys2Proof.Machine.execWbLoad slot a b s
  | .wbLoadCb slot a b cb => Sys2Proof.Machine.execWbLoadCb slot a b cb s
  | .cbLoad cb a b => Sys2Proof.Machine.execCbLoad cb a b s
  | .accZero d i48 => Sys2Proof.Machine.execAccZero d i48 s
  | .accLd d a => Sys2Proof.Machine.execAccLd d a s
  | .accSt d a => Sys2Proof.Machine.execAccSt d a s
  | .accRd d a b => Sys2Proof.Machine.execAccRd d a b s
  | .accRdS d a b => Sys2Proof.Machine.execAccRdS d a b s
  | .cpStart d a ends => Sys2Proof.Machine.execCpStart d a ends s
  | .cp2d d a ends => Sys2Proof.Machine.execCp2d d a ends s
  | .cpGth d a b ends => Sys2Proof.Machine.execCpGth d a b ends s
  | .vxfUvar d a fmt => Sys2Proof.Machine.execVxfUvar d a fmt s
  | .vxfSvar d a fmt => Sys2Proof.Machine.execVxfSvar d a fmt s
  | .vxfUnpk d a fmt => Sys2Proof.Machine.execVxfUnpk d a fmt s
  | .vxfEuvar d a => Sys2Proof.Machine.execVxfEuvar d a s
  | .vxfEsvar d a => Sys2Proof.Machine.execVxfEsvar d a s
  | .vxfPack d a => Sys2Proof.Machine.execVxfPack d a s
  | .pre p => Sys2Proof.Machine.execPre p s
  | .preN p => Sys2Proof.Machine.execPreN p s
  | .preCopy p cls cd => Sys2Proof.Machine.execPreCopy p cls cd s
  | .preNCopy p cls cd => Sys2Proof.Machine.execPreNCopy p cls cd s
  | .fork d a => Sys2Proof.Machine.execFork d a s
  | .forkS d a => Sys2Proof.Machine.execForkS d a s
  | .settle a => Sys2Proof.Machine.execSettle a s
  | .abandon => Sys2Proof.Machine.execAbandon s
  | .abandonAll => Sys2Proof.Machine.execAbandonAll s
  | .choose d a => Sys2Proof.Machine.execChoose d a s
  | .chooseBest d => Sys2Proof.Machine.execChooseBest d s
  | .vid d a => Sys2Proof.Machine.execVid d a s
  | .spawn d a b => Sys2Proof.Machine.execSpawn d a b s
  | .spawnT d a b => Sys2Proof.Machine.execSpawnT d a b s
  | .leaseReq least pref => Sys2Proof.Machine.execLeaseReq least pref s
  | .leaseRel => Sys2Proof.Machine.execLeaseRel s
  | .leaseRelD => Sys2Proof.Machine.execLeaseRelD s
  | .taskEnd => Sys2Proof.Machine.execTaskEnd s
  | .barCl a b => Sys2Proof.Machine.execBarCl a b s
  | .ctxSave => Sys2Proof.Machine.execCtxSave s
  | .ctxLoad d a => Sys2Proof.Machine.execCtxLoad d a s
  | .collRedAdd d a => Sys2Proof.Machine.execCollRedAdd d a s
  | .collRedMin d a => Sys2Proof.Machine.execCollRedMin d a s
  | .collRedMax d a => Sys2Proof.Machine.execCollRedMax d a s
  | .collRedFo d a => Sys2Proof.Machine.execCollRedFo d a s
  | .collBcast d a => Sys2Proof.Machine.execCollBcast d a s
  | .hFetch a b => Sys2Proof.Machine.execHFetch a b s
  | .hPost a b => Sys2Proof.Machine.execHPost a b s
  | .hFwd a => Sys2Proof.Machine.execHFwd a s
  | .hStamp d a => Sys2Proof.Machine.execHStamp d a s
  | .hStampAdv d a => Sys2Proof.Machine.execHStampAdv d a s
  | .hDone => Sys2Proof.Machine.execHDone s
  | .hAbort a => Sys2Proof.Machine.execHAbort a s
  | .bmsg a b => Sys2Proof.Machine.execBmsg a b s
  | .grantWaitApply g => Sys2Proof.Machine.execGrantWaitApply g s
  | .reshapeComplete g => Sys2Proof.Machine.execReshapeComplete g s
  | .commitLand g => Sys2Proof.Machine.execCommitLand g s
  | .lateResultReady g => Sys2Proof.Machine.execLateResultReady g s
  | .drainComplete g => Sys2Proof.Machine.execDrainComplete g s
  | .arbiterHoldTimeout g => Sys2Proof.Machine.execArbiterHoldTimeout g s
  | .preemptionNotice g => Sys2Proof.Machine.execPreemptionNotice g s
  | .gracePeriodExpiry g => Sys2Proof.Machine.execGracePeriodExpiry g s
  | .stagingDrainComplete core save => Sys2Proof.Machine.execStagingDrainComplete core save s
  | .stripCopyWaitEnd core save => Sys2Proof.Machine.execStripCopyWaitEnd core save s
  | .restoreAtGrant g => Sys2Proof.Machine.execRestoreAtGrant g s
  | .resumedReshaped g => Sys2Proof.Machine.execResumedReshaped g s
  | .copyEventTaken g => Sys2Proof.Machine.execCopyEventTaken g s
  | .copySectorMove core => Sys2Proof.Machine.execCopySectorMove core s
  | .copyRequestComplete core => Sys2Proof.Machine.execCopyRequestComplete core s
  | .promiseMiss core req => Sys2Proof.Machine.execPromiseMiss core req s
  | .registerFileCorrectedError core lane => Sys2Proof.Machine.execRegisterFileCorrectedError core lane s
  | .registerFileUncorrectableError core lane word part again => Sys2Proof.Machine.execRegisterFileUncorrectableError core lane word part again s
  | .stateUncorrectableError g => Sys2Proof.Machine.execStateUncorrectableError g s
  | .stripUncorrectableError core sector => Sys2Proof.Machine.execStripUncorrectableError core sector s
  | .queueEntryUncorrectableError core queue entry => Sys2Proof.Machine.execQueueEntryUncorrectableError core queue entry s
  | .scratchpadUncorrectableError pa => Sys2Proof.Machine.execScratchpadUncorrectableError pa s
  | .sliceUncorrectableError die sector view inStamp => Sys2Proof.Machine.execSliceUncorrectableError die sector view inStamp s
  | .verticalBusCorrectedError core bus => Sys2Proof.Machine.execVerticalBusCorrectedError core bus s
  | .assayerRun core => Sys2Proof.Machine.execAssayerRun core s
  | .assayerVectorEnd core failing => Sys2Proof.Machine.execAssayerVectorEnd core failing s
  | .sliceFill die sector view asid vline => Sys2Proof.Machine.execSliceFill die sector view asid vline s
  | .coherenceInvalidate die sector => Sys2Proof.Machine.execCoherenceInvalidate die sector s
  | .messageArrival bar => Sys2Proof.Machine.execMessageArrival bar s
  | .invocationStart bar => Sys2Proof.Machine.execInvocationStart bar s
  | .handlerTimeLimit bar => Sys2Proof.Machine.execHandlerTimeLimit bar s
  | .prefetchFill bar => Sys2Proof.Machine.execPrefetchFill bar s
  | .btimeWindowStart => Sys2Proof.Machine.execBtimeWindowStart s
  | .tlbinvComplete => Sys2Proof.Machine.execTlbinvComplete s
  | .wfeWake g => Sys2Proof.Machine.execWfeWake g s
  | .sleepUntilExpiry g => Sys2Proof.Machine.execSleepUntilExpiry g s
  | .vwaitWake g => Sys2Proof.Machine.execVwaitWake g s
  | .vwaitDeadline g => Sys2Proof.Machine.execVwaitDeadline g s
  | .queueWaitEnd g => Sys2Proof.Machine.execQueueWaitEnd g s
  | .boundedLoadWaitEnd g => Sys2Proof.Machine.execBoundedLoadWaitEnd g s
  | .barrierWake g => Sys2Proof.Machine.execBarrierWake g s
  | .rivalPlace core => Sys2Proof.Machine.execRivalPlace core s
  | .chooseResume g => Sys2Proof.Machine.execChooseResume g s
  | .viewReclaim view => Sys2Proof.Machine.execViewReclaim view s
  | .selectAndPlace die => Sys2Proof.Machine.execSelectAndPlace die s
  | .stripTaggingComplete g => Sys2Proof.Machine.execStripTaggingComplete g s
  | .queueTailObserved die queue => Sys2Proof.Machine.execQueueTailObserved die queue s
  | .frameAged die queue => Sys2Proof.Machine.execFrameAged die queue s
  | .reservePreemptTimeout die => Sys2Proof.Machine.execReservePreemptTimeout die s
  | .fqheadWrite die value => Sys2Proof.Machine.execFqheadWrite die value s
  | .fqbaseWrite die value => Sys2Proof.Machine.execFqbaseWrite die value s
  | .fqstatWrite die value => Sys2Proof.Machine.execFqstatWrite die value s
  | .faultDomainRecovery block => Sys2Proof.Machine.execFaultDomainRecovery block s
  | .recoveryComplete block => Sys2Proof.Machine.execRecoveryComplete block s
  | .llcFill line vline user => Sys2Proof.Machine.execLlcFill line vline user s
  | .homeRead granule uncorrectable => Sys2Proof.Machine.execHomeRead granule uncorrectable s
  | .grinderSweep stack sector uncorrectable => Sys2Proof.Machine.execGrinderSweep stack sector uncorrectable s
  | .grinderRecallComplete stack uncorrectable => Sys2Proof.Machine.execGrinderRecallComplete stack uncorrectable s
  | .roundMirrorsComplete region => Sys2Proof.Machine.execRoundMirrorsComplete region s
  | .shadowMulticastArrival die region => Sys2Proof.Machine.execShadowMulticastArrival die region s
  | .touchstoneGrant g => Sys2Proof.Machine.execTouchstoneGrant g s
  | .rcbInstall block => Sys2Proof.Machine.execRcbInstall block s
  | .rcbRemove block => Sys2Proof.Machine.execRcbRemove block s
  | .rcbRecover block => Sys2Proof.Machine.execRcbRecover block s
  | .rgcntWrite region value => Sys2Proof.Machine.execRgcntWrite region value s
  | .rgcntLand region => Sys2Proof.Machine.execRgcntLand region s
  | .rgctlWrite region value => Sys2Proof.Machine.execRgctlWrite region value s
  | .fwCommit value => Sys2Proof.Machine.execFwCommit value s
  | .fwCommitComplete => Sys2Proof.Machine.execFwCommitComplete s
  | .mgmtstWrite value => Sys2Proof.Machine.execMgmtstWrite value s
  | .skewmapWrite half value => Sys2Proof.Machine.execSkewmapWrite half value s
  | .llcpartWrite n value => Sys2Proof.Machine.execLlcpartWrite n value s
  | .baristaCountersClear bar => Sys2Proof.Machine.execBaristaCountersClear bar s
  | .jrnheadWrite value => Sys2Proof.Machine.execJrnheadWrite value s
  | .jrnsizeWrite value => Sys2Proof.Machine.execJrnsizeWrite value s
  | .jrnctlWrite value => Sys2Proof.Machine.execJrnctlWrite value s
  | .packageRegisterWrite offset value => Sys2Proof.Machine.execPackageRegisterWrite offset value s
  | .moduleReset => Sys2Proof.Machine.execModuleReset s
  | .selfTestComplete => Sys2Proof.Machine.execSelfTestComplete s
  | .firmwareCheckComplete => Sys2Proof.Machine.execFirmwareCheckComplete s
  | .hbmTrainingComplete => Sys2Proof.Machine.execHbmTrainingComplete s
  | .thermalTrip => Sys2Proof.Machine.execThermalTrip s
  | .linkTraining port partner => Sys2Proof.Machine.execLinkTraining port partner s
  | .hostMemoryWrite pa data enables => Sys2Proof.Machine.execHostMemoryWrite pa data enables s
  | .hostMemoryRead pa => Sys2Proof.Machine.execHostMemoryRead pa s
  | .cemenTaggedWrite msg => Sys2Proof.Machine.execCemenTaggedWrite msg s
  | .cemenTaggedRead msg => Sys2Proof.Machine.execCemenTaggedRead msg s
  | .cemenReadResponse msg => Sys2Proof.Machine.execCemenReadResponse msg s
  | .cemenAtomic msg => Sys2Proof.Machine.execCemenAtomic msg s
  | .cemenHostMessage msg => Sys2Proof.Machine.execCemenHostMessage msg s
  | .cemenCollectiveFragment msg => Sys2Proof.Machine.execCemenCollectiveFragment msg s
  | .fabricAck id => Sys2Proof.Machine.execFabricAck id s
  | .completionLost id => Sys2Proof.Machine.execCompletionLost id s
  | .collectiveMatch die gid => Sys2Proof.Machine.execCollectiveMatch die gid s
  | .collectiveComplete die gid => Sys2Proof.Machine.execCollectiveComplete die gid s
  | .collectiveTimeout die gid => Sys2Proof.Machine.execCollectiveTimeout die gid s
  | .replayApply => Sys2Proof.Machine.execReplayApply s
  | .illegalInstruction word => Sys2Proof.Machine.execIllegalInstruction word s
  | .instructionFetchFault fault => Sys2Proof.Machine.execInstructionFetchFault fault s
  | .forcedSwitchRequest g switchNow fromManagement => Sys2Proof.Machine.execForcedSwitchRequest g switchNow fromManagement s
  | .baristaUncorrectableError bar => Sys2Proof.Machine.execBaristaUncorrectableError bar s
  | .fabricBind device reached => Sys2Proof.Machine.execFabricBind device reached s
  | .participantLost die gid => Sys2Proof.Machine.execParticipantLost die gid s

end Sys2Proof.Machine
end

