-- ==== Sys2Proof/Machine/Due.lean ====
section
/-! DEFINITION. The instruction that a word stands for where it may run, whose turn it is, which device event has come due, and how time
passes (logs 2 and 3). -/

namespace Sys2Proof.Machine

/-- The agents run: module state 5 (R409).
DESIGN CHOICE (unsafe, log 3), DEDUCED (unsafe, log 56). -/
def running (s : State) : Bool := s.mgmt.mgmtst == 5

/-! ### Waits that no event of their own ends -/

/-- The wait of strand `g`, or of a barista (`g` none), is over: the instruction runs again. -/
def waitOver (s : State) (g : Option Nat) (w : Wait) : Bool :=
  match w, g with
  | .busy sec, _ => (lookupNat sec s.busy).isNone && !hostHeld s sec
  | .filling t, _ => decide (t ≤ s.cycle.toNat)
  | .acknowledge id, _ => (lookupNat id s.unacked).isNone
  | .engine, some g => (copiesOf s g).isEmpty
  | .copies, some g => (copiesOf s g).isEmpty
  | .resumed, some g => (copiesOf s g).isEmpty
  | .older, some g => !vectorPending (s.strandAt g)
  | .pushes, some g => !pushesPending (s.strandAt g)
  | .finish, _ => true
  | .copy core id, _ => (s.core core).copies.all (fun r => r.id != id)
  | .copyEntry, some g => decide ((copiesOf s g).length < 16) && decide ((s.core (coreOf g)).copies.length < 64)
  | .message b, _ => messageRoom s b
  | .requeue, some g => match (s.strandAt g).task with
    | some t => (requeue s (dieOf g) t (s.strandAt g).asid).isSome
    | none => true
  | .commits, some g => (s.strandAt g).sched.commits.isEmpty
  | .prefetch, none => match s.turn with
    | some b => decide ((s.barista b).prefetches.length < 32)
    | none => true
  | _, _ => false

/-- A switch is due of a strand, which issues nothing more until it has been switched: its frame may have to wait for room in the hold list
(R277, R279, R388). -/
def switchDue (s : State) (g : Nat) (x : Strand) : Bool := (x.switchAsked && !switchHeld s g) || graceOver s x

/-- A strand can issue: it runs, and it waits for nothing. -/
def strandReady (s : State) (g : Nat) (x : Strand) : Bool :=
  x.phase == .running && !switchDue s g x && match x.wait with
    | none => true
    | some w => waitOver s (some g) w

/-- A barista can issue. -/
def baristaReady (s : State) (b : Nat) (x : Barista) : Bool :=
  x.invocation.isSome && match x.wait with
    | none => true
    | some w => waitOver { s with turn := some b } none w

/-- The agent whose turn it is can issue.
DESIGN CHOICE (unsafe, log 3). -/
def agentReady (s : State) : Bool :=
  match s.turn with
  | none => strandReady s s.strandId s.strand
  | some b => baristaReady s b (s.barista b)

/-- The agents that can issue, by their place. -/
def readyAgents (s : State) : List Nat :=
  ((s.strandId, s.strand) :: s.others).filterMap (fun p => if strandReady s p.1 p.2 then some p.1 else none)
    ++ s.baristas.filterMap (fun p => if baristaReady s p.1 p.2 then some (12288 + p.1) else none)

/-- The least of a list, if it has one. -/
def leastOf : List Nat → Option Nat
  | [] => none
  | a :: l => match leastOf l with
    | none => some a
    | some b => some (Nat.min a b)

/-- The next agent of the round after the current one. -/
def nextAgent (s : State) : Option Nat :=
  let l := readyAgents s
  match leastOf (l.filter (fun k => decide (agentKey s < k))) with
  | some k => some k
  | none => leastOf l

/-- Give an agent the turn. -/
def giveTurn (s : State) (k : Nat) : State :=
  if k < 12288 then { (s.focus k) with turn := none } else { s with turn := some (k - 12288) }

/-- The turn goes round.
DESIGN CHOICE (unsafe, log 3). -/
def handOn (s : State) : State := match nextAgent s with
  | some k => if k = agentKey s then s else giveTurn s k
  | none => s

/-! ### Time -/

/-- An exposed region of a strand is frozen: it waits, and not by a stall, or a late copy holds it (R25, R236). -/
def frozen (s : State) (g : Nat) (x : Strand) : Bool := x.wait.any (fun w => !stalls w) || lateCopy s g

/-- A strand after one clock: the schedule clock of an exposed region that is not frozen advances by one, once in the clock (R7, R25). -/
def clockStrand (s : State) (g : Nat) (x : Strand) : Strand :=
  if x.mode && !x.ticked && !frozen s g x then { x with sched := { x.sched with clock := x.sched.clock + 1 } }
  else { x with ticked := false }

/-- Cores on which a strand of age 32 or more waits, or a hold above target is timed (R229). -/
def holdCores (s : State) : List Nat :=
  ((s.occupied.filter (fun p => decide (32 ≤ p.2.age) || p.2.aboveTargetSince.isSome)).map (fun p => coreOf p.1)).dedup

/-- One clock passes: `sys.cycle`, the schedule clocks that no instruction has advanced, barista time (R336, R381), holds above target
(R229), records that wait for the journal (R403); the reset state of the module ends (R409).
DESIGN CHOICE (unsafe, log 2). -/
def passClock (s : State) : State :=
  let s := (chargeBaristas ((holdCores s).foldl noteHolds s)).settleJournal
  { s with
    cycle := s.cycle + 1, strand := clockStrand s s.strandId s.strand
    others := s.others.map (fun p => (p.1, clockStrand s p.1 p.2))
    mgmt := if s.mgmt.mgmtst = 0 then { s.mgmt with mgmtst := 1 } else s.mgmt }

/-- The round of a clock is over: every agent that can issue has had its turn.
DESIGN CHOICE (unsafe, log 2). -/
def roundOver (s : State) : Bool := match nextAgent s with
  | some k => decide (k ≤ agentKey s)
  | none => true

/-- The turn of an agent is over: it goes to the next one, with a clock once all have had theirs, so that a strand issues one instruction
in each clock (R7, R24).
DESIGN CHOICE (unsafe, log 2), DESIGN CHOICE (unsafe, log 3). -/
def endTurn (s : State) : State := handOn (if roundOver s then passClock s else s)

/-- The agent whose turn it is waits. -/
def State.waiting (s : State) : Bool := match s.turn with
  | none => s.strand.wait.isSome
  | some b => (s.barista b).wait.isSome

/-- The agent whose turn it is waits with its instruction undone: a barista that waits for a fill has its value (R330). -/
def State.undone (s : State) : Bool := match s.turn with
  | none => s.strand.wait.isSome
  | some b => (s.barista b).wait.any (fun w => match w with
    | .filling _ => false
    | _ => true)

/-- The answers of peers belong to the instruction that asked for them: they go when it is done.
DEDUCED (unsafe, log 23). -/
def dropReplies (s : State) : State :=
  if !s.undone && !s.replies.isEmpty then { s with replies := eraseNat (agentKey s) s.replies } else s

/-! ### The commit buffer (R235) -/

/-- Every pending commit of a strand: of its region, and those held for regions that its handlers interrupt. -/
def Strand.pending (x : Strand) : List Commit := (x.sched :: x.heldRegion).flatMap (fun r => r.commits)

/-- The entries of a strand's commit buffer that are taken: one for each instruction with a pending commit (R235), and one for each commit
of a restored image, which names no instruction.
DEDUCED (unsafe, log 38). -/
def entriesTaken (x : Strand) : Nat := (x.sched :: x.heldRegion).foldl (fun n r =>
  n + ((r.commits.filterMap (fun c => c.issued)).dedup).length + (r.commits.filter (fun c => c.issued.isNone)).length) 0

/-! ### What issues -/

/-- The instruction that the word at the program counter stands for where it may run: a legal prefix pair (R73), for a barista
a word of its subset (R325); otherwise the word raises the illegal-instruction trap.
DESIGN CHOICE (safe, log 12), DEDUCED (unsafe, log 13). -/
noncomputable def issueOf (s : State) (w : BitVec 32) : Instr :=
  let f := unpackWord w
  let legal := match s.lent with
    | some l => pairLegal l f s.strand.nreg
    | none => true
  match decodeFields f with
  | .ok i => if legal && (s.turn.isNone || baristaMay f) then i else .illegalInstruction w
  | .error _ => .illegalInstruction w

/-- What became free in this clock has been offered to every strand that waits for a grant (R230). -/
def State.offered (s : State) : State :=
  if s.cores.any (fun c => c.2.freed) then { s with cores := s.cores.map (fun c => (c.1, { c.2 with freed := false })) } else s

/-- The agent's wait, if it had one, is over. -/
def resume (s : State) : State :=
  let s := s.offered
  match s.turn with
  | none => { s with strand := { s.strand with wait := none } }
  | some b => s.setBarista b { s.barista b with wait := none }

/-- The instruction at which strand `g` stands would take a synchronous trap now: a notice at that boundary waits for it (R296). -/
noncomputable def trapsNow (s : State) (g : Nat) : Bool :=
  let t := resume { s.focus g with turn := none }
  t.strand.wait.isNone && t.atPassEnd.isNone && t.atPassStart.isNone && match fetchWord t with
    | .error (.trap _) => true
    | .error _ => false
    | .ok w => match exec (issueOf t w) t with
      | .next u => u.strandId == g && u.strand.phase == .running && u.strand.tip
      | _ => false

/-! ### Events of strands -/

/-- The end of a strand's wait (R110, R111, R117, R121, R162, R166, R181, R211, R236, R240, R286, R314). -/
noncomputable def waitEvent (s : State) (g : Nat) (x : Strand) : Option Instr :=
  match x.wait with
  | none => none
  | some w => match w with
    | .late => if lateCopy s g then none else some (.lateResultReady g)
    | .drain => if drained s g then some (.drainComplete g) else none
    | .grant => if grantNow s g then some (.grantWaitApply g) else none
    | .restore => if restoreNow s g then some (.restoreAtGrant g) else none
    | .event => if x.eventFlag then some (.wfeWake g) else none
    | .sleep t => if t ≤ s.cycle then some (.sleepUntilExpiry g) else none
    | .vwait t => if x.watchHit then some (.vwaitWake g) else if t ≤ s.cycle then some (.vwaitDeadline g) else none
    | .queue q n => match lookupNat q (s.core (coreOf g)).queues with
      | some y => if (y.ripe s.cycle).length = n then none else some (.queueWaitEnd g)
      | none => some (.queueWaitEnd g)
    | .bounded rg n => if roundAtLeast (shadowOf s (dieOf g) rg) n then some (.boundedLoadWaitEnd g) else none
    | .barrier _ _ => if barrierDone s g then some (.barrierWake g) else none
    | .choose => match x.fork with
      | some f => if (s.rivals f.seq).all Rival.terminal then some (.chooseResume g) else none
      | none => none
    | .tagging t => if t ≤ s.cycle.toNat then some (.stripTaggingComplete g) else none
    | .tlbinv _ _ _ => if tlbinvDone s x then some .tlbinvComplete else none
    | .touchstone _ _ => match nextTicket s g with
      | some pa => if s.mgmt.replaying && journalled s pa then none else some (.touchstoneGrant g)
      | none => none
    | _ => none

/-- An event that a strand takes between two instructions, in the order of R278 and R287, and what its notice or a long hold brings
about (R229, R279). -/
noncomputable def asyncEvent (s : State) (g : Nat) (x : Strand) : Option Instr :=
  if !x.copyEvents.isEmpty && takesEvents x then some (.copyEventTaken g)
  else if x.resumedReshaped.isSome && takesEvents x && x.copyEvents.isEmpty then some (.resumedReshaped g)
  else if x.notice.isSome && noticeNow x && (x.wait.isSome || !trapsNow s g) then some (.preemptionNotice g)
  else if x.switchAsked && !switchHeld s g && (switchOut s g x.pc .queued false).isSome then some (.forcedSwitchRequest g true false)
  else if graceOver s x && (switchOut s g x.pc .queued (distributorAsks x)).isSome then some (.gracePeriodExpiry g)
  else if holdTimedOut s x then some (.arbiterHoldTimeout g)
  else none

/-- The event of one strand that is due. -/
noncomputable def strandEvent (s : State) (p : Nat × Strand) : Option Instr :=
  if p.2.phase ≠ .running then none
  else if !(commitsDue p.2).isEmpty && !lateCopy s p.1 then some (.commitLand p.1)
  else match waitEvent s p.1 p.2 with
    | some i => some i
    | none => asyncEvent s p.1 p.2

/-! ### Events of cores, baristas and dies -/

/-- The copy engine of a core has something to do. -/
noncomputable def copyDue (s : State) (core : Nat) (c : CoreSt) : Option Instr :=
  if c.copies.any (fun r => r.moved == r.moves.length) then some (.copyRequestComplete core)
  else if c.copies.any (moveReady s core) then some (.copySectorMove core)
  else if s.mgmt.replaying then none
  else (c.copies.find? (fun r => !r.missed && r.orphan.isNone && decide (r.promise < s.cycle))).map (fun r => .promiseMiss core r.id)

/-- The event of one core that is due: reshapes, drains and strip images, copies, the Assayer. -/
noncomputable def coreEvent (s : State) (p : Nat × CoreSt) : Option Instr :=
  match p.2.pendingFree with
  | f :: _ => some (.reshapeComplete f.2)
  | [] => match p.2.images.find? (fun i => i.staged.isSome && !saveStalled s p.1) with
    | some i => some (.stagingDrainComplete p.1 i.save.toNat)
    | none => match p.2.images.find? (readyToMigrate s p.1) with
      | some i => some (.stripCopyWaitEnd p.1 i.save.toNat)
      | none => match copyDue s p.1 p.2 with
        | some i => some i
        | none => if p.2.assayNow then some (.assayerRun p.1) else none

/-- A lease-zero save that is not in its save area yet (R231). -/
noncomputable def unsavedEvent (s : State) : Option Instr :=
  (s.occupied.find? (fun p => p.2.unsaved && p.2.task.isSome && !saveStalled s (coreOf p.1))).map (fun p =>
    .stagingDrainComplete (coreOf p.1) (areaOf p.2.task).toNat)

/-- A posting of a barista is held (R360). -/
def baristaHeld (s : State) (b : Nat) : Bool := (s.die (b / 48)).heldPostings.any (fun p => p.source == some (12288 + b))

/-- The event of one barista that is due. -/
noncomputable def baristaEvent (s : State) (p : Nat × Barista) : Option Instr :=
  if !p.2.inFlight.isEmpty then some (.messageArrival p.1)
  else if overTime s p.2 && !s.mgmt.replaying then some (.handlerTimeLimit p.1)
  else if p.2.prefetches.head?.any (fun f => !prefetchHeld s f) then some (.prefetchFill p.1)
  else if p.2.invocation.isNone && !p.2.queue.isEmpty && !baristaHeld s p.1 then some (.invocationStart p.1)
  else none

/-- A multicast that reaches a die's shadow. -/
noncomputable def dieEvent (p : Nat × DieSt) : Option Instr :=
  (p.2.multicasts.head?).map (fun m => .shadowMulticastArrival p.1 m.1)

/-- A round region's mirrors, or its written count. -/
noncomputable def regionEvent (p : Nat × Region) : Option Instr :=
  if !p.2.mirrored then some (.roundMirrorsComplete p.1)
  else if p.2.landing.isSome then some (.rgcntLand p.1)
  else none

/-- A rival that can be placed (R208), or a parked judge that resumes (R211). -/
noncomputable def worldEvent (s : State) : Option Instr :=
  match (s.views.filter (fun v => v.2.image.isSome)).find? (fun v => (rivalChoice s v.2.core).isSome) with
  | some v => some (.rivalPlace v.2.core)
  | none => s.parked.findSome? (fun p =>
    match freeStrandOf s p.core with
    | none => none
    | some g => match readyJudge s g with
      | some q => if strandFits s q.strand.block then some (.chooseResume g) else none
      | none => none)

/-! ### Events of the package -/

/-- The command of RCBCMD that runs (R406). -/
noncomputable def commandEvent (s : State) : Option Instr :=
  if !bit s.mgmt.rcbres 0 then none else
  let a := field s.mgmt.rcbcmd 9 55 * 512
  match field s.mgmt.rcbcmd 0 2 with
  | 1 => some (.rcbInstall a)
  | 2 =>
    let goes : Bool := match lookupNat a s.blocks with
      | some b => b.recovery == .removing
      | none => false
    if goes then none else some (.rcbRemove a)
  | 3 =>
    let idle : Bool := match lookupNat a s.blocks with
      | none => true
      | some _ => match lookupNat (domainOf s a) s.blocks with
        | some r => r.recovery == .idle
        | none => false
    if idle then some (.rcbRecover a) else none
  | _ => none

/-- A recovery that was asked for, or a recovery or removal of which nothing is in flight any more (R378, R382). -/
noncomputable def recoveryEvent (s : State) (b : Nat × Block) : Option Instr := match b.2.recovery with
  | .idle => none
  | .requested => some (.faultDomainRecovery b.1)
  | .draining => if orphanLeft s (fun x => domainOf s x == b.1) then none else some (.recoveryComplete b.1)
  | .removing => if orphanLeft s (under s b.1) then none else some (.recoveryComplete b.1)

/-- What a die's distributor does next (R384, R386, R388). -/
noncomputable def distributorEvent (s : State) (die : Nat) : Option Instr :=
  match (dieQueues s die).find? (fun q => seen s die q != s.track die q.pa) with
  | some q => some (.queueTailObserved die q.pa)
  | none => match (candidates s die).find? (agesNow s die) with
    | some c => some (.frameAged die c.queue.pa)
    | none =>
      if selectDue s die then some (.selectAndPlace die)
      else if (overdueFrame s die).isSome then some (.reservePreemptTimeout die)
      else none

/-- The distributors; none has anything to do without a block or a held frame. -/
noncomputable def launchEvent (s : State) : Option Instr :=
  if s.blocks.isEmpty && s.dies.all (fun d => d.2.holdList.isEmpty) then none
  else [0, 1, 2, 3].findSome? (distributorEvent s)

/-- A collective whose outcome is known, whose submissions have met, or whose time is over (R400, R401). -/
noncomputable def collectiveEvent (s : State) (c : Collective) : Option Instr :=
  if c.ready s then some (.collectiveComplete c.die c.gid.toNat)
  else if (matched s c).isSome then some (.collectiveMatch c.die c.gid.toNat)
  else if collectiveLate s c then some (.collectiveTimeout c.die c.gid.toNat)
  else none

/-- The Grinder's recall of a BUSY sector is complete (R371). -/
noncomputable def grinderEvent (s : State) : Option Instr :=
  (s.busy.head?).map (fun b => .grinderRecallComplete (lineHome s (b.1 / 4)).1 false)

/-- A window of barista time starts (R381). -/
noncomputable def windowEvent (s : State) : Option Instr :=
  if s.cycle.toNat % 2 ^ 20 = 0 ∧ s.blocks.any (fun b => b.2.btimeUsed != 0) then some .btimeWindowStart else none

/-- A release that waits for an acknowledgement too long (R398). -/
noncomputable def lostEvent (s : State) : Option Instr :=
  (s.unacked.find? (fun u => (ackLost s u.1).isSome)).map (fun u => .completionLost u.1)

/-- Bring-up goes on by itself from state 1 to state 4 (R409), and a commit's check ends (R407). -/
noncomputable def moduleEvent (s : State) : Option Instr :=
  if s.mgmt.fwbusy then some .fwCommitComplete
  else match s.mgmt.mgmtst.toNat with
    | 1 => some .selfTestComplete
    | 2 => some .firmwareCheckComplete
    | 3 => some .hbmTrainingComplete
    | _ => none

/-- The first event of a running device that is due. -/
noncomputable def runningEvent (s : State) : Option Instr :=
  (s.occupied.findSome? (strandEvent s)).or <|
  (s.cores.findSome? (coreEvent s)).or <|
  (unsavedEvent s).or <|
  (s.baristas.findSome? (baristaEvent s)).or <|
  (s.regions.findSome? regionEvent).or <|
  (s.dies.findSome? dieEvent).or <|
  (s.reclaims.head?.map (fun r => Instr.viewReclaim r.1)).or <|
  (worldEvent s).or <|
  (grinderEvent s).or <|
  (windowEvent s).or <|
  (lostEvent s).or <|
  (s.collectives.findSome? (collectiveEvent s)).or <|
  (s.blocks.findSome? (recoveryEvent s)).or <|
  (commandEvent s).or <|
  launchEvent s

/-- The device event that has come due.
DEDUCED (unsafe, log 56). -/
noncomputable def dueEvent (s : State) : Option Instr :=
  if replayDue s then some .replayApply
  else match moduleEvent s with
    | some i => some i
    | none => if running s then runningEvent s else none

end Sys2Proof.Machine
end

