-- ==== Sys2Proof/Machine/Step.lean ====
section
/-! DEFINITION. One step of the device: an input, an event that has come due, or one instruction of the agent whose turn it is. -/

namespace Sys2Proof.Machine

/-- What follows an instruction: its turn is over (logs 2 and 3). -/
def after (r : Out) : Out := match r with
  | .next t => .next (endTurn (dropReplies t))
  | .fault f => .fault f
  | .refused r => .refused r

/-! ### What holds an instruction of an exposed region (R235, R236, R281) -/

/-- The instruction that leads from `s` to `t` needs more entries than the commit buffer has free (R235).
DEDUCED (unsafe, log 38). -/
def overFull (s t : State) : Bool :=
  s.exposed && t.exposed && s.strandId == t.strandId
    && decide (entriesTaken s.strand < entriesTaken t.strand) && decide (128 < entriesTaken t.strand)

/-- The bytes of value data of a pending result in a `v` register, a predicate or a tile (R281). -/
def dataBytes (x : Strand) (d : Dest) : Nat := match d with
  | .v _ r => r.hw * slotWidth x.wmax r.fmt / 8
  | .p _ _ => (x.vlmax + 7) / 8
  | .tile _ _ => 24576
  | _ => 0

/-- The value data of a strand's pending commits. -/
def pendingData (x : Strand) : Nat := x.pending.foldl (fun n c => c.dests.foldl (fun n d => n + dataBytes x d) n) 0

/-- The instruction that leads from `s` to `t` would exceed the bound on pending commit data (R281).
DEDUCED (unsafe, log 38). -/
def overBound (s t : State) : Bool :=
  s.exposed && t.exposed && s.strandId == t.strandId
    && decide (pendingData s.strand < pendingData t.strand) && decide (t.strand.live * 16384 < pendingData t.strand)

/-- A stall of one schedule clock: nothing issues, and the schedule clock advances (R25).
DESIGN CHOICE (unsafe, log 2), DEDUCED (unsafe, log 38). -/
def stallClock (s : State) : State := endTurn s.tickSched

/-- One instruction at its outcome: it does not issue where the commit buffer is full or the bound on pending data holds it. -/
def issue (i : Instr) (s : State) : Out := match exec i s with
  | .next t => if overFull s t || overBound s t then .next (stallClock s) else after (.next t)
  | r => r

/-! ### One step -/

/-- One instruction of the agent whose turn it is, or the end of a loop pass, which takes no clock where it ends the loop (R102); the fetch
of a word from memory leaves it in the slice and in a barista's code cache, for whose fill the barista waits (R324, R327). -/
noncomputable def runAgent (s : State) : Out :=
  match s.atPassEnd, s.atPassStart with
  | some l, _ =>
    let t := endPass s l
    if t.strand.loop.isNone && t.strand.pc == s.strand.pc then .next t else after (.next t)
  | none, some l => after (.next (loopPass s l))
  | none, none => match fetchWord s with
    | .ok w => if s.fetched.waiting then after (.next s.fetched) else issue (issueOf s w) s.fetched
    | .error (.trap t) => issue (.instructionFetchFault (if t.code = 0x03 then .poison else .translation)) s
    | .error x => after (.next (s.stop x))

/-- The agent whose turn it is can go on: a region that a late copy freezes waits (R236), an invocation whose view has ended aborts with
0xF8 (R339). -/
noncomputable def turnOf (s : State) : Out :=
  match s.turn with
  | none =>
    if lateCopy s s.strandId then .next (s.stop (.wait .late))
    else runAgent s
  | some b => match (s.barista b).invocation with
    | some v => if v.lost then after (.next (s.stop (.abort 0xF8))) else runAgent s
    | none => runAgent s

/-- One step: an input of the host or the environment, a transfer that was held, a device event that has come due, or one instruction of
the agent whose turn it is; events take no clock.
DESIGN CHOICE (unsafe, log 1). -/
noncomputable def step (s : State) : Host.Outcome State Fault Refusal :=
  match s.inputs with
  | i :: l => exec i { s with inputs := l }
  | [] => match heldIngress s with
    | some t => .next t
    | none => match dueEvent s with
      | some i => exec i s
      | none => if running s && agentReady s then turnOf (resume s) else .next (endTurn s.offered)

/-! ### Placing one word where the next step fetches it -/

def fetchAddr : Nat := 0x10000
def rootTable : Nat := 0x1000000

/-- The invocation of the barista that runs a placed handler word.
DESIGN CHOICE (unsafe, log 4). -/
def placedInvocation : Invocation :=
  { event := { kind := 3, sect := 0, dirty := 0, hop := 0, write := false, view := 0, asid := 0, addr := 0, payload := 0, source := 0 }
    start := 0, limit := 1024, lost := false }

/-- Memory with a two-level table that maps the first 8 GiB to themselves with every permission, and a word at `fetchAddr`.
DESIGN CHOICE (unsafe, log 4). -/
def placeWord (m : Memory) (w : Nat) : Memory :=
  let m := ((m.setBytes rootTable 8 (rootTable + 0x4000 + 1)).setBytes (rootTable + 8) 8 0).setTag (rootTable / 128) tagRaw
  let m := ((m.setBytes (rootTable + 0x4000) 8 0x3F).setBytes (rootTable + 0x4008) 8 3).setTag ((rootTable + 0x4000) / 128) tagRaw
  (m.setBytes fetchAddr 4 w).setTag (fetchAddr / 128) tagRaw

/-- The page that maps `fetchAddr`, and the sector of the placed word as a barista's code cache holds it.
DESIGN CHOICE (unsafe, log 4). -/
def placedCode (m : Memory) : CodeSector :=
  { asid := 0, vsec := fetchAddr / 128
    page := { pa := fetchAddr, size := 2 ^ 33, grid := .g8, dfmt := 0, dpol := 0, pack := false, grind := false, res := 0, rgv := false, rgn := 0
              wsh := false, hen := false }
    sector := m.sector (fetchAddr / 128) }

/-- The state with a word placed where the next step fetches (log 4): a running strand, or barista 0 for the handler words, in
address space 0, whose table maps the first 8 GiB.
DESIGN CHOICE (unsafe, log 4). -/
def State.withFetchWord (s : State) (nbits w : Nat) : State :=
  let word := w % 2 ^ nbits
  let handler := word / 2 ^ 25 % 128 == 0x71
  let d := s.die 0
  let mem := placeWord s.mem word
  { s with
    turn := if handler then some 0 else none
    inputs := []
    strand := { s.strand with
      phase := .running, pc := BitVec.ofNat 64 fetchAddr, asid := 0, wait := none, lent := none, loop := none, notice := none
      copyEvents := [], resumedReshaped := none, sys := { s.strand.sys with view := 0 } }
    baristas := if handler then insertNat 0 { s.barista 0 with
      pc := BitVec.ofNat 64 fetchAddr, lent := none, wait := none, invocation := some placedInvocation, code := [placedCode mem] } s.baristas
      else s.baristas
    dies := insertNat 0 { d with roots := insertNat 0 rootTable d.roots } s.dies
    mem := mem
    busy := []
    mgmt := { s.mgmt with mgmtst := 5, skewmap := 0 } }

end Sys2Proof.Machine
end

