-- ==== Sys2Proof/Safety.lean ====
section
/-! DEFINITION. The terms the statements use: what is true of every state a run can pass through, what an instruction may change,
and the tables of the spec that give each instruction its result, written out anew from the rules. -/

namespace Sys2Proof.Machine

/-! ### States -/

/-- Memory stands in its canonical form. -/
def State.Canonical (s : State) : Prop := s.mem.wf = true

/-- A run from `s` is safe for `n` steps: it meets no fault and no refusal. -/
def State.SafeFor (s : State) : Nat → Prop
  | 0 => True
  | n + 1 => ∃ t, step s = .next t ∧ t.SafeFor n

/-- One byte of memory as a load reads it: a byte of an UNDEF sector reads 0 (R96). -/
def State.loadByte (s : State) (a : Nat) : Byte :=
  if tagVcls (s.mem.tag (a / 128)) = clsUndef then 0 else s.mem.byte a

/-! ### Frames -/

/-- `t` differs from `s` in nothing but the strand whose turn it is. -/
def SameDevice (s t : State) : Prop := t = { s with strand := t.strand }

/-- The two strands agree on all that an instruction with a scalar, predicate or vector result leaves alone: everything but the
register files, the pc, the lent prefix, the schedule with the mark that it has advanced, the sticky flags [4:0] and sys.vstart. -/
def SameStrand (x y : Strand) : Prop :=
  y = { x with
    s := y.s, p := y.p, v := y.v, pWritten := y.pWritten, pc := y.pc, lent := none, sched := y.sched, ticked := y.ticked
    sys := { x.sys with status := y.sys.status, vstart := y.sys.vstart } } ∧
  y.sys.status >>> 5 = x.sys.status >>> 5

/-! ### Results of the scalar instructions (R90 to R94) -/

/-- Sign extension of the low `n` bits. -/
def signExt (n : Nat) (x : Word) : Word := BitVec.ofInt 64 (x.setWidth n).toInt

/-- The immediates of formats I and L, sign-extended. -/
def immI (i : BitVec 13) : Word := BitVec.ofInt 64 i.toInt
def immL (i : BitVec 19) : Word := BitVec.ofInt 64 i.toInt

/-- The quotient and the remainder of the signed division, truncated toward zero (R90). -/
def quotient (x y : Word) : Word := if y = 0 then -1 else BitVec.ofInt 64 (x.toInt.tdiv y.toInt)
def remainder (x y : Word) : Word := if y = 0 then x else BitVec.ofInt 64 (x.toInt.tmod y.toInt)

/-- The number of leading zero bits: 64 less the length of the number. -/
def zerosAbove (x : Word) : Word := BitVec.ofNat 64 (64 - x.toNat.size)

/-- The number of one bits. -/
def onesIn (x : Word) : Word := BitVec.ofNat 64 ((List.range 64).countP (fun i => x.toNat.testBit i))

/-- The rows of R90, R91 and R92: destination, exposed latency L, result. -/
def scalarRow : Instr → Option (SReg × Nat × (State → Word))
  | .add d a b => some (d, 1, fun s => s.rdS a + s.rdS b)
  | .sub d a b => some (d, 1, fun s => s.rdS a - s.rdS b)
  | .mul d a b => some (d, 3, fun s => BitVec.ofNat 64 ((s.rdS a).toNat * (s.rdS b).toNat))
  | .mulh d a b => some (d, 3, fun s => BitVec.ofInt 64 ((s.rdS a).toInt * (s.rdS b).toInt / 2 ^ 64))
  | .mulhu d a b => some (d, 3, fun s => BitVec.ofNat 64 ((s.rdS a).toNat * (s.rdS b).toNat / 2 ^ 64))
  | .div d a b => some (d, 20, fun s => quotient (s.rdS a) (s.rdS b))
  | .divu d a b => some (d, 20, fun s =>
      if s.rdS b = 0 then BitVec.ofNat 64 (2 ^ 64 - 1) else BitVec.ofNat 64 ((s.rdS a).toNat / (s.rdS b).toNat))
  | .rem d a b => some (d, 20, fun s => remainder (s.rdS a) (s.rdS b))
  | .remu d a b => some (d, 20, fun s => BitVec.ofNat 64 ((s.rdS a).toNat % (s.rdS b).toNat))
  | .and d a b => some (d, 1, fun s => s.rdS a &&& s.rdS b)
  | .or d a b => some (d, 1, fun s => s.rdS a ||| s.rdS b)
  | .xor d a b => some (d, 1, fun s => s.rdS a ^^^ s.rdS b)
  | .andn d a b => some (d, 1, fun s => s.rdS a &&& ~~~(s.rdS b))
  | .sll d a b => some (d, 1, fun s => s.rdS a <<< ((s.rdS b).extractLsb' 0 6).toNat)
  | .srl d a b => some (d, 1, fun s => BitVec.ofNat 64 ((s.rdS a).toNat / 2 ^ ((s.rdS b).extractLsb' 0 6).toNat))
  | .sra d a b => some (d, 1, fun s => BitVec.ofInt 64 ((s.rdS a).toInt / 2 ^ ((s.rdS b).extractLsb' 0 6).toNat))
  | .min d a b => some (d, 1, fun s => BitVec.ofInt 64 (Min.min (s.rdS a).toInt (s.rdS b).toInt))
  | .max d a b => some (d, 1, fun s => BitVec.ofInt 64 (Max.max (s.rdS a).toInt (s.rdS b).toInt))
  | .minu d a b => some (d, 1, fun s => BitVec.ofNat 64 (Min.min (s.rdS a).toNat (s.rdS b).toNat))
  | .maxu d a b => some (d, 1, fun s => BitVec.ofNat 64 (Max.max (s.rdS a).toNat (s.rdS b).toNat))
  | .clz d a => some (d, 1, fun s => zerosAbove (s.rdS a))
  | .popc d a => some (d, 1, fun s => onesIn (s.rdS a))
  | .sextB d a => some (d, 1, fun s => signExt 8 (s.rdS a))
  | .sextH d a => some (d, 1, fun s => signExt 16 (s.rdS a))
  | .sextW d a => some (d, 1, fun s => signExt 32 (s.rdS a))
  | .zextB d a => some (d, 1, fun s => BitVec.ofNat 64 ((s.rdS a).toNat % 2 ^ 8))
  | .zextH d a => some (d, 1, fun s => BitVec.ofNat 64 ((s.rdS a).toNat % 2 ^ 16))
  | .zextW d a => some (d, 1, fun s => BitVec.ofNat 64 ((s.rdS a).toNat % 2 ^ 32))
  | .addi d a i => some (d, 1, fun s => s.rdS a + immI i)
  | .andi d a i => some (d, 1, fun s => s.rdS a &&& immI i)
  | .ori d a i => some (d, 1, fun s => s.rdS a ||| immI i)
  | .xori d a i => some (d, 1, fun s => s.rdS a ^^^ immI i)
  | .slli d a i => some (d, 1, fun s => s.rdS a <<< i.toNat)
  | .srli d a i => some (d, 1, fun s => BitVec.ofNat 64 ((s.rdS a).toNat / 2 ^ i.toNat))
  | .srai d a i => some (d, 1, fun s => BitVec.ofInt 64 ((s.rdS a).toInt / 2 ^ i.toNat))
  | .movi d i => some (d, 1, fun _ => immL i)
  | .movhi d i => some (d, 1, fun s => immL i * 2 ^ 19 + BitVec.ofNat 64 ((s.rdS d).toNat % 2 ^ 19))
  | .adr d i => some (d, 1, fun s => s.pc + immL i * 4)
  | _ => none

/-- Every bit of a predicate is the one bit of a compare (R93). -/
def fillBits (b : Prop) [Decidable b] : PosBits := if b then BitVec.allOnes 131072 else 0

/-- The rows of R93 and R94: destination and result. -/
def predicateRow : Instr → Option (PReg × (State → PosBits))
  | .cmpEq d a b => some (d, fun s => fillBits (s.rdS a = s.rdS b))
  | .cmpNe d a b => some (d, fun s => fillBits (s.rdS a ≠ s.rdS b))
  | .cmpLt d a b => some (d, fun s => fillBits ((s.rdS a).toInt < (s.rdS b).toInt))
  | .cmpGe d a b => some (d, fun s => fillBits ((s.rdS b).toInt ≤ (s.rdS a).toInt))
  | .cmpLtu d a b => some (d, fun s => fillBits ((s.rdS a).toNat < (s.rdS b).toNat))
  | .cmpGeu d a b => some (d, fun s => fillBits ((s.rdS b).toNat ≤ (s.rdS a).toNat))
  | .cmpiEq d a i => some (d, fun s => fillBits (s.rdS a = immI i))
  | .cmpiNe d a i => some (d, fun s => fillBits (s.rdS a ≠ immI i))
  | .cmpiLt d a i => some (d, fun s => fillBits ((s.rdS a).toInt < i.toInt))
  | .cmpiGe d a i => some (d, fun s => fillBits (i.toInt ≤ (s.rdS a).toInt))
  | .pand d a b => some (d, fun s => s.rdP a &&& s.rdP b)
  | .por d a b => some (d, fun s => s.rdP a ||| s.rdP b)
  | .pxor d a b => some (d, fun s => s.rdP a ^^^ s.rdP b)
  | .pandn d a b => some (d, fun s => s.rdP a &&& ~~~(s.rdP b))
  | .pnot d a => some (d, fun s => ~~~(s.rdP a))
  | .pmov d a => some (d, fun s => s.rdP a)
  | _ => none

/-! ### Control transfer (R100, R101) -/

/-- The rows of R100: when the branch is taken, and its offset. -/
def branchRow : Instr → Option ((State → Prop) × BitVec 19)
  | .bz a off => some (fun s => s.rdS a = 0, off)
  | .bnz a off => some (fun s => s.rdS a ≠ 0, off)
  | .bp a off => some (fun s => (s.rdP a).getLsbD 0 = true, off)
  | .bnp a off => some (fun s => (s.rdP a).getLsbD 0 = false, off)
  | _ => none

/-- The rows of R101: the link register, if the form has one, and the target. -/
def transferRow : Instr → Option (Option SReg × (State → Word))
  | .call d i => some (some d, fun s => s.pc + immL i * 4)
  | .jmp i => some (none, fun s => s.pc + immL i * 4)
  | .callReg d a i => some (some d, fun s => s.rdS a + immI i * 4)
  | .jmpReg a i => some (none, fun s => s.rdS a + immI i * 4)
  | .ret a => some (none, fun s => s.rdS a)
  | _ => none

/-! ### Scalar loads, stores and atomics (R95, R96, R158, R160) -/

/-- The offset of format M: a signed count of accesses of `z` bytes (R68). -/
def offM (off : BitVec 10) (z : Nat) : Word := BitVec.ofInt 64 (off.toInt * z)

/-- The plain loads: destination, address, size, signed. -/
def loadRow : Instr → Option (SReg × (State → Word) × Nat × Bool)
  | .ldB d b off => some (d, fun s => s.rdS b + offM off 1, 1, true)
  | .ldBU d b off => some (d, fun s => s.rdS b + offM off 1, 1, false)
  | .ldH d b off => some (d, fun s => s.rdS b + offM off 2, 2, true)
  | .ldHU d b off => some (d, fun s => s.rdS b + offM off 2, 2, false)
  | .ldW d b off => some (d, fun s => s.rdS b + offM off 4, 4, true)
  | .ldWU d b off => some (d, fun s => s.rdS b + offM off 4, 4, false)
  | .ldD d b off => some (d, fun s => s.rdS b + offM off 8, 8, true)
  | .ldAcq d b _ off => some (d, fun s => s.rdS b + offM off 8, 8, false)
  | _ => none

/-- The plain stores: source, address, size. -/
def storeRow : Instr → Option (SReg × (State → Word) × Nat)
  | .stB d b off => some (d, fun s => s.rdS b + offM off 1, 1)
  | .stH d b off => some (d, fun s => s.rdS b + offM off 2, 2)
  | .stW d b off => some (d, fun s => s.rdS b + offM off 4, 4)
  | .stD d b off => some (d, fun s => s.rdS b + offM off 8, 8)
  | .stRel d b _ off => some (d, fun s => s.rdS b + offM off 8, 8)
  | _ => none

/-- The atomics: destination and comparand, address register, operand register, scope, and the value stored for the old value, the
operand and the comparand. -/
def amoRow : Instr → Option (SReg × SReg × SReg × Scope × (Word → Word → Word → Word))
  | .amoAdd d a b sc => some (d, a, b, sc, fun m x _ => m + x)
  | .amoAnd d a b sc => some (d, a, b, sc, fun m x _ => m &&& x)
  | .amoOr d a b sc => some (d, a, b, sc, fun m x _ => m ||| x)
  | .amoXor d a b sc => some (d, a, b, sc, fun m x _ => m ^^^ x)
  | .amoMin d a b sc => some (d, a, b, sc, fun m x _ => if x.toInt < m.toInt then x else m)
  | .amoMax d a b sc => some (d, a, b, sc, fun m x _ => if m.toInt < x.toInt then x else m)
  | .amoMinu d a b sc => some (d, a, b, sc, fun m x _ => if x.toNat < m.toNat then x else m)
  | .amoMaxu d a b sc => some (d, a, b, sc, fun m x _ => if m.toNat < x.toNat then x else m)
  | .amoSwap d a b sc => some (d, a, b, sc, fun _ x _ => x)
  | .amoCas d a b sc => some (d, a, b, sc, fun m x c => if m = c then x else m)
  | _ => none

/-- No line of the LLC is of a page whose home packs or recodes what it writes: a line that leaves the LLC leaves memory as it is (R369,
R370). -/
def State.unpacked (s : State) : Prop := ∀ e ∈ s.llc, e.2.page.pack = false ∧ e.2.page.grind = false

/-- An ordinary sector of device memory in the base view: a page of HBM4 that no handler and no round region watches and that its home
neither packs nor recodes, no copy of the strand's engine that the access would meet, no write of the strand's agents that the other need
not see yet, a sector that is not BUSY. -/
structure PlainSector (s : State) (p : Page) (va : Word) (write : Bool) : Prop where
  base : s.ctx.view = 0
  hbm : physClass p.pa = .hbm
  unwatched : p.hen = false ∧ p.rgv = false
  noCopy : copyHold s s.ctx va write false = none
  notBusy : tagVcls (s.physTag (p.pa / 128)) ≠ clsBusy
  ordered : ∀ vec, unseen s { s.ctx with vec := vec } (p.pa / 128) = none
  plainHome : p.pack = false ∧ p.grind = false ∧ s.unpacked

/-- The little-endian number of `n` bytes (R5). -/
def bytesLE (f : Nat → Byte) : Nat → Nat
  | 0 => 0
  | n + 1 => (f 0).toNat + 256 * bytesLE (fun k => f (k + 1)) n

/-- A view but for which of its copies stand in its spill pages. -/
def State.viewOf (s : State) (v : Nat) : Option View := (lookupNat v s.views).map (fun x => { x with spilled := [] })

/-- `t` differs from `s` in nothing but what the slices, the LLC and the translation caches hold, the spill pages of views, the handler
events that this raises with the fill that a barista waits for, and who knows of writes. -/
structure SlicesOnly (s t : State) : Prop where
  rest : t = { s with
    dies := t.dies, baristas := t.baristas, unacked := t.unacked, unordered := t.unordered, llc := t.llc, pages := t.pages
    frames := t.frames, translations := t.translations, views := t.views }
  views : ∀ v, t.viewOf v = s.viewOf v
  baristas : ∀ b, t.barista b = { s.barista b with
    queue := (t.barista b).queue, counters := (t.barista b).counters, wait := (t.barista b).wait }

/-- What the homes may do to memory when lines leave the LLC (R369): every tag stays, and of the bytes only those that no element of their
sector uses may become zero. -/
def MemKept (s t : State) : Prop :=
  (∀ k, t.mem.tag k = s.mem.tag k) ∧ ∀ a, t.mem.byte a = s.mem.byte a ∨
    (t.mem.byte a = 0 ∧ ∃ g : Grid, g ≠ .raw ∧ usedBytes g (s.mem.tag (a / 128)) ≤ a % 128)

/-- The `z` bytes at `b`, in one sector, are those of `v`; every other byte reads as before, every other sector keeps its tag, and this
one's changes only from UNDEF to VALID. -/
structure StoredBytes (s t : State) (b z v : Nat) : Prop where
  bytes : ∀ k, k < z → t.mem.byte (b + k) = BitVec.ofNat 8 (v / 2 ^ (8 * k))
  others : ∀ a, a < b ∨ b + z ≤ a → t.loadByte a = s.loadByte a
  tags : ∀ k, k ≠ b / 128 → t.mem.tag k = s.mem.tag k
  own : t.mem.tag (b / 128) = if tagVcls (s.mem.tag (b / 128)) = clsUndef
    then clsValid ++ ((s.mem.tag (b / 128)).extractLsb' 0 14) else s.mem.tag (b / 128)

/-- What an acquire makes known to the vector agent beside its load (R197), and what a release passes on beside its store (R198). -/
def acquired (i : Instr) (t : State) (va : Word) : State := match i with
  | .ldAcq _ _ _ _ => t.acquire va
  | _ => t
def released (i : Instr) (t : State) (va : Word) : State := match i with
  | .stRel _ _ _ _ => t.release va
  | _ => t

/-- A loaded number of `z` bytes in a scalar register (R95). -/
def widen (signed : Bool) (z v : Nat) : Word := if signed then BitVec.ofInt 64 (BitVec.ofNat (8 * z) v).toInt else BitVec.ofNat 64 v

/-- The first byte of an access in physical memory. -/
def placeOf (p : Page) (va : Word) : Nat := 128 * (p.pa / 128) + va.toNat % 128

/-- The element stores and loads of R97: source or destination, address, and the scalar side of the conversion. -/
def elementLoadRow : Instr → Option (SReg × (State → Word) × Side)
  | .ldeF32 d b off => some (d, fun s => s.rdS b + offM off 1, .f32)
  | .ldeI64 d b off => some (d, fun s => s.rdS b + offM off 1, .i64)
  | .ldeRaw d b off => some (d, fun s => s.rdS b + offM off 1, .raw)
  | _ => none

def elementStoreRow : Instr → Option (SReg × (State → Word) × Side)
  | .steF32 d b off => some (d, fun s => s.rdS b + offM off 1, .f32)
  | .steI64 d b off => some (d, fun s => s.rdS b + offM off 1, .i64)
  | .steRaw d b off => some (d, fun s => s.rdS b + offM off 1, .raw)
  | _ => none

/-! ### Special registers (R21 to R23, R54, R204, R306) -/

/-- How a bit of a special register may be written. -/
inductive BitAccess where
  | ro | rw | rwp | w1c | reserved
deriving DecidableEq, Repr

/-- The access of each bit, from the field tables. -/
def bitAccess (r : SysReg) (k : Nat) : BitAccess :=
  match r with
  | .status => if k < 5 then .w1c else if k < 8 then .rw else if k = 8 ∨ k = 15 then .ro else if k < 15 then .rwp else .reserved
  | .cause => if k < 10 then .rwp else .reserved
  | .epc | .edata => .rwp
  | .tvec => if k < 2 then .reserved else .rwp
  | .pfx => if k < 15 then .rwp else .reserved
  | .vcfg => if (5 ≤ k ∧ k < 8) ∨ (26 ≤ k ∧ k < 32) ∨ 50 ≤ k then .reserved else .ro
  | .vstart | .seed | .stripbase => .rw
  | .lease => if k < 24 then .ro else .reserved
  | .blend => if k < 2 then .rwp else if 8 ≤ k ∧ k < 16 then .ro else .reserved
  | .view => if k < 23 then .ro else .reserved
  | .inldepth => if k < 4 then .rwp else if k < 8 then .ro else .reserved
  | .peer => if k < 13 then .ro else .reserved
  | .lanemap | .cycle => .ro

/-- The limits of fields beyond their access: RM is 0 to 4 (R22), BOUND 1 to 8 (R306). -/
def fieldLimit (r : SysReg) (x : Word) : Prop :=
  match r with
  | .status => (x.extractLsb' 5 3).toNat ≤ 4
  | .inldepth => 1 ≤ (x.extractLsb' 0 4).toNat ∧ (x.extractLsb' 0 4).toNat ≤ 8
  | _ => True

/-- What a special register reads as (R114). -/
def sysValue (s : State) (r : SysReg) : Word :=
  match r with
  | .status => s.strand.sys.status
  | .cause => s.strand.sys.cause
  | .epc => s.strand.sys.epc
  | .edata => s.strand.sys.edata
  | .tvec => s.strand.sys.tvec
  | .pfx => s.strand.sys.pfx
  | .vcfg => s.strand.sys.vcfg
  | .vstart => s.strand.sys.vstart
  | .lease => s.strand.sys.lease
  | .lanemap => (s.core (s.strandId / 32)).lanemap
  | .seed => s.strand.sys.seed
  | .stripbase => s.strand.sys.stripbase
  | .blend => s.strand.sys.blend
  | .view => s.strand.sys.view
  | .inldepth => s.strand.sys.inldepth
  | .peer => BitVec.ofNat 64 (Config.deviceId.toNat + if s.mgmt.fab then 4096 else 0)
  | .cycle => s.cycle

/-- The strands that a `sev` of a scope reaches: 32 to a core, 256 to a cluster, 3,072 to a die (R75, R109). -/
def reaches (scope : Scope) (g h : Nat) : Prop :=
  match scope with
  | .strand => g = h
  | .core => g / 32 = h / 32
  | .cluster => g / 256 = h / 256
  | .die => g / 3072 = h / 3072
  | .package | .fabric => True

/-- A strand that the model lists: the one whose turn it is, or another that is not as after reset. -/
def State.listed (s : State) (g : Nat) : Prop := g = s.strandId ∨ (lookupNat g s.others).isSome

/-! ### Vector instructions (R123 to R146, R168 to R172) -/

/-- The strand may run the vector instruction `i` on the elements from sys.vstart to VL: it has the turn, every vector register the
instruction names is declared (R19), the lease is not empty (R17), and some element is left (R123). -/
structure VecReady (s : State) (i : Instr) : Prop where
  strand : s.turn = none
  declared : ∀ r ∈ vregsOf i, r.toNat < s.strand.nreg
  leased : s.strand.grant ≠ 0
  left : s.strand.sys.vstart.toNat < s.strand.vl
  bound : s.strand.vl ≤ s.strand.vlmax ∧ s.strand.vlmax ≤ 131072

/-- A register of a format that fits its slots, without a poison mark. -/
structure PlainReg (s : State) (r : VIdx) (f : Fmt) : Prop where
  format : (s.vreg r).fmt = f
  fits : Fmt.isWide f = false ∧ Fmt.width s.strand.wmax f ≤ s.strand.wmax
  unmarked : (s.vreg r).marks = 0

/-- The floating-point formats whose arithmetic needs no conversion under the default blend table (R59, R60). -/
def plainFloats : List Fmt := [.fp32, .fp16, .bf16]

/-- The arithmetic rows (R127 to R142): destination, operands, class and base latency of R126, and the format of the result for operands
of a format. -/
def vectorRow : Instr → Option (VIdx × List VIdx × Cls × Nat × (Fmt → Fmt))
  | .vadd d a b => some (d, [a, b], .add, 4, id)
  | .vsub d a b => some (d, [a, b], .add, 4, id)
  | .vmul d a b => some (d, [a, b], .mul, 4, id)
  | .vfma d a b => some (d, [a, b, d], .mul, 5, id)
  | .vfms d a b => some (d, [a, b, d], .mul, 5, id)
  | .vmin d a b => some (d, [a, b], .add, 2, id)
  | .vmax d a b => some (d, [a, b], .add, 2, id)
  | .vabs d a => some (d, [a], .add, 2, id)
  | .vneg d a => some (d, [a], .add, 2, id)
  | .vdiv d a b => some (d, [a, b], .xf, 16, id)
  | .vexp d a => some (d, [a], .xf, 12, id)
  | .vlog d a => some (d, [a], .xf, 12, id)
  | .vrcp d a => some (d, [a], .xf, 12, id)
  | .vrsqrt d a => some (d, [a], .xf, 12, id)
  | .vtanh d a => some (d, [a], .xf, 12, id)
  | .vsigm d a => some (d, [a], .xf, 12, id)
  | .vsin d a => some (d, [a], .xf, 12, id)
  | .vcos d a => some (d, [a], .xf, 12, id)
  | .vsel d a b _ => some (d, [a, b], .add, 2, id)
  | .vcvt d a f => some (d, [a], .cv, 3, fun _ => f)
  | .vcvtSat d a f => some (d, [a], .cv, 3, fun _ => f)
  | .vcvtFit d a f => some (d, [a], .cv, 5, fun _ => f)
  | .vbcastF32 d _ f => some (d, [], .cv, 2, fun _ => f)
  | .vbcastI64 d _ f => some (d, [], .cv, 2, fun _ => f)
  | _ => none

/-- The smaller and the greater of two values, −0 below +0; a NaN gives a NaN (R128). -/
def lesser (x y : Val) : Val :=
  if x.isNan ∨ y.isNan then .nan
  else if Val.lt y x ∨ (x.isZero ∧ y.isZero ∧ y.sign = true ∧ x.sign = false) then y else x
def greater (x y : Val) : Val :=
  if x.isNan ∨ y.isNan then .nan
  else if Val.lt x y ∨ (x.isZero ∧ y.isZero ∧ x.sign = true ∧ y.sign = false) then y else x

/-- The exact values of R127, R133, R137, R138 and R142 at a position, and whether an overflow saturates; of a division the quotient by a
divisor that is not zero. -/
def valueRow (s : State) (k : Nat) : Instr → Option (Val × Bool)
  | .vadd _ a b => some (((s.vreg a).val k).add (s.strand.rm == 3) ((s.vreg b).val k), false)
  | .vsub _ a b => some (((s.vreg a).val k).add (s.strand.rm == 3) ((s.vreg b).val k).neg, false)
  | .vmul _ a b => some (((s.vreg a).val k).mul ((s.vreg b).val k), false)
  | .vfma d a b => some ((((s.vreg a).val k).mul ((s.vreg b).val k)).add (s.strand.rm == 3) ((s.vreg d).val k), false)
  | .vfms d a b => some ((((s.vreg a).val k).mul ((s.vreg b).val k)).neg.add (s.strand.rm == 3) ((s.vreg d).val k), false)
  | .vmin _ a b => some (lesser ((s.vreg a).val k) ((s.vreg b).val k), false)
  | .vmax _ a b => some (greater ((s.vreg a).val k) ((s.vreg b).val k), false)
  | .vabs _ a => some (((s.vreg a).val k).abs, false)
  | .vneg _ a => some (((s.vreg a).val k).neg, false)
  | .vdiv _ a b => if ((s.vreg b).val k).isZero then none else some (((s.vreg a).val k).div ((s.vreg b).val k), false)
  | .vsel _ a b c => some (if (s.rdP c).getLsbD k then (s.vreg a).val k else (s.vreg b).val k, false)
  | .vcvt _ a _ => some ((s.vreg a).val k, false)
  | .vcvtSat _ a _ => some ((s.vreg a).val k, true)
  | .vcvtFit _ a _ => some ((s.vreg a).val k, true)
  | .vbcastF32 _ a _ => some (decodeEl .fp32 127 127 (s.rdS a), false)
  | .vbcastI64 _ a _ => some (Val.ofInt (s.rdS a).toInt, false)
  | _ => none

/-- The functions of R130. -/
def functionRow : Instr → Option (VIdx × Func)
  | .vexp _ a => some (a, .exp)
  | .vlog _ a => some (a, .log)
  | .vrcp _ a => some (a, .rcp)
  | .vrsqrt _ a => some (a, .rsqrt)
  | .vtanh _ a => some (a, .tanh)
  | .vsigm _ a => some (a, .sigm)
  | .vsin _ a => some (a, .sin)
  | .vcos _ a => some (a, .cos)
  | _ => none

/-- The bitwise operations of R134 on the bits of two elements. -/
def bitsRow : Instr → Option (VIdx × VIdx × VIdx × (Word → Word → Word))
  | .vand d a b => some (d, a, b, fun x y => x &&& y)
  | .vor d a b => some (d, a, b, fun x y => x ||| y)
  | .vxor d a b => some (d, a, b, fun x y => x ^^^ y)
  | .vandn d a b => some (d, a, b, fun x y => x &&& ~~~y)
  | .vnot d a => some (d, a, a, fun x _ => ~~~x)
  | _ => none

/-- The shifts on an element of `w` bits by a count. -/
def shiftRow : Instr → Option (VIdx × VIdx × VIdx × ((w : Nat) → BitVec w → Nat → BitVec w))
  | .vsll d a b => some (d, a, b, fun _ x n => x <<< n)
  | .vsrl d a b => some (d, a, b, fun _ x n => x >>> n)
  | .vsra d a b => some (d, a, b, fun _ x n => x.sshiftRight n)
  | _ => none

/-- The compares of R132 on exact values. -/
def compareRow : Instr → Option (PReg × VIdx × VIdx × (Val → Val → Bool))
  | .vcmpEq d a b => some (d, a, b, Val.eq)
  | .vcmpNe d a b => some (d, a, b, fun x y => !Val.eq x y)
  | .vcmpLt d a b => some (d, a, b, Val.lt)
  | .vcmpLe d a b => some (d, a, b, fun x y => Val.lt x y || Val.eq x y)
  | .vcmpGt d a b => some (d, a, b, fun x y => Val.lt y x)
  | .vcmpGe d a b => some (d, a, b, fun x y => Val.lt y x || Val.eq x y)
  | _ => none

/-- The reductions (R143 to R145): destination, operands, base latency, operation, start value, and the leaf of an active position. -/
def reduceRow (s : State) : Instr → Option (SReg × List VIdx × Nat × RedOp × Option Word × (Nat → Val))
  | .vredAdd d a b => some (d, [a], 6, .add, if b = 0 then none else some (s.rdS b), (s.vreg a).val)
  | .vredMin d a b => some (d, [a], 6, .min, if b = 0 then none else some (s.rdS b), (s.vreg a).val)
  | .vredMax d a b => some (d, [a], 6, .max, if b = 0 then none else some (s.rdS b), (s.vreg a).val)
  | .vdot d a b => some (d, [a, b], 8, .add, some (s.rdS d), fun k => ((s.vreg a).val k).mul ((s.vreg b).val k))
  | _ => none

/-- The identity leaf of a floating-point reduction (R144): −0, +∞ or −∞. -/
def identityLeaf : RedOp → Val
  | .add => .fin true 0 1
  | .min => .inf false
  | .max => .inf true

/-- The active positions that a predicate selects (R169, R172). -/
def State.chosen (s : State) (p : PReg) : List Nat := s.actives.filter (fun k => (s.rdP p).getLsbD k)

/-- The bit reductions: destination, operand, start register, operation, identity. -/
def reduceBitsRow : Instr → Option (SReg × VIdx × SReg × (Word → Word → Word) × (Nat → Word))
  | .vredAnd d a b => some (d, a, b, fun x y => x &&& y, fun w => BitVec.ofNat 64 (2 ^ w - 1))
  | .vredOr d a b => some (d, a, b, fun x y => x ||| y, fun _ => 0)
  | .vredXor d a b => some (d, a, b, fun x y => x ^^^ y, fun _ => 0)
  | _ => none

/-- The moves that take each element from a position of their source: destination, source, index register, and the source position of a
position for the state; none keeps the element, and a position outside the vector gives zero bits (R168 to R170). -/
def moveRow : Instr → Option (VIdx × VIdx × Option VIdx × (State → Nat → Option Int))
  | .vperm d a b => some (d, a, some b, fun s i => some ((s.vreg b).index s.strand.wmax i))
  | .vrot d a b => some (d, a, none, fun s i => some (((i + (s.rdS b).toNat) % s.strand.vl : Nat) : Int))
  | .vslideup d a b => some (d, a, none, fun s i => if (s.rdS b).toNat ≤ i then some ((i : Int) - (s.rdS b).toNat) else none)
  | .vslidedn d a b => some (d, a, none, fun s i => some (((i + (s.rdS b).toNat) : Nat) : Int))
  | _ => none

/-- The end of a vector instruction that has run all its elements: sys.vstart is 0, and control goes on at the next word.
DEDUCED (unsafe, log 16). -/
def State.vecDone (s : State) : State := ({ s with strand := s.strand.setVstart 0 }).retire

/-! ### Vector memory (R148 to R166) -/

/-- A vector memory instruction: its register, its access, the registers whose widths it checks, and how it performs the elements that
have passed the checks of R149. -/
structure MemRow where
  reg : VIdx
  access : VecAccess
  formats : List VIdx
  perform : State → List Elt → Nat → Except Stop State

/-- The rows: the addresses of unit-stride, strided and indexed accesses (R68, R150), reads, writes and atomics. -/
def memRow (s : State) : Instr → Option MemRow
  | .vld d b off => let x := loadAccess (unitAddr (s.rdS b + offM off 128)) (s.rdS b + offM off 128) none (some (.ld, 24, d))
      some ⟨d, x, [], performLoad d x 24 false (plainFetch (x.ctx s))⟩
  | .vlds d a b => let x := loadAccess (strideAddr (s.rdS a) (s.rdS b)) (s.rdS a) none (some (.ld, 24, d))
      some ⟨d, x, [], performLoad d x 24 false (plainFetch (x.ctx s))⟩
  | .vldx d a b => let x := loadAccess (s.indexAddr (s.rdS a) b) (s.rdS a) (some b) (some (.ld, 32, d))
      some ⟨d, x, [b], performLoad d x 32 false (plainFetch (x.ctx s))⟩
  | .vldSc d b off => let x := loadAccess (unitAddr (s.rdS b + offM off 128)) (s.rdS b + offM off 128) none none
      some ⟨d, x, [], withTickets (performLoad d x 24 true (plainFetch (x.ctx s)))⟩
  | .vldBndS d b k r => let x := loadAccess (unitAddr (s.rdS b)) (s.rdS b) none (some (.ld, 24, d))
      some ⟨d, x, [], performLoad d x 24 false (boundedFetch (s.vecCtx false) (s.rdS r - k.setWidth 64) true)⟩
  | .vldBndF d b k r => let x := loadAccess (unitAddr (s.rdS b)) (s.rdS b) none (some (.ld, 24, d))
      some ⟨d, x, [], performLoad d x 24 false (boundedFetch (s.vecCtx false) (s.rdS r - k.setWidth 64) false)⟩
  | .vst d b off => let x := storeAccess (unitAddr (s.rdS b + offM off 128)) (s.rdS b + offM off 128) none d false
      some ⟨d, x, [d], performStore d x false⟩
  | .vsts d a b => let x := storeAccess (strideAddr (s.rdS a) (s.rdS b)) (s.rdS a) none d false
      some ⟨d, x, [d], performStore d x false⟩
  | .vstx d a b => let x := storeAccess (s.indexAddr (s.rdS a) b) (s.rdS a) (some b) d false
      some ⟨d, x, [d, b], performStore d x false⟩
  | .vstSc d b off => let x := storeAccess (unitAddr (s.rdS b + offM off 128)) (s.rdS b + offM off 128) none d true
      some ⟨d, x, [d], withTickets (performStore d x true)⟩
  | .vsctadd d a b sc => let x := rmwAccess s a b [d] sc (.st, 0, d)
      some ⟨d, x, [d, b], performScatter x d sc⟩
  | .vamoAdd d a b sc => let x := rmwAccess s a b [d] sc (.ld, 40, d)
      some ⟨d, x, [d, b], performVamo x .add d sc⟩
  | .vamoMin d a b sc => let x := rmwAccess s a b [d] sc (.ld, 40, d)
      some ⟨d, x, [d, b], performVamo x .min d sc⟩
  | .vamoMax d a b sc => let x := rmwAccess s a b [d] sc (.ld, 40, d)
      some ⟨d, x, [d, b], performVamo x .max d sc⟩
  | .vamoSwap d a b sc => let x := rmwAccess s a b [d] sc (.ld, 40, d)
      some ⟨d, x, [d, b], performVamo x .swap d sc⟩
  | .vamoCas d a b sc => let x := rmwAccess s a b [d, d + 1] sc (.ld, 40, d)
      some ⟨d, x, [d, d + 1, b], performVamo x .cas d sc⟩
  | _ => none

/-- A vector memory instruction that accesses one element, that of position `k`, on a page of grid `g`, as R149 lets it: the element is `w`
bytes at `va`, in an ordinary sector on page `q`, every register it uses is declared, fits its slots and carries no mark, and an SC form
holds its ticket (R375). -/
structure OneElement (s : State) (i : Instr) (m : MemRow) (g : Grid) (k w : Nat) (va : Word) (q : Page) : Prop where
  ready : VecReady s i
  widths : s.strand.wmax = 8 ∨ s.strand.wmax = 16 ∨ s.strand.wmax = 32
  interlocked : s.exposed = false
  outside : s.strand.depth = 0
  one : s.strand.sys.vstart.toNat = k ∧ s.strand.vl = k + 1 ∧ s.guardAt k = true
  pair : ∀ d a b sc, i = .vamoCas d a b sc → d.toNat + 1 < s.strand.nreg
  index : ∀ b, m.access.index = some b → indexFormat (s.vreg b).fmt = true ∧ (s.vreg b).isUndef = false ∧ (s.vreg b).marks = 0
  fits : ∀ r ∈ m.formats, s.strand.tooWide (s.vreg r).fmt = false
  clean : ∀ r ∈ m.access.data, (s.vreg r).marks = 0
  ticket : (∃ d b off, i = .vldSc d b off ∨ i = .vstSc d b off) → 1 ≤ s.strand.tickets
  width : w = g.width s.strand.wmax / 8
  base : ∃ p, translate s s.ctx m.access.kind m.access.base = .ok p ∧ p.grid = g
  place : va = m.access.addr k w ∧ va.toNat % w = 0 ∧ translate s s.ctx m.access.kind va = .ok q ∧ q.grid = g
  sector : PlainSector s q va (m.access.kind != .read)

/-- The greatest and the least number of INT32 bound a result (R63). -/
def clampInt32 (n : Int) : Int := Max.max (-(2 ^ 31)) (Min.min (2 ^ 31 - 1) n)

/-- The element read-modify-writes (R156, R161) on INT32: the register, whether it receives the old element, and the new number for the old
one, the operand and, for `vamo.cas`, the new value. -/
def elementRmwRow : Instr → Option (VIdx × Bool × (Int → Int → Int → Int))
  | .vsctadd d _ _ _ => some (d, false, fun m x _ => clampInt32 (m + x))
  | .vamoAdd d _ _ _ => some (d, true, fun m x _ => clampInt32 (m + x))
  | .vamoMin d _ _ _ => some (d, true, fun m x _ => Min.min m x)
  | .vamoMax d _ _ _ => some (d, true, fun m x _ => Max.max m x)
  | .vamoSwap d _ _ _ => some (d, true, fun _ x _ => x)
  | .vamoCas d _ _ _ => some (d, true, fun m x c => if m = x then c else m)
  | _ => none

/-- The strip accesses (R175): the handle, the register, whether it is stored, whether the stream advances, and how it performs. -/
def stripRow : Instr → Option (HReg × VIdx × Bool × Bool × (State → List Elt → Nat → Except Stop State))
  | .stripLd d h => some (h, d, false, true, performStripLoad d)
  | .stripLdNa d h => some (h, d, false, false, performStripLoad d)
  | .stripSt d h => some (h, d, true, true, performStripStore d)
  | .stripStNa d h => some (h, d, true, false, performStripStore d)
  | _ => none

/-! ### Matrix instructions, copies and transforms (R246 to R274) -/

/-- The multiply-accumulates of R250: tile, operand A, source of operand B, whether the tile starts at zero, whether ternary. -/
def macRow : Instr → Option (AReg × VIdx × BSource × Bool × Bool)
  | .mma d a b => some (d, a, .reg b, false, false)
  | .mmaW d a w => some (d, a, .slot w, false, false)
  | .mmaZ d a b => some (d, a, .reg b, true, false)
  | .mmaWz d a w => some (d, a, .slot w, true, false)
  | .mmaT d a b => some (d, a, .reg b, false, true)
  | .mmaTW d a w => some (d, a, .slot w, false, true)
  | .mmaTZ d a b => some (d, a, .reg b, true, true)
  | .mmaTWz d a w => some (d, a, .slot w, true, true)
  | _ => none

/-- Operand B is a register of format `g`, or a weight slot of the tile's size that holds elements of format `g` and no codebook;
neither UNDEF nor poisoned. -/
def PlainB (s : State) (b : BSource) (g : Fmt) : Prop :=
  match b with
  | .reg r => PlainReg s r g ∧ (s.vreg r).isUndef = false
  | .slot w => ∃ sl, s.strand.weights[w.toNat] = some sl ∧ sl.n = s.strand.tileState.n ∧ sl.k = s.strand.tileState.k ∧
      sl.codebook = none ∧ tagFormat sl.tag = g ∧ tagVcls sl.tag = clsValid ∧ sl.marks = []

/-- The value of element `p` of operand B. -/
def State.valueOfB (s : State) (b : BSource) (p : Nat) : Val :=
  match b with
  | .reg r => (regOperand (s.vreg r)).val p
  | .slot w => match s.strand.weights[w.toNat] with
    | some sl => (slotOperand sl none).val p
    | none => .nan

/-- The copies of R261 to R263: destination of the promise, ends, source and destination base, rows in the order of the instruction. -/
def copyRow (s : State) : Instr → Option (SReg × BitVec 2 × Word × Word × List CopyRow)
  | .cpStart d a ends => some (d, ends, s.rdS a, s.rdS (a + 1), [⟨s.rdS a, s.rdS (a + 1), (s.rdS (a + 2)).toNat⟩])
  | .cp2d d a ends => some (d, ends, s.rdS a, s.rdS (a + 1), (List.range ((s.rdS (a + 2)).toNat / 2 ^ 32)).map (fun r =>
      ⟨s.rdS a + BitVec.ofNat 64 r * s.rdS (a + 3), s.rdS (a + 1) + BitVec.ofNat 64 r * s.rdS (a + 4),
        (s.rdS (a + 2)).toNat % 2 ^ 32⟩))
  | .cpGth d a b ends => some (d, ends, s.rdS a, s.rdS (a + 1),
      (s.actives.zip (List.range s.actives.length)).map (fun p =>
        ⟨s.rdS a + BitVec.ofInt 64 ((s.vreg b).index s.strand.wmax p.1) * s.rdS (a + 2),
          s.rdS (a + 1) + BitVec.ofNat 64 p.2 * s.rdS (a + 2), (s.rdS (a + 2)).toNat⟩))
  | _ => none

/-- The conditions of each copy beyond those of its rows: its guard, the strides, the index register. -/
def copyReady (s : State) (i : Instr) : Prop :=
  match i with
  | .cpStart _ _ _ => s.guard0 = true
  | .cp2d _ a _ => s.guard0 = true ∧ (s.rdS (a + 3)).toNat % 128 = 0 ∧ (s.rdS (a + 4)).toNat % 128 = 0
  | .cpGth _ a b _ => VecReady s i ∧ indexFormat (s.vreg b).fmt = true ∧ (s.vreg b).isUndef = false ∧ (s.vreg b).marks = 0 ∧
      (s.rdS a).toNat % 128 = 0 ∧ (s.rdS (a + 1)).toNat % 128 = 0
  | _ => False

/-- One end of a sector of a copy (R261 to R263): an offset of the allocation, or an address that translates. -/
def CopyEndAt (s : State) (strip : Bool) (acc : Access) (a : Word) (e : CopyEnd) : Prop :=
  if strip then e = .strip a.toNat else ∃ p, translate s s.ctx acc a = .ok p ∧ e = .mem a p

/-- A byte of the strand's strip allocation as a stream reads it (R271): a byte of an UNDEF sector is 0. -/
def State.stripByte (s : State) (off : Nat) : Byte :=
  if tagVcls (s.stripRead off).tag = clsUndef then 0 else (s.stripRead off).bits.extractLsb' (8 * (off % 128)) 8

/-- A stream transform of one element, that of position `k`, whose `n` bytes lie at `off` of the allocation, in a valid RAW window that
does not end before them (R271, R272), with no copy of the strand under way. -/
structure StreamAt (s : State) (h : HReg) (k n off : Nat) : Prop where
  one : s.strand.sys.vstart.toNat = k ∧ s.strand.vl = k + 1
  widths : s.strand.wmax = 8 ∨ s.strand.wmax = 16 ∨ s.strand.wmax = 32
  window : s.strand.h[h.toNat].valid = true ∧ s.strand.h[h.toNat].grid = 3
  inside : s.strand.h[h.toNat].pos.toNat + n ≤ s.strand.h[h.toNat].len.toNat
  place : off = s.strand.h[h.toNat].base.toNat + s.strand.h[h.toNat].pos.toNat
  allocated : off + n ≤ s.strand.strip.length * 16384
  idle : copiesOf s s.strandId = []

/-- The stream decoders of R270: destination, stream, format, varint, signed. -/
def decoderRow : Instr → Option (VIdx × HReg × Fmt × Bool × Bool)
  | .vxfUvar d h f => some (d, h, f, true, false)
  | .vxfSvar d h f => some (d, h, f, true, true)
  | .vxfUnpk d h f => some (d, h, f, false, false)
  | _ => none

/-- The stream encoders: source, stream, varint, signed. -/
def encoderRow : Instr → Option (VIdx × HReg × Bool × Bool)
  | .vxfEuvar d h => some (d, h, true, false)
  | .vxfEsvar d h => some (d, h, true, true)
  | .vxfPack d h => some (d, h, false, false)
  | _ => none

/-! ### Instructions that drain first (R26) -/

/-- A strand that takes no trap and has nothing to drain. -/
structure Quiet (s : State) : Prop where
  strand : s.turn = none
  noTrap : s.strand.tip = false
  drained : drained s s.strandId = true

/-- The judge of an open fork `seq` whose rivals have all ended (R211). -/
structure JudgeReady (s : State) (seq : Nat) : Prop where
  quiet : Quiet s
  judge : s.strand.judge = true
  fork : ∃ f, s.strand.fork = some f ∧ f.seq = seq
  ended : (s.rivals seq).all Rival.terminal = true

/-- A chosen view's content can go to its parent at once (R211): the parent's outbox has room, and in the base view no sector is
BUSY and every message finds room. -/
def Committable (s : State) (v : View) : Prop :=
  if s.strand.vid = 0 then
    v.copies.find? (fun x => tagVcls (s.physTag x.1) == clsBusy) = none ∧ crowdedSlice s v.outbox = none
  else v.outbox.length ≤ match lookupNat s.strand.vid s.views with
    | some p => 64 - p.outbox.length
    | none => 0

/-! ### Memory that an instruction reads and then writes (R96, R346, R352) -/

/-- The sectors of the table entries that a walk from `table` reads for `va`, at most `n` of them. -/
def tableSectors (s : State) (va : Word) (table : Nat) : Nat → List Nat
  | 0 => []
  | n + 1 =>
    let pa := table + 16 * field va (13 + 10 * n) 10
    let w : Word := BitVec.ofNat 64 (s.physBytes pa 8)
    pa / 128 :: if field w 1 1 = 1 then [] else tableSectors s va (field w 14 38 * 2 ^ 14) n

/-- Every walk of the strand reads the tables as they stand: nothing is in the translation caches (R353), and it has no write that its
walks need not see (R352). -/
def State.walksFresh (s : State) : Prop := s.translations = [] ∧ ∀ u ∈ s.unordered, u.gid = s.strandId → u.walk = false

/-- `va` translates to `p` by a walk of the tables as they stand, and no table that says so lies in one of the sectors `w`, which the
instruction writes. -/
structure MapsBeside (s : State) (acc : Access) (va : Word) (p : Page) (w : List Nat) : Prop where
  walked : translate s s.ctx acc va = .ok p
  fresh : s.walksFresh
  beside : ∀ k ∈ tableSectors s va ((lookupNat s.ctx.asid.toNat (s.die s.ctx.die).roots).getD 0) 4, k ∉ w

/-- A place that an instruction can read, or write, at once: it lies in an ordinary sector that is neither malformed nor POISON. -/
structure PlainPlace (s : State) (acc : Access) (va : Word) (p : Page) (w : List Nat) : Prop where
  maps : MapsBeside s acc va p w
  sector : PlainSector s p va (acc != .read)
  form : malformedSector p.grid (s.mem.tag (p.pa / 128)) = false
  clean : tagVcls (s.mem.tag (p.pa / 128)) ≠ clsPoison

/-- The doubleword at `va` on page `p`. -/
def State.wordAt (s : State) (p : Page) (va : Word) : Word := BitVec.ofNat 64 (bytesLE (fun j => s.loadByte (placeOf p va + j)) 8)

/-- The 1,024 bits of a sector of memory. -/
def State.bitsOf (s : State) (p : Page) : Nat := (s.mem.sector (p.pa / 128)).bits.toNat

/-- A well-formed frame at `a`, not UNDEF (R303). -/
structure FrameAt (s : State) (a : Word) (p : Page) (w : List Nat) : Prop where
  place : PlainPlace s .read a p w
  holds : tagVcls (s.mem.tag (p.pa / 128)) ≠ clsUndef
  form : frameOk (s.bitsOf p) = true

/-- An area of `n` sectors at `a` that holds the number `h` (R282). -/
def AreaHolds (s : State) (a : Word) (n h : Nat) : Prop :=
  h < 2 ^ (1024 * n) ∧ ∀ i, i < n → ∃ p, translate s s.ctx .read (a + BitVec.ofNat 64 (128 * i)) = .ok p ∧ physClass p.pa = .hbm ∧
    tagVcls (s.physTag (p.pa / 128)) = clsValid ∧ s.bitsOf p = cut h (1024 * i) 1024

/-! ### Handlers (R324 to R340) -/

/-- The barista whose turn it is runs an invocation, and the guard of its instruction is 1. -/
structure Handling (s : State) (b : Nat) (v : Invocation) : Prop where
  turn : s.turn = some b
  running : (s.barista b).invocation = some v
  guard : s.guard0 = true

/-- The message that a handler posts (R333): its hop is one more than that of the event it handles. -/
def postedMessage (v : Invocation) (addr payload source : Word) : HandlerEvent :=
  { kind := 3, sect := 0, dirty := 0, hop := v.event.hop + 1, write := false, view := 0, asid := v.event.asid, addr := addr
    payload := payload, source := source }

/-! ### Inputs -/

/-- The device neither records nor replays (R403). -/
def PlainRun (s : State) : Prop := s.mgmt.recording = false ∧ s.mgmt.replaying = false

/-- A transfer that arrives is acted on at once: it waits behind no other. -/
def PlainIngress (s : State) : Prop := PlainRun s ∧ s.ingress = []

end Sys2Proof.Machine
end

