-- ==== Sys2Proof/Certificates/Slice0/Obligations.lean ====
section
/-! DEFINITION. The statements for the provers. Each says in its docstring which rule of spec/ it formalises, or that it is a property
of the model. -/

open Sys2Proof Sys2Proof.Machine

/-! ### Encoding -/

/-- R66, R67, R76: the decoder reads the word of every well-formed instruction as that instruction, with every operand at every value. -/
def Obligations.DecodeOfEncode : Prop :=
  ∀ (i : Instr) (w : BitVec 32), i.wf = true → encode i = some w → decodeWord w = .ok i

/-- R76: a word that decodes is the word of the instruction it decodes to, and that instruction is within its operand limits: no bit of a
word is ignored, and no two words are one instruction. -/
def Obligations.EncodeOfDecode : Prop :=
  ∀ (w : BitVec 32) (i : Instr), decodeWord w = .ok i → i.wf = true ∧ encode i = some w

/-- R97 (the worked example of element access) and the encodings of R90, R92, R107, R252: words written out bit by bit. -/
def Obligations.WrittenWords : Prop :=
  decodeWord 0x36204010 = .ok (.steF32 4 2 16) ∧
  decodeWord 0x34284010 = .ok (.ldeF32 5 2 16) ∧
  decodeWord (0b0000001#7 ++ 0b000101#6 ++ 0b000110#6 ++ 0b000111#6 ++ 0x01#7) = .ok (.sub 5 6 7) ∧
  decodeWord (0b0001111#7 ++ 0b000011#6 ++ 0b1111111111111111111#19) = .ok (.movi 3 (-1)) ∧
  decodeWord (0b0110000#7 ++ 0b000000#6 ++ 0b000000#6 ++ 0b000000#6 ++ 0b0000011#7) = .ok .eret ∧
  decodeWord 0 = .error .reservedMajor

/-! ### A step -/

/-- R14, R66: with no input and no event due, the agent whose turn it is runs the instruction that the word at its pc stands for: an
agent without a lent prefix, whose word the fetch delivers, that stands at no end of a loop pass and at no boundary before one. Around
`exec` a step drops the wait of the agent, leaves the fetched sector in the slice, and ends the turn: the next agent has it, with a clock
once all have had theirs (logs 1 to 3). A result that R235 or R281 has no room for takes a clock of waiting instead. -/
def Obligations.StepRunsDecoded : Prop :=
  ∀ (s : State) (w : BitVec 32) (i : Instr),
    s.inputs = [] → heldIngress s = none → dueEvent s = none → running s = true → agentReady s = true → s.turn = none →
    lateCopy (resume s) s.strandId = false → (resume s).atPassEnd = none → (resume s).atPassStart = none →
    s.lent = none → fetchWord (resume s) = .ok w → decodeWord w = .ok i →
    step s = match exec i (resume s).fetched with
      | .next t => if overFull (resume s).fetched t || overBound (resume s).fetched t then .next (stallClock (resume s).fetched)
        else .next (endTurn (dropReplies t))
      | r => r

/-- R324, R325: the same for a barista, whose word must be of its subset; where the slice still has to fill the sector of the word, the
barista waits for it (R330). R76, R73: a word that does not decode, and one whose prefix pair is illegal, is run as the
illegal-instruction event with that word. An input of the environment is run first, before anything else happens (the model's choice of
order, log 1). With no input, no held transfer and nothing due, an agent that cannot go on passes its turn, and where no agent can go on a
clock passes (the model's choice, log 2). -/
def Obligations.StepOtherwise : Prop :=
  (∀ (s : State) (b : Nat) (v : Invocation) (w : BitVec 32) (i : Instr),
    s.inputs = [] → heldIngress s = none → dueEvent s = none → running s = true → agentReady s = true → s.turn = some b →
    ((resume s).barista b).invocation = some v → v.lost = false →
    s.lent = none → fetchWord (resume s) = .ok w → decodeWord w = .ok i →
    ((resume s).fetched.waiting = false →
      step s = match exec (if baristaMay (unpackWord w) then i else .illegalInstruction w) (resume s).fetched with
        | .next t => .next (endTurn (dropReplies t))
        | r => r) ∧
    ((resume s).fetched.waiting = true → step s = .next (endTurn (dropReplies (resume s).fetched)))) ∧
  (∀ (s : State) (w : BitVec 32),
    ((∀ i, decodeWord w ≠ .ok i) → issueOf s w = .illegalInstruction w) ∧
    (∀ l, s.lent = some l → pairLegal l (unpackWord w) s.strand.nreg = false → issueOf s w = .illegalInstruction w)) ∧
  (∀ (s : State) (i : Instr) (l : List Instr), s.inputs = i :: l → step s = exec i { s with inputs := l }) ∧
  (∀ s : State, s.inputs = [] → heldIngress s = none → dueEvent s = none → (running s && agentReady s) = false →
    step s = .next (endTurn s.offered) ∧ (readyAgents s.offered = [] → (endTurn s.offered).cycle = s.cycle + 1))

/-! ### Reset and invariants -/

/-- R409, R404, R408, R22, R19, R20, R366: after module reset the management state is 0, the journal size 16, the error thresholds 256 and
16, no strand runs, its status has NE alone set, its registers are zero and its bindings invalid, and memory reads zero bytes under the
tag 0x5FC0. Values of registers the spec gives no reset value for are the model's (logs 5 and 6) and not part of this statement. -/
def Obligations.ResetState : Prop :=
  State.reset.mgmt.mgmtst = 0 ∧ State.reset.mgmt.jrnsize = 16 ∧ State.reset.mgmt.lrthr = 256 ∧ State.reset.mgmt.asthr = 16 ∧
  (∀ g, (State.reset.strandAt g).phase = .free ∧ (State.reset.strandAt g).sys.status = 0x4000) ∧
  (∀ r : SReg, State.reset.rdS r = 0) ∧ (∀ r : PReg, State.reset.rdP r = if r = 0 then BitVec.allOnes 131072 else 0) ∧
  (∀ r : QReg, State.reset.strand.q[r.toNat] = none) ∧ (∀ r : HReg, State.reset.strand.h[r.toNat].valid = false) ∧
  (∀ r : VIdx, (State.reset.vreg r).tag = 0x5FC0 ∧ ∀ k, (State.reset.vreg r).slot k = 0) ∧
  (∀ a, State.reset.mem.byte a = 0) ∧ (∀ k, State.reset.mem.tag k = 0x5FC0)

/-- Memory stands in canonical form after reset. -/
def Obligations.ResetCanonical : Prop := State.reset.Canonical

/-- Every step keeps memory in canonical form, so that equal memories are equal data (a property of the model). -/
def Obligations.StepKeepsCanonical : Prop :=
  ∀ s t : State, s.Canonical → step s = .next t → t.Canonical

/-! ### Registers and results -/

/-- R19, R324: `s0` reads 0 and `p0` all ones, and writes to them are discarded, for a strand and for a barista. R72, R19: in an interlocked
region a scalar result is in its register at once, with its flags, and in the register that a lent copy names; every other register keeps
its value. R324, R72: a handler's scalar result. R24, R235: in an exposed region a result stands in the commit buffer until schedule clock
t + L, with the flags that become visible with it, and the register keeps its value till then. -/
def Obligations.RegisterWrites : Prop :=
  (∀ (s : State) (n : Nat) (v : Word) (p : PosBits),
    s.rdS 0 = 0 ∧ s.rdP 0 = BitVec.allOnes 131072 ∧
    (s.turn = none → s.exposed = false → s.copyTo = none → s.putS n 0 v 0 = s ∧ s.putP n 0 p 0 = s) ∧
    (∀ b, s.turn = some b → s.copyTo = none → (s.putS n 0 v 0).barista b = s.barista b ∧ (s.putP n 0 p 0).barista b = s.barista b)) ∧
  (∀ (s : State) (n : Nat) (d : SReg) (v : Word) (fl : Sticky), s.turn = none → s.exposed = false →
    (∀ r : SReg, (s.putS n d v fl).rdS r = if r ≠ 0 ∧ (r = d ∨ s.copyTo = some r) then v else s.rdS r) ∧
    (s.putS n d v fl) = { s with strand := { s.strand with
      s := (s.putS n d v fl).strand.s, sys := { s.strand.sys with status := s.strand.sys.status ||| fl.setWidth 64 } } }) ∧
  (∀ (s : State) (b n : Nat) (d : SReg) (v : Word) (fl : Sticky), s.turn = some b →
    (∀ r : SReg, (s.putS n d v fl).rdS r = if r ≠ 0 ∧ (r = d ∨ s.copyTo = some r) then v else s.rdS r) ∧
    s.putS n d v fl = s.setBarista b { s.barista b with s := ((s.putS n d v fl).barista b).s }) ∧
  (∀ (s : State) (n : Nat) (d : SReg) (v : Word) (fl : Sticky), s.exposed = true →
    (∀ r : SReg, (s.putS n d v fl).rdS r = s.rdS r) ∧
    ∃ l, s.putS n d v fl = { s with strand := { s.strand with sched := { s.strand.sched with
        commits := s.strand.sched.commits ++ [{ due := s.strand.sched.clock + n, dests := .s d v :: l, flags := fl, vec := false
                                                issued := some s.strand.sched.clock }] } } } ∧
      l = match s.copyTo with
        | some c => if c = d then [] else [.s c v]
        | none => [])

/-- R89 to R92, R71: every scalar instruction with an `s` result, its guard being 1, writes the value of its row with the exposed latency of
its row, and control goes on at the next word. For a strand in either kind of region and for a handler. R93, R94, R71: every compare and
predicate instruction, its guard being 1, writes the value of its row with L = 1. R93: the encodings of the compares, whose one-bit
result goes to every bit of the predicate, a write to `p0` being discarded. -/
def Obligations.ScalarResults : Prop :=
  (∀ (i : Instr) (d : SReg) (n : Nat) (f : State → Word) (s : State),
    scalarRow i = some (d, n, f) → i.wf = true → s.guard0 = true → exec i s = .next (s.putS n d (f s) 0).retire) ∧
  (∀ (i : Instr) (d : PReg) (f : State → PosBits) (s : State),
    predicateRow i = some (d, f) → s.guard0 = true → exec i s = .next (s.putP 1 d (f s) 0).retire) ∧
  (∀ (d : PReg) (a b : SReg) (k : BitVec 13),
    (∀ q ∈ [(Instr.cmpEq d a b, 0), (.cmpNe d a b, 1), (.cmpLt d a b, 2), (.cmpGe d a b, 3), (.cmpLtu d a b, 4), (.cmpGeu d a b, 5)],
      encode q.1 = some (0x09#7 ++ 0#2 ++ d ++ a ++ b ++ BitVec.ofNat 7 q.2)) ∧
    encode (.cmpiEq d a k) = some (0x0A#7 ++ 0#2 ++ d ++ a ++ k) ∧ encode (.cmpiNe d a k) = some (0x0B#7 ++ 0#2 ++ d ++ a ++ k) ∧
    encode (.cmpiLt d a k) = some (0x0C#7 ++ 0#2 ++ d ++ a ++ k) ∧ encode (.cmpiGe d a k) = some (0x0D#7 ++ 0#2 ++ d ++ a ++ k)) ∧
  (∀ (s : State) (n : Nat) (d : PReg) (v : PosBits), s.turn = none → s.exposed = false → s.copyTo = none →
    ∀ r : PReg, (s.putP n d v 0).rdP r = if r ≠ 0 ∧ r = d then v else s.rdP r)

/-- R71: a scalar instruction, a branch, a jump, a load, a store, an atomic, `trap`, `brk` or `mts` whose guard is 0 has no effect: control
goes on at the next word, and the schedule clock advances in an exposed region. -/
def Obligations.GuardedOff : Prop :=
  ∀ (i : Instr) (s : State), i.wf = true → s.guard0 = false → s.turn = none →
    ((scalarRow i).isSome ∨ (predicateRow i).isSome ∨ (branchRow i).isSome ∨ (transferRow i).isSome ∨ (loadRow i).isSome ∨
      (storeRow i).isSome ∨ (amoRow i).isSome ∨ (∃ c, i = .trap c) ∨ i = .brk ∨ (∃ r x, i = .mts r x) ∨ (∃ d r, i = .mfs d r)) →
    exec i s = .next { s with strand := { s.strand with
      pc := s.strand.pc + 4, lent := none, ticked := s.strand.ticked || s.exposed
      sched := if s.exposed then { s.strand.sched with clock := s.strand.sched.clock + 1 } else s.strand.sched } }

/-- R89, R71, R72: what a scalar instruction with a register result leaves alone in an interlocked region: every register but its
destination and the register of a lent copy, all special registers and flags, the rest of the strand, memory and the device. -/
def Obligations.ScalarFrame : Prop :=
  ∀ (i : Instr) (d : SReg) (n : Nat) (f : State → Word) (s t : State),
    scalarRow i = some (d, n, f) → i.wf = true → s.turn = none → s.exposed = false → exec i s = .next t →
    t = { s with strand := { s.strand with s := t.strand.s, pc := s.strand.pc + 4, lent := none } } ∧
    (∀ r : SReg, r ≠ d → s.copyTo ≠ some r → t.rdS r = s.rdS r) ∧ (∀ a, t.mem.byte a = s.mem.byte a)

/-- R100: a branch whose guard is 1 goes to its address + off19 × 4 when its condition holds, and on to the next word when it does not; it
changes nothing else. R101: a call, jump or return whose guard is 1 and whose target is a multiple of 4 writes the address of the next
word to its link register with L = 1 and goes to the target, which is computed before the link is written. R70, R104: `pre` lends its
predicate, sense and copy to the next word along sequential flow. -/
def Obligations.ControlTransfer : Prop :=
  (∀ (i : Instr) (c : State → Prop) (off : BitVec 19) (s : State), branchRow i = some (c, off) → s.guard0 = true →
    (c s → exec i s = .next (s.retireTo (s.pc + immL off * 4))) ∧ (¬ c s → exec i s = .next (s.retireTo (s.pc + 4)))) ∧
  (∀ (i : Instr) (d : Option SReg) (f : State → Word) (s : State), transferRow i = some (d, f) → s.guard0 = true → (f s).toNat % 4 = 0 →
    exec i s = .next (match d with
      | some r => (s.putS 1 r (s.pc + 4) 0).retireTo (f s)
      | none => s.retireTo (f s))) ∧
  (∀ (p : PReg) (c : RClass) (r : BitVec 6) (s : State), s.turn = none → s.exposed = false →
    ∀ q ∈ [(Instr.pre p, false, none), (.preN p, true, none), (.preCopy p c r, false, some (c, r)), (.preNCopy p c r, true, some (c, r))],
      ∃ l : Lent, exec q.1 s = .next { s with strand := { s.strand with pc := s.strand.pc + 4, lent := some l } } ∧
        lentP l = p ∧ lentNeg l = q.2.1 ∧ lentCe l = q.2.2.isSome ∧
        (∀ k, q.2.2 = some k → lentCd l = k.2 ∧ lentClass l = k.1.code))

/-- R92: the encodings and effects of the constants, with the range that `movi` followed by `movhi` on one register builds: from −2^37 to
2^37 − 1. -/
def Obligations.Constants : Prop :=
  (∀ (d : SReg) (k : BitVec 19), encode (.movi d k) = some (0x0F#7 ++ d ++ k) ∧ encode (.movhi d k) = some (0x10#7 ++ d ++ k) ∧
    encode (.adr d k) = some (0x11#7 ++ d ++ k)) ∧
  (∀ (d : SReg) (k : BitVec 19) (s : State), s.guard0 = true →
    exec (.movi d k) s = .next (s.putS 1 d (k.signExtend 64) 0).retire ∧
    exec (.movhi d k) s = .next (s.putS 1 d ((k.signExtend 64 <<< 19) ||| ((s.rdS d).extractLsb' 0 19).setWidth 64) 0).retire ∧
    exec (.adr d k) s = .next (s.putS 1 d (s.pc + k.signExtend 64 * 4) 0).retire) ∧
  (∀ c : Int, -(2 ^ 37) ≤ c → c < 2 ^ 37 → ∀ (d : SReg) (s : State), d ≠ 0 → s.turn = none → s.exposed = false → s.lent = none →
    ∃ lo hi t, exec (.movi d lo) s = .next t ∧ ∃ u, exec (.movhi d hi) t = .next u ∧ u.rdS d = BitVec.ofInt 64 c)

/-- R102: a `loopv` whose count is not positive runs no pass: control goes past its body, and no loop is live. R102: with a positive count
and no grant to wait for, `loopv` in an interlocked region sets VL to the count or VLMAX, whichever is less, and the first pass begins at
the first body word with the captured words; without a lane cluster it raises the lease-absent trap with sys.epc at the `loopv`. The words
of the body have been fetched (`fetchedBody`: the slice holds their sectors, R318), which leaves memory as it is but for bytes that no
element uses, in lines that the homes pack (R369). -/
def Obligations.Loops : Prop :=
  (∀ (a : SReg) (n : BitVec 19) (s u : State) (body : List (BitVec 32)), s.turn = none → s.exposed = false →
    captureBody s (s.pc + 4) n.toNat = .ok body → u = s.fetchedBody (s.pc + 4) n.toNat → (s.rdS a).toInt ≤ 0 →
    exec (.loopv a n) s = .next { u with strand := { s.strand with
      loop := none, pc := s.strand.pc + 4 + 4 * BitVec.ofNat 64 n.toNat } } ∧ (s.Canonical → MemKept s u)) ∧
  (∀ (a : SReg) (n : BitVec 19) (s u b : State) (body : List (BitVec 32)), s.turn = none → s.exposed = false →
    captureBody s (s.pc + 4) n.toNat = .ok body → u = s.fetchedBody (s.pc + 4) n.toNat → 0 < (s.rdS a).toInt →
    stripBoundary { u with strand := { s.strand with loop := none } } = (b, false) →
    (b.strand.vlmax ≠ 0 → b.exposed = false → ∃ t, exec (.loopv a n) s = .next t ∧
      t.strand.vl = Nat.min (s.rdS a).toNat b.strand.vlmax ∧ t.strand.pc = s.strand.pc + 4 ∧
      t.strand.loop = some { pc := s.strand.pc, len := n.toNat, count := a, body := body, running := true }) ∧
    (b.strand.vlmax = 0 → exec (.loopv a n) s = .next (b.stop (trapOf 0x06 0))))

/-! ### Loads, stores and atomics -/

/-- R95, R96: a load whose guard is 1, whose address is a multiple of its size, whose translation allows a read and whose sector is neither
malformed nor POISON writes the bytes, sign- or zero-extended, with L = 8; an UNDEF sector gives zero bits. The sector is what the access
finds: in a world the view's, in the base view memory's (PlainAccess), over the fabric the peer's answer. R95, R96: the traps of a load in
their order: alignment, translation, malformed tag, poison. R95, R96, R158: a store whose guard is 1 and whose address is a multiple of
its size puts the low bytes of its source into the sector that the translation names, and control goes on; `st.rel` first waits for the
strand's copies and, at fabric scope, for its acknowledgements. -/
def Obligations.LoadsAndStores : Prop :=
  (∀ (i : Instr) (d : SReg) (f : State → Word) (z : Nat) (sg : Bool) (s t : State) (p : Page) (x : Sector),
    loadRow i = some (d, f, z, sg) → s.guard0 = true → (f s).toNat % z = 0 → translate s s.ctx .read (f s) = .ok p →
    loadSector s s.ctx p (f s) false = .ok (x, t) → malformedSector p.grid x.tag = false → tagVcls x.tag ≠ clsPoison →
    exec i s = .next ((acquired i t (f s)).putS 8 d (widen sg z
      (if tagVcls x.tag = clsUndef then 0 else x.bits.toNat / 2 ^ (8 * ((f s).toNat % 128)) % 2 ^ (8 * z))) 0).retire) ∧
  (∀ (i : Instr) (d : SReg) (f : State → Word) (z : Nat) (sg : Bool) (s : State),
    loadRow i = some (d, f, z, sg) → s.guard0 = true → s.turn = none →
    ((f s).toNat % z ≠ 0 → exec i s = .next (s.takeTrap
      { code := 0x05, data := f s, vec := false, sub := 0, pa := 0xFFFFFFFFFFFFFFFF })) ∧
    (∀ e, (f s).toNat % z = 0 → translate s s.ctx .read (f s) = .error (.trap e) → exec i s = .next (s.takeTrap e)) ∧
    (∀ p x t, (f s).toNat % z = 0 → translate s s.ctx .read (f s) = .ok p → loadSector s s.ctx p (f s) false = .ok (x, t) →
      (malformedSector p.grid x.tag = true → ∃ e, exec i s = .next (s.takeTrap e) ∧ e.code = 0x08) ∧
      (malformedSector p.grid x.tag = false → tagVcls x.tag = clsPoison →
        ∃ e, exec i s = .next (s.takeTrap e) ∧ e.code = 0x0B ∧ e.data = f s))) ∧
  (∀ (i : Instr) (d : SReg) (f : State → Word) (z : Nat) (s t : State) (p : Page),
    storeRow i = some (d, f, z) → s.guard0 = true → (f s).toNat % z = 0 → translate s s.ctx .write (f s) = .ok p →
    (∀ b sc off, i = .stRel d b sc off → copiesDone s .copies = .ok () ∧ fabricRelease s sc true true = .ok ()) →
    storeSector s s.ctx p (f s) (byteMask ((f s).toNat % 128) z) none
      (.bytes ((f s).toNat % 128) z ((s.rdS d).toNat % 2 ^ (8 * z))) false = .ok t →
    exec i s = .next (released i t (f s)).retire)

/-- R96, R366: an access to an ordinary sector of HBM4 in the base view finds the bytes and the tag that memory holds; it changes nothing of
memory or of the strand, only what the slices hold, with the handler events of the lines that they give up. R96: storing bytes into an
ordinary sector of HBM4 in the base view writes exactly those bytes: every other byte of memory reads as before, every other sector keeps
its tag, and the sector's own tag changes only from UNDEF to VALID. The strand keeps all but its event flag and the hit of its watch.
R95, R96, R160: so every load, store and atomic whose guard is 1, at an aligned address that translates to such a sector, which is neither
malformed nor POISON for a load or an atomic, completes with that value, or with those bytes. -/
def Obligations.PlainAccess : Prop :=
  (∀ (s : State) (p : Page) (va : Word), s.Canonical → PlainSector s p va false →
    ∃ x t, loadSector s s.ctx p va false = .ok (x, t) ∧ SlicesOnly s t ∧ x.tag = s.mem.tag (p.pa / 128) ∧
      ∀ k, k < 128 → x.bits.extractLsb' (8 * k) 8 = s.mem.byte (128 * (p.pa / 128) + k)) ∧
  (∀ (s : State) (p : Page) (va : Word) (z v : Nat), s.Canonical → PlainSector s p va true → va.toNat % 128 + z ≤ 128 → 0 < z →
    ∃ t, storeSector s s.ctx p va (byteMask (va.toNat % 128) z) none (.bytes (va.toNat % 128) z v) false = .ok t ∧
      StoredBytes s t (placeOf p va) z v ∧ t.strand = { s.strand with eventFlag := t.strand.eventFlag, watchHit := t.strand.watchHit }) ∧
  (∀ (i : Instr) (d : SReg) (f : State → Word) (z : Nat) (sg : Bool) (s : State) (p : Page),
    loadRow i = some (d, f, z, sg) → s.Canonical → s.guard0 = true → (f s).toNat % z = 0 → translate s s.ctx .read (f s) = .ok p →
    PlainSector s p (f s) false → malformedSector p.grid (s.mem.tag (p.pa / 128)) = false →
    tagVcls (s.mem.tag (p.pa / 128)) ≠ clsPoison →
    ∃ t, SlicesOnly s t ∧ exec i s = .next (t.putS 8 d (widen sg z (bytesLE (fun k => s.loadByte (placeOf p (f s) + k)) z)) 0).retire) ∧
  (∀ (i : Instr) (d : SReg) (f : State → Word) (z : Nat) (s : State) (p : Page),
    storeRow i = some (d, f, z) → s.Canonical → s.guard0 = true → (f s).toNat % z = 0 → translate s s.ctx .write (f s) = .ok p →
    PlainSector s p (f s) true → (∀ b sc off, i = .stRel d b sc off → copiesDone s .copies = .ok () ∧ s.unacked = []) →
    ∃ t : State, StoredBytes s t (placeOf p (f s)) z (s.rdS d).toNat ∧ t.pc = s.pc ∧ exec i s = .next t.retire) ∧
  (∀ (i : Instr) (d a b : SReg) (sc : Scope) (f : Word → Word → Word → Word) (s : State) (p : Page),
    amoRow i = some (d, a, b, sc, f) → s.Canonical → s.guard0 = true → (s.rdS a).toNat % 8 = 0 →
    translate s s.ctx .rmw (s.rdS a) = .ok p → PlainSector s p (s.rdS a) true →
    malformedSector p.grid (s.mem.tag (p.pa / 128)) = false → tagVcls (s.mem.tag (p.pa / 128)) ≠ clsPoison →
    ∃ (old : Word) (t : State), old = BitVec.ofNat 64 (bytesLE (fun k => s.loadByte (placeOf p (s.rdS a) + k)) 8) ∧
      StoredBytes s t (placeOf p (s.rdS a)) 8 (f old (s.rdS b) (s.rdS d)).toNat ∧ t.pc = s.pc ∧
      exec i s = .next (t.putS 30 d old 0).retire)

/-- R213, R203: a store in a world changes no byte and no tag of memory and no copy of any other view: it changes the view's own copy of the
sector it stores to. The other agent of its strand has no write to that sector that it need not see, and no home packs what leaves the LLC
meanwhile. -/
def Obligations.StoreInWorld : Prop :=
  ∀ (s t : State) (ctx : Ctx) (p : Page) (va : Word) (m : BitVec 128) (e : Option (BitVec 128)) (f : StoreOp) (w : View),
    ctx.view ≠ 0 → lookupNat ctx.view s.views = some w → physClass p.pa = .hbm → storeSector s ctx p va m e f false = .ok t →
    unseen s ctx (p.pa / 128) = none → p.pack = false → p.grind = false → s.unpacked →
    t.mem = s.mem ∧ (∀ v, v ≠ ctx.view → t.viewOf v = s.viewOf v) ∧
    (t.viewSector ctx.view (p.pa / 128) = f.apply (s.viewSector ctx.view (p.pa / 128))) ∧
    (∀ k, k ≠ p.pa / 128 → t.viewSector ctx.view k = s.viewSector ctx.view k)

/-- R97, R98: an element load: of an aligned element of a sector that is neither malformed nor POISON, not RAW and not UNDEF in the
converting forms, it writes the element converted as the form says, with L = 10. R97, R99: an element store into a sector that is neither
malformed nor of a format the form forbids: the element is written under the tag that the sector has, or VALID in the page's default
format where it was UNDEF; the flags of its encoding are set, and control goes on. -/
def Obligations.ElementAccess : Prop :=
  (∀ (i : Instr) (d : SReg) (f : State → Word) (sd : Side) (s t : State) (p : Page) (x : Sector) (w : Word) (fl : Sticky),
    elementLoadRow i = some (d, f, sd) → s.guard0 = true → translate s s.ctx .read (f s) = .ok p →
    (f s).toNat % (p.grid.width 32 / 8) = 0 → loadSector s s.ctx p (f s) false = .ok (x, t) →
    malformedSector p.grid x.tag = false → tagVcls x.tag ≠ clsPoison →
    (sd ≠ .raw → tagFormat x.tag ≠ .raw ∧ tagVcls x.tag ≠ clsUndef) →
    (let j := (f s).toNat % 128 / (p.grid.width 32 / 8)
     let e := sectorElem (p.grid.width 32) x.bits (tagFormat x.tag) j
     let v := sectorVal (p.grid.width 32) p.grid x j
     match sd with
     | .raw => w = (x.tag.setWidth 64 <<< 48) ||| (if tagVcls x.tag = clsUndef then 0 else e) ∧ fl = 0
     | .f32 => w = ((encodeEl .fp32 127 127 (s.strand.rounding 0) false v).1.setWidth 32).setWidth 64 ∧
         fl = (encodeEl .fp32 127 127 (s.strand.rounding 0) false v).2 ||| readFlags (tagFormat x.tag) e
     | .i64 => w = ((encodeEl .int32 127 127 (s.strand.rounding 0) false v).1.setWidth 32).signExtend 64 ∧
         fl = (encodeEl .int32 127 127 (s.strand.rounding 0) false v).2 ||| readFlags (tagFormat x.tag) e) →
    exec i s = .next (t.putS 10 d w fl).retire) ∧
  (∀ (i : Instr) (d : SReg) (f : State → Word) (sd : Side) (s t : State) (p : Page) (x : Sector) (j : Nat) (r : Sector × Sticky),
    elementStoreRow i = some (d, f, sd) → s.guard0 = true → translate s s.ctx .write (f s) = .ok p →
    (f s).toNat % (p.grid.width 32 / 8) = 0 → peekSector s s.ctx p (f s) = .ok x →
    malformedSector p.grid x.tag = false → elementForbidden x p sd = false →
    j = (f s).toNat % 128 / (p.grid.width 32 / 8) → r = elementWrite x p.grid p.dfmt j (s.rdS d) sd (s.strand.rounding 0) →
    storeSector s s.ctx p (f s) (elementBytes j (Fmt.width (p.grid.width 32) (tagFormat r.1.tag))) (some (BitVec.twoPow 128 j))
      (.element p.grid p.dfmt j (s.rdS d) sd s.strand.roundState) false = .ok t →
    exec i s = .next ({ t with strand := t.strand.raise r.2 }).retire)

/-- R160: an atomic on a doubleword of this device: the old value goes to the destination with L = 30, and the value of its row, of the
old value, the operand and, for `amo.cas`, the comparand in the destination register, is stored in its place. R393, R395: an atomic on a
doubleword of a peer completes with the peer's answer, which brings the old value. -/
def Obligations.Atomics : Prop :=
  (∀ (i : Instr) (d a b : SReg) (sc : Scope) (f : Word → Word → Word → Word) (s : State) (p : Page) (x : Sector),
    amoRow i = some (d, a, b, sc, f) → s.guard0 = true → (s.rdS a).toNat % 8 = 0 → translate s s.ctx .rmw (s.rdS a) = .ok p →
    peerOf s p = none → peekSector s s.ctx p (s.rdS a) = .ok x →
    malformedSector p.grid x.tag = false → tagVcls x.tag ≠ clsPoison →
    ∃ op : AmoOp, (let off := (s.rdS a).toNat % 128
      (∀ y : Sector, StoreOp.apply (.amo op off (s.rdS b) (s.rdS d)) y = y.storeBytes off 8 (f (BitVec.ofNat 64
        (if tagVcls y.tag = clsUndef then 0 else y.bits.toNat / 2 ^ (8 * off) % 2 ^ 64)) (s.rdS b) (s.rdS d)).toNat) ∧
      ∀ t, storeSector s { s.ctx with llc := atLlc sc } p (s.rdS a) (byteMask off 8) none
          (.amo op off (s.rdS b) (s.rdS d)) false = .ok t →
        exec i s = .next (((t.learns s.ctx (servingKey s s.ctx p)).awaitFill s.ctx p).putS 30 d (BitVec.ofNat 64
          (if tagVcls x.tag = clsUndef then 0 else x.bits.toNat / 2 ^ (8 * off) % 2 ^ 64)) 0).retire)) ∧
  (∀ (i : Instr) (d a b : SReg) (sc : Scope) (f : Word → Word → Word → Word) (s : State) (p : Page) (dev addr : Nat) (m : CemenMsg),
    amoRow i = some (d, a, b, sc, f) → s.turn = none → s.guard0 = true → (s.rdS a).toNat % 8 = 0 →
    translate s s.ctx .rmw (s.rdS a) = .ok p → peerOf s p = some (dev, addr) →
    lookupNat (2 ^ 64 + p.pa) ((lookupNat s.strandId s.replies).getD []) = some m → m.header.extractLsb' 156 1 ≠ 1 →
    exec i s = .next ((((s.notifyLine (p.pa / 512)).keep p.walked).putS 30 d (BitVec.ofNat 64 (m.blocks.headD 0).toNat) 0).retire))

/-- R165, R166: a bounded load of a doubleword, scalar form: the bound is the threshold less its constant; of the sector that the bounded
access finds it writes the eight bytes with L = 8. R166: in a round region a bounded access returns the die's copy of the sector when its
stamp is at least the bound, even a stale one that the task has not written since; otherwise the stalling form waits while the die's shadow
is below the bound, and the other form fetches from the home at once. -/
def Obligations.BoundedAccess : Prop :=
  (∀ (d b r : SReg) (k : BitVec 4) (stall : Bool) (s t : State) (p : Page) (x : Sector), s.turn = none → s.guard0 = true →
    (s.rdS b).toNat % 8 = 0 → translate s s.ctx .read (s.rdS b) = .ok p →
    boundedLoad s s.ctx p (s.rdS b) (s.rdS r - k.setWidth 64) stall = .ok (x, t) →
    malformedSector p.grid x.tag = false → tagVcls x.tag ≠ clsPoison →
    exec (if stall then .ldBndS d b k r else .ldBndF d b k r) s = .next (t.putS 8 d (BitVec.ofNat 64
      (if tagVcls x.tag = clsUndef then 0 else x.bits.toNat / 2 ^ (8 * ((s.rdS b).toNat % 128)) % 2 ^ 64)) 0).retire) ∧
  (∀ (s : State) (ctx : Ctx) (p : Page) (va need : Word) (rg : Nat) (stall : Bool), p.rgv = true → p.rgn = rg →
    (∃ r, lookupNat rg s.regions = some r ∧ r.valid = true) → ctx.view = 0 → tagVcls (s.physTag (p.pa / 128)) ≠ clsBusy →
    copyHold s ctx va false false = none → p.pack = false → p.grind = false → s.unpacked →
    (∀ c, lookupNat (p.pa / 128 * 4096) (s.die ctx.die).slots = some c → 0 ≤ (c.stamp - need).toInt →
      (∀ w, ctx.owner = some w → w ∉ c.writers) → ∃ t, SlicesOnly s t ∧ t.dies = s.dies ∧ t.llc = s.llc ∧
      boundedLoad s ctx p va need stall =
        .ok (if c.stale then c.data.getD (s.baseSector (p.pa / 128)) else s.baseSector (p.pa / 128), t)) ∧
    ((∀ c, lookupNat (p.pa / 128 * 4096) (s.die ctx.die).slots = some c →
        (c.stamp - need).toInt < 0 ∨ ∃ w, ctx.owner = some w ∧ w ∈ c.writers) →
      ((((lookupNat rg (s.die ctx.die).shadows).getD 0) - need).toInt < 0 → stall = true →
        boundedLoad s ctx p va need stall = .error (.wait (.bounded rg need))) ∧
      ((0 ≤ (((lookupNat rg (s.die ctx.die).shadows).getD 0) - need).toInt ∨ stall = false) →
        ∃ t, boundedLoad s ctx p va need stall = .ok (s.baseSector (p.pa / 128), t) ∧ SlicesOnly s t)))

/-! ### Traps, modes and special registers -/

/-- R29, R21, R23: TakeTrap at TIP = 0. The pc, the cause with its ASYNC and VEC bits, edata and a pending prefix are saved; PPRIV and PMODE
take the old PRIV and MODE; PRIV and TIP become 1 and MODE 0; control goes to sys.tvec; the schedule that the trap interrupts is held. Every
register, the other special registers, the other status bits, memory and the device keep their values; the strand's copies in flight count
as older than the handler (R26). R29: a double trap: the strand
stops issuing, halted, and neither its registers nor its special registers change (outside every world, or in a world with no fork open
below it). -/
def Obligations.TakingTraps : Prop :=
  (∀ (s : State) (e : TrapInfo) (async : Bool), s.strand.sys.status.getLsbD 13 = false →
    ∃ u : Word, s.enterTrap e async = { s with cores := handlerCopies s.cores s.strandId, strand := { s.strand with
        pc := s.strand.sys.tvec, lent := none, wait := none, progress := none, monitors := []
        loop := s.strand.loop.map (fun l => { l with running := false })
        heldRegion := s.strand.sched :: s.strand.heldRegion, sched := Sched.reset
        sys := { s.strand.sys with
          epc := s.strand.pc, edata := e.data, status := u
          cause := BitVec.ofNat 64 (e.code.toNat + (if async then 2 ^ 8 else 0) + (if e.vec then 2 ^ 9 else 0))
          pfx := match s.strand.lent with
            | some l => l.setWidth 64
            | none => s.strand.sys.pfx } } } ∧
      ∀ k, u.getLsbD k = if k = 8 then false else if k = 9 then s.strand.lent.isSome else if k = 10 then true
        else if k = 11 then s.strand.sys.status.getLsbD 10 else if k = 12 then s.strand.sys.status.getLsbD 8
        else if k = 13 then true else s.strand.sys.status.getLsbD k) ∧
  (∀ (s : State) (e : TrapInfo) (async : Bool), s.strand.sys.status.getLsbD 13 = true →
    (s.strand.vid = 0 ∨ ∀ p ∈ s.views, p.2.parent ≠ s.strand.vid) →
    (s.enterTrap e async).strand.phase = .halted ∧ (s.enterTrap e async).strand.sys = s.strand.sys ∧
    (s.enterTrap e async).strand.s = s.strand.s ∧ (s.enterTrap e async).strand.pc = s.strand.pc)

/-- R360, R29: a synchronous trap whose cause is posted posts its record first; while the die's fault queue takes none, the strand waits at
its instruction. Any other trap enters at once. What its access has asked of the slices and the translation caches by then stands (`asked`,
R327, R353). R106: `trap code` and `brk` take traps 0x0C and 0x0D at themselves, `trap` with its code
in edata; at TIP = 1 they halt the strand (outside every world, or in a world with no fork open below it), and guarded off they do
nothing. -/
def Obligations.EnteringTraps : Prop :=
  (∀ (s : State) (e : TrapInfo), s.strand.sys.status.getLsbD 13 = false →
    (e.walked = [] → e.filled = [] → s.asked e = s) ∧
    (postsRecord e.code = false → s.takeTrap e = (s.asked e).enterTrap e false) ∧
    (postsRecord e.code = true →
      s.takeTrap e = match (s.asked e).post (dieOf s.strandId) (strandRecord (s.asked e) s.strandId e) (some s.strandId) with
        | (t, true) => t.enterTrap e false
        | (t, false) => { t with strand := { t.strand with wait := some (.held e) } })) ∧
  (∀ (c : SReg) (s : State), s.turn = none → s.guard0 = true → s.strand.sys.status.getLsbD 13 = false →
    exec (.trap c) s = .next (s.enterTrap { code := 0x0C, data := c.setWidth 64, vec := false, sub := 0, pa := 0xFFFFFFFFFFFFFFFF } false) ∧
    exec .brk s = .next (s.enterTrap { code := 0x0D, data := 0, vec := false, sub := 0, pa := 0xFFFFFFFFFFFFFFFF } false) ∧
    (∀ t, exec (.trap c) s = .next t ∨ exec .brk s = .next t → t.strand.sys.epc = s.strand.pc ∧ t.strand.pc = s.strand.sys.tvec)) ∧
  (∀ (c : SReg) (s : State), s.turn = none → ∀ i ∈ [Instr.trap c, .brk],
    (s.guard0 = false → exec i s = .next s.retire) ∧
    (s.guard0 = true → s.strand.sys.status.getLsbD 13 = true → (s.strand.vid = 0 ∨ ∀ p ∈ s.views, p.2.parent ≠ s.strand.vid) →
      ∃ t, exec i s = .next t ∧ t.strand.phase = .halted))

/-- R30, R107, R103: `eret` in supervisor mode, with nothing to drain and an aligned sys.epc: control goes to sys.epc; PRIV and MODE take
PPRIV and PMODE; TIP and PFX become 0; a pending prefix is lent; the held schedule of an exposed region thaws. Registers and memory keep
their values. Where the handler has cleared PMODE over held commits, these land with the return instead (the model's choice, log 74): that
case leaves none of them pending. -/
def Obligations.ReturnFromTrap : Prop :=
  (∀ (s : State), s.turn = none → s.strand.sys.status.getLsbD 10 = true → drained s s.strandId = true → s.strand.sys.epc.toNat % 4 = 0 →
    ∃ t, exec .eret s = .next t ∧ t.strand.pc = s.strand.sys.epc ∧ t.mem = s.mem ∧
      (s.strand.sys.status.getLsbD 12 = false → t.strand.sched.commits = [] ∧ t.strand.heldRegion = s.strand.heldRegion.drop 1)) ∧
  ∀ (s : State), s.turn = none → s.strand.sys.status.getLsbD 10 = true → drained s s.strandId = true → s.strand.sys.epc.toNat % 4 = 0 →
    (s.strand.sys.status.getLsbD 12 = true ∨ ∀ r ∈ s.strand.heldRegion.take 1, r.commits = []) →
    ∃ t, exec .eret s = .next t ∧ t.strand.pc = s.strand.sys.epc ∧ t.strand.s = s.strand.s ∧ t.strand.v = s.strand.v ∧
      t.strand.p = s.strand.p ∧ t.mem = s.mem ∧ t.strand.sys = { s.strand.sys with status := t.strand.sys.status } ∧
      (∀ k, t.strand.sys.status.getLsbD k = if k = 10 then s.strand.sys.status.getLsbD 11 else if k = 8 then s.strand.sys.status.getLsbD 12
        else if k = 13 ∨ k = 9 then false else s.strand.sys.status.getLsbD k) ∧
      t.strand.lent = (if s.strand.sys.status.getLsbD 9 then some (s.strand.sys.pfx.setWidth 15) else none) ∧
      (s.strand.sys.status.getLsbD 12 = true → ∀ r l, s.strand.heldRegion = r :: l → t.strand.sched = r ∧ t.strand.heldRegion = l)

/-- R91: a shift by an immediate outside 0 to 63 raises the illegal-instruction trap with the word in edata. R101, R69: a target with bits
[1:0] other than 0 raises the alignment trap with the target in edata, before the link is written. R76, R87, R336: the illegal-instruction
event traps with the word in edata, or aborts a handler with 0xFE; a failing fetch traps with the address of the word. R77, R119: `eret`,
`icinv`, `blendw`, `tlbinv`, `asid.set`, `ctx.save` and `ctx.load` at PRIV = 0 raise the privilege trap with their word in edata, and have
no other effect. -/
def Obligations.OperandTraps : Prop :=
  (∀ (d a : SReg) (k : BitVec 13) (s : State), s.turn = none → 64 ≤ k.toNat →
    ∀ i ∈ [Instr.slli d a k, .srli d a k, .srai d a k],
      exec i s = .next (s.takeTrap { code := 0x01, data := wordOf i, vec := false, sub := 0, pa := 0xFFFFFFFFFFFFFFFF })) ∧
  (∀ (i : Instr) (d : Option SReg) (f : State → Word) (s : State), transferRow i = some (d, f) → s.guard0 = true → s.turn = none →
    (f s).toNat % 4 ≠ 0 →
    exec i s = .next (s.takeTrap { code := 0x05, data := f s, vec := false, sub := 0, pa := 0xFFFFFFFFFFFFFFFF })) ∧
  (∀ (w : BitVec 32) (s : State),
    (s.turn = none → exec (.illegalInstruction w) s = .next (s.takeTrap
      { code := 0x01, data := w.setWidth 64, vec := false, sub := 0, pa := 0xFFFFFFFFFFFFFFFF })) ∧
    (∀ b, s.turn = some b → exec (.illegalInstruction w) s = .next (s.abortHandler b 0xFE)) ∧
    (∀ k e, s.turn = none → fetchAt s s.pc = .error (.trap e) → exec (.instructionFetchFault k) s = .next (s.takeTrap e))) ∧
  (∀ (a b : SReg) (s : State), s.turn = none → s.strand.sys.status.getLsbD 10 = false →
    ∀ i ∈ [Instr.eret, .icinv, .blendw a b, .tlbinv a b, .asidSet a, .ctxSave, .ctxLoad a b],
      exec i s = .next (s.takeTrap { code := 0x02, data := wordOf i, vec := false, sub := 0, pa := 0xFFFFFFFFFFFFFFFF }))

/-- R114: `mfs` writes the value of the special register with L = 1, for every register of R21. R115, R21 to R23, R54, R306: `mts` of a
value with no 1 in a reserved field and within the field limits, in supervisor mode or changing no RWP field: RW and RWP bits take the
value, W1C bits are cleared by a 1, the others keep theirs; no other special register and nothing else changes. R115: `mts` of a value
with a 1 in a reserved field or beyond a field limit raises the illegal-instruction trap, and an unprivileged one that would change an RWP
field the privilege trap; the register keeps its value. -/
def Obligations.SpecialRegisters : Prop :=
  (∀ (d : SReg) (r : SysReg) (s : State), s.guard0 = true → exec (.mfs d r) s = .next (s.putS 1 d (sysValue s r) 0).retire) ∧
  (∀ (r : SysReg) (a : SReg) (s : State), s.turn = none → s.guard0 = true →
    (∀ k, k < 64 → bitAccess r k = .reserved → (s.rdS a).getLsbD k = false) → fieldLimit r (s.rdS a) →
    (s.strand.sys.status.getLsbD 10 = true ∨
      ∀ k, k < 64 → bitAccess r k = .rwp → (s.rdS a).getLsbD k = (sysValue s r).getLsbD k) →
    ∃ t, exec (.mts r a) s = .next t ∧
      (∀ k, k < 64 → (sysValue t r).getLsbD k = match bitAccess r k with
        | .rw | .rwp => (s.rdS a).getLsbD k
        | .w1c => (sysValue s r).getLsbD k && !(s.rdS a).getLsbD k
        | .ro | .reserved => (sysValue s r).getLsbD k) ∧
      (∀ q, q ≠ r → sysValue t q = sysValue s q) ∧
      t = { s with strand := { s.strand with
        sys := t.strand.sys, pc := s.strand.pc + 4, lent := none, sched := t.strand.sched, ticked := t.strand.ticked } }) ∧
  (∀ (r : SysReg) (a : SReg) (s : State), s.turn = none → s.guard0 = true →
    (((∃ k, k < 64 ∧ bitAccess r k = .reserved ∧ (s.rdS a).getLsbD k = true) ∨ ¬ fieldLimit r (s.rdS a)) →
      exec (.mts r a) s = .next (s.takeTrap
        { code := 0x01, data := wordOf (.mts r a), vec := false, sub := 0, pa := 0xFFFFFFFFFFFFFFFF })) ∧
    ((∀ k, k < 64 → bitAccess r k = .reserved → (s.rdS a).getLsbD k = false) → fieldLimit r (s.rdS a) →
      s.strand.sys.status.getLsbD 10 = false →
      (∃ k, k < 64 ∧ bitAccess r k = .rwp ∧ (s.rdS a).getLsbD k ≠ (sysValue s r).getLsbD k) →
      exec (.mts r a) s = .next (s.takeTrap
        { code := 0x02, data := wordOf (.mts r a), vec := false, sub := 0, pa := 0xFFFFFFFFFFFFFFFF })))

/-- R105, R108, R109, R111, R113, R118, R116: the system instructions where they complete. `nop` only ends, and so does `icinv` with no
copy of the strand under way, but that it orders the strand's writes as a fence does; `mode.x` and `mode.i`, with nothing to drain, set
MODE; `sev` sets the event flag of every strand it reaches; `sleep.until` of a time that has come ends at once; `asid.set` sets the
address space; `blendw` writes its entry. -/
def Obligations.SystemInstructions : Prop :=
  ∀ (s : State), s.turn = none →
    exec .nop s = .next s.retire ∧
    (s.strand.sys.status.getLsbD 10 = true → copiesOf s s.strandId = [] → ∃ u n,
      exec .icinv s = .next ({ s with unacked := u, unordered := n }).retire ∧ ∀ w ∈ n, w.gid ≠ s.strandId) ∧
    (drained s s.strandId = true → ∀ i x, (i, x) ∈ [(Instr.modeX, true), (.modeI, false)] →
      ∃ t, exec i s = .next t ∧ t.strand.pc = s.strand.pc + 4 ∧ t.mem = s.mem ∧ t.strand.s = s.strand.s ∧
        t.strand.sched.commits = [] ∧
        ∀ k, t.strand.sys.status.getLsbD k = if k = 8 then x else s.strand.sys.status.getLsbD k) ∧
    (∀ sc, ∃ t, exec (.sev sc) s = .next t ∧ t.strand.pc = s.strand.pc + 4 ∧
      ∀ g, s.listed g → ((t.strandAt g).eventFlag = true ↔ reaches sc s.strandId g ∨ (s.strandAt g).eventFlag = true)) ∧
    (∀ a, (s.rdS a).toNat ≤ s.cycle.toNat → exec (.sleepUntil a) s = .next s.retire) ∧
    (∀ a, s.strand.sys.status.getLsbD 10 = true → (s.rdS a).toNat < 2 ^ 12 → s.strand.depth = 0 →
      exec (.asidSet a) s = .next ({ s with strand := { s.strand with asid := (s.rdS a).setWidth 12 } }).retire) ∧
    (∀ a b, s.strand.sys.status.getLsbD 10 = true → s.strand.depth = 0 → (s.rdS a).toNat < 2 ^ 14 → 2 ^ 12 ≤ (s.rdS a).toNat →
      (s.rdS b).toNat < 2 ^ 8 → malformedEntry ((s.rdS a).extractLsb' 6 6) ((s.rdS a).extractLsb' 0 6) ((s.rdS b).setWidth 8) = false →
      ∃ t, exec (.blendw a b) s = .next t ∧ t.strand.pc = s.strand.pc + 4 ∧ t.mem = s.mem ∧
        lookupNat (s.rdS a).toNat ((t.core (coreOf s.strandId)).blend) = some ((s.rdS b).setWidth 8))

/-- R110, R111, R117: the waits and their ends. `wfe` consumes a set event flag, or returns when the watched doubleword has changed;
otherwise it waits, armed, until the flag is set. `sleep.until` waits for its time. `tlbinv` waits until nothing that translated through
the dropped entries is left. The event that ends a wait lets the strand go on at the next word. -/
def Obligations.EventWaits : Prop :=
  ∀ (s : State), s.turn = none →
    (∀ a b, s.strand.eventFlag = true → s.strand.monitors = [] →
      exec (.wfe a b) s = .next ({ s with strand := { s.strand with eventFlag := false } }).retire) ∧
    (∀ a b v t p, a ≠ 0 → s.strand.eventFlag = false → loadBytes s (s.rdS a) 8 = .ok (v, t) → translate s s.ctx .read (s.rdS a) = .ok p →
      (BitVec.ofNat 64 v ≠ s.rdS b → exec (.wfe a b) s = .next ({ t with strand := { t.strand with monitors := [] } }).retire) ∧
      (BitVec.ofNat 64 v = s.rdS b → t.turn = none → exec (.wfe a b) s =
        .next { t with strand := { t.strand with monitors := [p.pa / 512], wait := some .event } })) ∧
    (s.strand.eventFlag = false → exec (.wfe 0 0) s = .next { s with strand := { s.strand with wait := some .event } }) ∧
    (∀ a, s.cycle.toNat < (s.rdS a).toNat → exec (.sleepUntil a) s =
      .next { s with strand := { s.strand with wait := some (.sleep (s.rdS a)) } }) ∧
    (∀ a b, s.strand.sys.status.getLsbD 10 = true → s.strand.depth = 0 → (s.rdS b).toNat < 2 ^ 14 → (s.rdS b).toNat / 2 ^ 12 ≠ 3 →
      ∃ t, exec (.tlbinv a b) s = .next t ∧
        t.strand.wait = some (.tlbinv ((s.rdS b).toNat / 2 ^ 12) ((s.rdS b).toNat % 2 ^ 12) (s.rdS a))) ∧
    (∀ g, (s.strandAt g).phase = .running → s.listed g →
      ((s.strandAt g).wait = some .event → (s.strandAt g).eventFlag = true →
        ∃ t, exec (.wfeWake g) s = .next t ∧ (t.strandAt g).pc = (s.strandAt g).pc + 4 ∧ (t.strandAt g).wait = none ∧
          (t.strandAt g).eventFlag = false ∧ (t.strandAt g).monitors = []) ∧
      (∀ u, (s.strandAt g).wait = some (.sleep u) → u.toNat ≤ s.cycle.toNat →
        ∃ t, exec (.sleepUntilExpiry g) s = .next t ∧ (t.strandAt g).pc = (s.strandAt g).pc + 4 ∧ (t.strandAt g).wait = none) ∧
      (∀ k n v, (s.strandAt g).wait = some (.tlbinv k n v) → dropPending s k n v = false →
        ∃ t, exec .tlbinvComplete s = .next t ∧ (t.strandAt g).pc = (s.strandAt g).pc + 4 ∧ (t.strandAt g).wait = none) ∧
      ((s.strandAt g).wait = some .drain → drained s g = true →
        ∃ t, exec (.drainComplete g) s = .next t ∧ (t.strandAt g).pc = (s.strandAt g).pc ∧ (t.strandAt g).wait = none))

/-! ### Vector arithmetic -/

/-- R120, R121: `vcfg`, with no vector result pending, declares registers and widths, writes the VLMAX of the shape to its destination and
to sys.vcfg, and clears VL and sys.vstart; `setvl`, when its strip boundary leaves no grant to wait for and nothing pending, sets VL to
the count or VLMAX, whichever is less, 0 for a count that is not positive, and writes it to its destination. -/
def Obligations.VectorConfiguration : Prop :=
  ∀ (d : SReg) (s : State), s.turn = none → s.exposed = false → s.lent = none → d ≠ 0 →
    (vectorPending s.strand = false → ∀ (n w : BitVec 2) (mz : BitVec 1), w ≠ 3 → ∃ t, exec (.vcfg d n w mz) s = .next t ∧ t.strand.pc = s.strand.pc + 4 ∧
      t.strand.nreg = 8 * 2 ^ n.toNat ∧ t.strand.wmax = 8 * 2 ^ w.toNat ∧ t.strand.mz = (mz == 1) ∧ t.strand.vl = 0 ∧
      t.strand.sys.vstart = 0 ∧ t.rdS d = BitVec.ofNat 64 (vlmaxOf (8 * 2 ^ n.toNat) (8 * 2 ^ w.toNat) s.strand.live) ∧ t.mem = s.mem) ∧
    (∀ (a : SReg) (b : State), stripBoundary s = (b, false) → b.exposed = false → b.turn = none → b.lent = none → b.strand.s = s.strand.s →
      ∃ t, exec (.setvl d a) s = .next t ∧ t.strand.pc = b.strand.pc + 4 ∧ t.strand.sys.vstart = 0 ∧
        t.strand.vl = (if (s.rdS a).toInt ≤ 0 then 0 else Nat.min (s.rdS a).toNat b.strand.vlmax) ∧
        t.rdS d = BitVec.ofNat 64 t.strand.vl)

/-- R123 to R131, R133, R136 to R138, R142: every arithmetic, transcendental, select, conversion and broadcast instruction of `vectorRow` on
registers of one floating-point format, under the default blend table, completes: it writes one register, of the format its row says, and
its flags, with the latency of its class and beats; sys.vstart becomes 0. R127, R38, R49: each active element of a sum, difference, product,
quotient by a divisor that is not zero, fused form, minimum, maximum, absolute value, negation, selection, conversion and broadcast
(`valueRow`) is the exact result rounded once to the format and scale of the register, under the strand's rounding mode. R130, R131: each
active element of a function is its value, rounded once under SCALE 127, or the canonical NaN. The elements of FP32 registers, in an
interlocked region, as the destination holds them. -/
def Obligations.VectorArithmetic : Prop :=
  (∀ (i : Instr) (d : VIdx) (ops : List VIdx) (c : Cls) (base : Nat) (g : Fmt → Fmt) (f : Fmt) (s : State),
    vectorRow i = some (d, ops, c, base, g) → VecReady s i → f ∈ plainFloats → (∀ r ∈ ops, PlainReg s r f) → s.strand.bank = 0 →
    g f ≠ .raw → Fmt.isWide (g f) = false → Fmt.width s.strand.wmax (g f) ≤ s.strand.wmax →
    Fmt.width s.strand.wmax f ≤ s.strand.wmax →
    ∃ (r : VReg) (fl : Sticky), r.fmt = g f ∧
      (∀ k, s.strand.sys.vstart.toNat ≤ k → k < s.strand.vl → s.guardAt k = true →
        (∀ v sat, valueRow s k i = some (v, sat) → Fmt.isMicro (g f) = false →
          r.slot k = (encodeEl (g f) (tagScale r.tag) 127 (s.strand.rounding k) sat v).1) ∧
        (∀ a fn, functionRow i = some (a, fn) → r.slot k = cutBits (Fmt.width s.strand.wmax f)
          (if ((s.vreg a).val k).isNan then canonicalNan f
          else (transc fn (encodeEl f 127 127 (s.strand.rounding k) false) ((s.vreg a).val k)).1))) ∧
      exec i s = .next (((s.occupy c base 0 (s.strand.beatsTo s.strand.vl s.strand.wmax)).1.putV
        (s.occupy c base 0 (s.strand.beatsTo s.strand.vl s.strand.wmax)).2 d r fl).vecDone)) ∧
  (∀ (d a b : VIdx) (s : State) (k : Nat), s.exposed = false → s.lent = none → PlainReg s a .fp32 → PlainReg s b .fp32 → s.strand.bank = 0 →
    s.strand.sys.vstart.toNat ≤ k → k < s.strand.vl →
    ∀ q ∈ [(Instr.vadd d a b, ((s.vreg a).val k).add (s.strand.rm == 3) ((s.vreg b).val k)),
           (.vsub d a b, ((s.vreg a).val k).add (s.strand.rm == 3) ((s.vreg b).val k).neg),
           (.vmul d a b, ((s.vreg a).val k).mul ((s.vreg b).val k)),
           (.vneg d a, ((s.vreg a).val k).neg), (.vabs d a, ((s.vreg a).val k).abs)],
      VecReady s q.1 →
      ∃ t, exec q.1 s = .next t ∧ (t.vreg d).slot k = (encodeEl .fp32 127 127 (s.strand.rounding k) false q.2).1)

/-- R134, R135: bitwise operations and shifts on registers of RAW or of an integer format: each active element takes the operation on the
bits of its operands' elements, cut to the element width; both operands have one tag in the bitwise operations. R132: a compare of two
registers of one floating-point format, neither UNDEF: each active position of the predicate takes the relation of the two exact values,
and positions from VL on keep theirs. -/
def Obligations.VectorBitsAndCompares : Prop :=
  (∀ (i : Instr) (d a b : VIdx) (f : Fmt) (s : State), VecReady s i → PlainReg s a f → (f = .raw ∨ Fmt.isInt f = true) →
    (∀ op, bitsRow i = some (d, a, b, op) → PlainReg s b f → tagScale (s.vreg a).tag = tagScale (s.vreg b).tag →
      ∃ (r : VReg) (fl : Sticky), r.fmt = f ∧
        (∀ k, s.strand.sys.vstart.toNat ≤ k → k < s.strand.vl → s.guardAt k = true →
          r.slot k = cutBits (Fmt.width s.strand.wmax f) (op ((s.vreg a).slot k) ((s.vreg b).slot k))) ∧
        exec i s = .next (((s.occupy .add 1 0 (s.strand.beatsTo s.strand.vl s.strand.wmax)).1.putV
          (s.occupy .add 1 0 (s.strand.beatsTo s.strand.vl s.strand.wmax)).2 d r fl).vecDone)) ∧
    (∀ op g, shiftRow i = some (d, a, b, op) → PlainReg s b g → (g = .raw ∨ Fmt.isInt g = true) →
      ∃ (r : VReg) (fl : Sticky), r.fmt = f ∧
        (∀ k, s.strand.sys.vstart.toNat ≤ k → k < s.strand.vl → s.guardAt k = true →
          r.slot k = (op (Fmt.width s.strand.wmax f) (BitVec.ofNat (Fmt.width s.strand.wmax f) ((s.vreg a).slot k).toNat)
            (((s.vreg b).slot k).toNat % 2 ^ Fmt.width s.strand.wmax g)).setWidth 64) ∧
        exec i s = .next (((s.occupy .add 1 0 (s.strand.beatsTo s.strand.vl s.strand.wmax)).1.putV
          (s.occupy .add 1 0 (s.strand.beatsTo s.strand.vl s.strand.wmax)).2 d r fl).vecDone))) ∧
  (∀ (i : Instr) (d : PReg) (a b : VIdx) (rel : Val → Val → Bool) (f : Fmt) (s : State), compareRow i = some (d, a, b, rel) → VecReady s i →
    f ∈ plainFloats → PlainReg s a f → PlainReg s b f → s.strand.bank = 0 → (s.vreg a).isUndef = false → (s.vreg b).isUndef = false →
    ∃ (p : PosBits) (fl : Sticky),
      (∀ k, s.strand.sys.vstart.toNat ≤ k → k < s.strand.vl → s.guardAt k = true →
        p.getLsbD k = rel ((s.vreg a).val k) ((s.vreg b).val k)) ∧
      (∀ k, s.strand.vl ≤ k → d ≠ 0 → p.getLsbD k = s.strand.p[d.toNat].getLsbD k) ∧
      exec i s = .next (((s.occupy .add 3 0 (s.strand.beatsTo s.strand.vl s.strand.wmax)).1.putP
        (s.occupy .add 3 0 (s.strand.beatsTo s.strand.vl s.strand.wmax)).2 d p fl true).vecDone))

/-- R143 to R145: reductions of operands that are neither UNDEF nor poisoned. A reduction of a register of FP32, FP16 or BF16, and the dot
product of two of one such format, writes what the tree of R64 makes (`reduceValues`, in FP32) of one leaf per position: the element, or
the product, where it is active, the identity elsewhere, with the start register where one is named. A bit reduction writes the fold of
its active elements, and of its start register where it names one. R168, R170: moves. Each active element of the destination is the
bits of the element that the instruction selects in its source, zero bits where the position lies outside the vector, under the
source's format. R169: an active element of `viota` is the number of active positions below it whose predicate bit is 1, or the greatest
number of the format where that is less. R172: `vcompress` puts the bits of the chosen elements at the positions from sys.vstart upward,
`vexpand` those of the source's elements from 0 upward at the chosen positions. -/
def Obligations.ReductionsAndMoves : Prop :=
  (∀ (i : Instr) (s : State), VecReady s i →
    (∀ d ops base op start leaf f, reduceRow s i = some (d, ops, base, op, start, leaf) → f ∈ plainFloats → s.strand.bank = 0 →
      (∀ r ∈ ops, PlainReg s r f ∧ (s.vreg r).isUndef = false) →
      ∃ (fl : Sticky) (q : State × Nat), q = s.occupy .red base (treeDepth s.strand.vl) (s.strand.beatsTo s.strand.vl s.strand.wmax) ∧
        exec i s = .next ((q.1.putS q.2 d (reduceValues s.strand op .fp32 false
          ((List.range s.strand.vl).map (fun k => if k ∈ s.actives then leaf k else identityLeaf op)) start).1 fl true).vecDone)) ∧
    (∀ d a b op one f, reduceBitsRow i = some (d, a, b, op, one) → (f = .raw ∨ Fmt.isInt f = true) → PlainReg s a f →
      (s.vreg a).isUndef = false →
      (let w := Fmt.width s.strand.wmax f
       let v := s.actives.foldl (fun x k => op x (cutBits w ((s.vreg a).slot k))) (one w)
       let q := s.occupy .red 6 (treeDepth s.strand.vl) (s.strand.beatsTo s.strand.vl s.strand.wmax)
       exec i s = .next ((q.1.putS q.2 d (if b = 0 then v else op v (s.rdS b)) 0 true).vecDone)))) ∧
  (∀ (i : Instr) (s : State), VecReady s i →
    (∀ d a ix src f, moveRow i = some (d, a, ix, src) → PlainReg s a f → Fmt.isMicro f = false →
      (∀ b, ix = some b → ∃ g, PlainReg s b g ∧ indexFormat g = true ∧ (s.vreg b).isUndef = false) →
      ∃ (r : VReg) (fl : Sticky) (q : State × Nat), r.fmt = f ∧
        q = s.occupy .perm 3 ((s.strand.grantCount - 1) * s.strand.beatsTo s.strand.vl s.strand.wmax)
          (s.strand.beatsTo s.strand.vl s.strand.wmax) ∧
        (∀ k j, s.strand.sys.vstart.toNat ≤ k → k < s.strand.vl → s.guardAt k = true → src s k = some j →
          r.slot k = if 0 ≤ j ∧ j.toNat < s.strand.vl then cutBits (Fmt.width s.strand.wmax f) ((s.vreg a).slot j.toNat) else 0) ∧
        exec i s = .next ((q.1.putV q.2 d r fl).vecDone)) ∧
    (∀ d p f lo hi, i = .viota d p (Fmt.code f) → f ∈ [Fmt.int32, .int16, .int8, .uint8, .int4, .uint4, .i48] → Fmt.range f = some (lo, hi) →
      s.strand.tooWide f = false →
      ∃ (r : VReg) (fl : Sticky) (q : State × Nat), r.fmt = f ∧
        q = s.occupy .perm 3 0 (s.strand.beatsTo s.strand.vl (if f = .i48 then 64 else s.strand.wmax)) ∧
        (∀ k ∈ s.actives, r.slot k = BitVec.ofNat 64 (Nat.min ((s.chosen p).filter (fun j => decide (j < k))).length hi.toNat)) ∧
        exec i s = .next ((q.1.putV q.2 d r fl).vecDone)) ∧
    (∀ d a p f, (i = .vcompress d a p ∨ i = .vexpand d a p) → PlainReg s a f → Fmt.isMicro f = false →
      ∃ (r : VReg) (q : State × Nat), r.fmt = f ∧
        q = s.occupy .perm 4 ((s.strand.grantCount - 1) * s.strand.beats s.strand.wmax) (s.strand.beats s.strand.wmax) ∧
        (∀ n j, (s.chosen p)[n]? = some j →
          (i = .vcompress d a p → r.slot (s.strand.sys.vstart.toNat + n) = cutBits (Fmt.width s.strand.wmax f) ((s.vreg a).slot j)) ∧
          (i = .vexpand d a p → r.slot j = cutBits (Fmt.width s.strand.wmax f) ((s.vreg a).slot n))) ∧
        exec i s = .next ((q.1.putV q.2 d r 0).vecDone)))

/-- R139 to R142: the tag instructions. `vretag` and `vtag` give the register a new tag over the same slots, `vtag.rd` reads a tag,
`vscale` of a register whose scale can take the exponent changes its scale alone, and the bit and element broadcasts put one element's
bits at every active position. -/
def Obligations.VectorTags : Prop :=
  ∀ (s : State) (d a : VIdx) (f g : Fmt), PlainReg s a f →
    Fmt.isWide g = false → Fmt.width s.strand.wmax g ≤ s.strand.wmax →
    (VecReady s (.vretag d a g) → malformedReg (mkTag (tagVcls (s.vreg a).tag) (tagScale (s.vreg a).tag) (Fmt.code g)) = false →
      ∃ r : VReg, r.fmt = g ∧ r.slots = (s.vreg a).slots ∧
        exec (.vretag d a g) s = .next (((s.occupy .cv 1 0 1).1.putV (s.occupy .cv 1 0 1).2 d r 0).vecDone)) ∧
    (∀ x c sc, PlainReg s d f → VecReady s (.vtag d x) → g ≠ .raw → c = clsValid ∨ c = clsUndef →
      malformedReg (mkTag c sc (Fmt.code g)) = false → s.rdS x = (mkTag c sc (Fmt.code g)).setWidth 64 →
      ∃ r : VReg, r.tag = mkTag c sc (Fmt.code g) ∧ r.slots = (s.vreg d).slots ∧
        exec (.vtag d x) s = .next (((s.occupy .cv 1 0 1).1.putV (s.occupy .cv 1 0 1).2 d r 0).vecDone)) ∧
    (∀ x, VecReady s (.vtagRd x a) →
      exec (.vtagRd x a) s = .next (((s.occupy .cv 1 0 1).1.putS (s.occupy .cv 1 0 1).2 x ((s.vreg a).tag.setWidth 64) 0 true).vecDone)) ∧
    (∀ x, VecReady s (.vscale d a x) → Fmt.isFolding f = false → f ≠ .raw → tagScale (s.vreg a).tag ≠ 0xFF →
      0 ≤ (tagScale (s.vreg a).tag).toNat + (s.rdS x).toInt → (tagScale (s.vreg a).tag).toNat + (s.rdS x).toInt ≤ 254 →
      ∃ r : VReg, r.fmt = f ∧ r.slots = (s.vreg a).slots ∧ r.micro = (s.vreg a).micro ∧
        (tagScale r.tag).toNat = (tagScale (s.vreg a).tag).toNat + (s.rdS x).toInt ∧
        exec (.vscale d a x) s = .next (((s.occupy .cv 3 0 (s.strand.beatsTo s.strand.vl s.strand.wmax)).1.putV
          (s.occupy .cv 3 0 (s.strand.beatsTo s.strand.vl s.strand.wmax)).2 d r 0).vecDone)) ∧
    (∀ x, VecReady s (.vbcastRaw d x g) → Fmt.isMicro g = false →
      ∃ (r : VReg) (fl : Sticky), r.fmt = g ∧
        (∀ k, s.strand.sys.vstart.toNat ≤ k → k < s.strand.vl → s.guardAt k = true →
          r.slot k = cutBits (Fmt.width s.strand.wmax g) (s.rdS x)) ∧
        exec (.vbcastRaw d x g) s = .next (((s.occupy .cv 2 0 (s.strand.beatsTo s.strand.vl s.strand.wmax)).1.putV
          (s.occupy .cv 2 0 (s.strand.beatsTo s.strand.vl s.strand.wmax)).2 d r fl).vecDone)) ∧
    (∀ x, VecReady s (.vbcastEl d a x) → Fmt.isMicro f = false → (s.rdS x).toNat < s.strand.vl →
      ∃ (r : VReg) (fl : Sticky), r.fmt = f ∧
        (∀ k, s.strand.sys.vstart.toNat ≤ k → k < s.strand.vl → s.guardAt k = true →
          r.slot k = cutBits (Fmt.width s.strand.wmax f) ((s.vreg a).slot (s.rdS x).toNat)) ∧
        exec (.vbcastEl d a x) s = .next (((s.occupy .cv 2 0 (s.strand.beatsTo s.strand.vl s.strand.wmax)).1.putV
          (s.occupy .cv 2 0 (s.strand.beatsTo s.strand.vl s.strand.wmax)).2 d r fl).vecDone))

/-- R17, R19, R125: a vector instruction that names an undeclared register raises the illegal-instruction trap, and one that comes with an
empty lease the lease-absent trap, both with VEC set. -/
def Obligations.VectorGates : Prop :=
  ∀ (i : Instr) (s : State), ((vectorRow i).isSome ∨ (bitsRow i).isSome ∨ (shiftRow i).isSome ∨ (compareRow i).isSome ∨
      (reduceRow s i).isSome ∨ (reduceBitsRow i).isSome ∨ (moveRow i).isSome) → s.turn = none →
    ((∃ r ∈ vregsOf i, s.strand.nreg ≤ r.toNat) → exec i s = .next (s.takeTrap
      { code := 0x01, data := wordOf i, vec := true, sub := 0, pa := 0xFFFFFFFFFFFFFFFF })) ∧
    ((∀ r ∈ vregsOf i, r.toNat < s.strand.nreg) → s.strand.grant = 0 → exec i s = .next (s.takeTrap
      { code := 0x06, data := 0, vec := true, sub := 0, pa := 0xFFFFFFFFFFFFFFFF }))

/-! ### Vector memory, strip memory, queues, rounds -/

/-- R148 to R157, R161, R165: every vector memory instruction whose active elements all pass the checks of R149 (index, alignment,
translation, one grid, world, poison) and whose accesses perform completes: the state is what performing the elements gives, sys.vstart
becomes 0, and control goes on. With every position masked off no element is checked. R149: a vector memory instruction whose first
element to fail is at position k performs the elements before k and then traps with sys.vstart = k and VEC set, so that it can resume
there. -/
def Obligations.VectorMemory : Prop :=
  (∀ (i : Instr) (s t : State) (m : MemRow), memRow s i = some m → VecReady s i →
    (∀ d a b sc, i = .vamoCas d a b sc → d.toNat + 1 < s.strand.nreg) →
    (∀ b, m.access.index = some b → indexFormat (s.vreg b).fmt = true ∧ (s.vreg b).isUndef = false) →
    (∀ r ∈ m.formats, s.strand.tooWide (s.vreg r).fmt = false) →
    (s.actives = [] → m.perform s [] s.strand.vl = .ok t → exec i s = .next t.vecDone) ∧
    (∀ p els, s.actives ≠ [] → translate s s.ctx m.access.kind m.access.base = .ok p →
      walkElts (checkElt m.access p.grid s) (s, []) s.actives = (els, none) → m.perform s els s.strand.vl = .ok t →
      exec i s = .next t.vecDone)) ∧
  (∀ (i : Instr) (s t : State) (m : MemRow) (p : Page) (els : List Elt) (k : Nat) (e : TrapInfo), memRow s i = some m → VecReady s i →
    (∀ d a b sc, i = .vamoCas d a b sc → d.toNat + 1 < s.strand.nreg) →
    (∀ b, m.access.index = some b → indexFormat (s.vreg b).fmt = true ∧ (s.vreg b).isUndef = false) →
    (∀ r ∈ m.formats, s.strand.tooWide (s.vreg r).fmt = false) → s.actives ≠ [] →
    translate s s.ctx m.access.kind m.access.base = .ok p →
    walkElts (checkElt m.access p.grid s) (s, []) s.actives = (els, some (k, .trap e)) → m.perform s els k = .ok t → t.turn = none →
    exec i s = .next (({ t with strand := t.strand.setVstart k }).takeTrap { e with vec := true }))

/-- R148 to R157, R161, R165: every vector memory instruction on one active element that passes the checks of R149 (OneElement) completes,
with sys.vstart 0 and control at the next word. R45, R48: a load from a page of the RAW grid puts the element's bytes, `w` of them from
its address, into its position under the format RAW and leaves memory as it is. R45, R152: a store of a RAW register puts the low `w`
bytes of its slot there, and no other byte changes. R156, R161: on a page of 32-bit elements in INT32, the atomic puts the number of its
row in the element's place, and `vamo` leaves the old element in its register. The address is that of the unit-stride, strided or indexed
form (R68, R150, R153, R154). -/
def Obligations.VectorElements : Prop :=
  (∀ (i : Instr) (s : State) (m : MemRow) (k w : Nat) (va : Word) (q : Page), memRow s i = some m → m.access.kind = .read → s.Canonical →
    OneElement s i m .raw k w va q → s.mem.tag (q.pa / 128) = mkTag clsValid 127 (Fmt.code .raw) →
    ∃ t, exec i s = .next t ∧ t.strand.pc = s.strand.pc + 4 ∧ t.strand.sys.vstart = 0 ∧ t.mem = s.mem ∧ (t.vreg m.reg).fmt = .raw ∧
      (t.vreg m.reg).slot k = BitVec.ofNat 64 (bytesLE (fun j => s.mem.byte (placeOf q va + j)) w)) ∧
  (∀ (i : Instr) (s : State) (m : MemRow) (k w : Nat) (va : Word) (q : Page), memRow s i = some m → m.access.kind = .write → s.Canonical →
    OneElement s i m .raw k w va q → s.mem.tag (q.pa / 128) = mkTag clsValid 127 (Fmt.code .raw) →
    (s.vreg m.reg).tag = mkTag clsValid 127 (Fmt.code .raw) →
    ∃ t, exec i s = .next t ∧ t.strand.pc = s.strand.pc + 4 ∧ t.strand.sys.vstart = 0 ∧
      StoredBytes s t (placeOf q va) w ((s.vreg m.reg).slot k).toNat) ∧
  (∀ (i : Instr) (d : VIdx) (old : Bool) (f : Int → Int → Int → Int) (s : State) (m : MemRow) (k : Nat) (va : Word) (q : Page),
    elementRmwRow i = some (d, old, f) → memRow s i = some m → s.Canonical → OneElement s i m .g32 k 4 va q → s.strand.bank = 0 →
    s.mem.tag (q.pa / 128) = mkTag clsValid 127 (Fmt.code .int32) → (s.vreg d).tag = mkTag clsValid 127 (Fmt.code .int32) →
    ∃ t, exec i s = .next t ∧ t.strand.pc = s.strand.pc + 4 ∧ t.strand.sys.vstart = 0 ∧
      (let e : BitVec 32 := BitVec.ofNat 32 (bytesLE (fun j => s.mem.byte (placeOf q va + j)) 4)
       StoredBytes s t (placeOf q va) 4 (BitVec.ofInt 32 (f e.toInt (((s.vreg d).slot k).setWidth 32).toInt
         (((s.vreg (d + 1)).slot k).setWidth 32).toInt)).toNat ∧
       (old = true → (t.vreg d).slot k = e.setWidth 64)))

/-- R173 to R175: strip streams. `strip.open` of an aligned, non-empty window inside the allocation makes the handle valid at position 0
and `strip.close` makes it invalid; either drops the handle's advances that are still pending, and no other result; a load or store
through a valid handle whose active elements pass their checks completes, and the forms that advance move POS on by VL elements modulo the
length. One active element of a RAW window that no copy of the strand meets: the load puts its bytes into its position, the store puts the
low bytes of the slot in its place, and memory keeps its bytes. -/
def Obligations.StripStreams : Prop :=
  ∀ (s : State), s.turn = none →
    (∀ (h : HReg) (a b : SReg), (s.rdS b).toNat < 8 → (s.rdS a).toNat % 128 = 0 → (s.rdS a).toNat / 2 ^ 32 % 128 = 0 →
      0 < (s.rdS a).toNat / 2 ^ 32 → (s.rdS a).toNat % 2 ^ 32 + (s.rdS a).toNat / 2 ^ 32 ≤ s.strand.strip.length * 16384 →
      exec (.stripOpen h a b) s = .next ({ s with strand := s.strand.newWindow h (Handle.mk true
        ((s.rdS a).extractLsb' 0 32) ((s.rdS a).extractLsb' 32 32) ((s.rdS b).extractLsb' 0 2) ((s.rdS b).getLsbD 2) 0) }).retire) ∧
    (∀ (h : HReg), ∃ t, exec (.stripClose h) s = .next t ∧ t.strand.pc = s.strand.pc + 4 ∧ t.strand.h[h.toNat].valid = false ∧
      ∀ g : HReg, g ≠ h → t.strand.h[g.toNat] = s.strand.h[g.toNat]) ∧
    (∀ (h : HReg) (w : Handle), ∃ l, s.strand.newWindow h w = { s.strand with
        h := s.strand.h.set h.toNat w, sched := { s.strand.sched with commits := l } } ∧ l.length = s.strand.sched.commits.length ∧
      ∀ (j : Nat) (c : Commit), s.strand.sched.commits[j]? = some c → ∃ k, l[j]? = some { c with dests := k } ∧
        ∀ e, e ∈ k ↔ e ∈ c.dests ∧ ∀ v, e ≠ .pos h v) ∧
    (∀ i h r st adv perform els t, stripRow i = some (h, r, st, adv, perform) → VecReady s i → s.strand.h[h.toNat].valid = true →
      (st = true → s.strand.tooWide (s.vreg r).fmt = false) →
      walkElts (stripElt s h (if st then some r else none)) (s, []) s.actives = (els, none) → perform s els s.strand.vl = .ok t →
      exec i s = .next (if adv then { t with strand := t.strand.advance h } else t).vecDone ∧
      (t.strand.advance h).h[h.toNat].pos = BitVec.ofNat 32 ((t.strand.h[h.toNat].pos.toNat +
        t.strand.vl * ((Grid.ofBits t.strand.h[h.toNat].grid).width t.strand.wmax / 8)) % t.strand.h[h.toNat].len.toNat)) ∧
    (∀ i h r st adv perform k w off, stripRow i = some (h, r, st, adv, perform) → VecReady s i → s.exposed = false →
      (s.strand.wmax = 8 ∨ s.strand.wmax = 16 ∨ s.strand.wmax = 32) → w = s.strand.wmax / 8 →
      s.strand.sys.vstart.toNat = k → s.strand.vl = k + 1 → s.guardAt k = true →
      s.strand.h[h.toNat].valid = true → s.strand.h[h.toNat].grid = 3 → s.strand.h[h.toNat].pos.toNat + k * w < s.strand.h[h.toNat].len.toNat →
      off = s.strand.h[h.toNat].base.toNat + s.strand.h[h.toNat].pos.toNat + k * w → off % w = 0 → off < s.strand.strip.length * 16384 →
      s.copiesMet s.strandId true st off (off + w) = [] → (s.stripRead off).tag = mkTag clsValid 127 (Fmt.code .raw) →
      (st = true → ownsStrip s s.strand = true ∧ (s.vreg r).tag = mkTag clsValid 127 (Fmt.code .raw) ∧ (s.vreg r).marks = 0) →
      ∃ t, exec i s = .next t ∧ t.strand.pc = s.strand.pc + 4 ∧ t.strand.sys.vstart = 0 ∧ t.mem = s.mem ∧
        t.strand.h[h.toNat].pos = (if adv then BitVec.ofNat 32 ((s.strand.h[h.toNat].pos.toNat + (k + 1) * w) % s.strand.h[h.toNat].len.toNat)
          else s.strand.h[h.toNat].pos) ∧
        (st = false → (t.vreg r).slot k = BitVec.ofNat 64 ((s.stripRead off).bits.toNat / 2 ^ (8 * (off % 128)) % 2 ^ (8 * w)) ∧
          t.stripRead off = s.stripRead off) ∧
        (st = true → (t.stripRead off).tag = (s.stripRead off).tag ∧ ∀ j, j < 128 → (t.stripRead off).bits.extractLsb' (8 * j) 8 =
          if off % 128 ≤ j ∧ j < off % 128 + w then ((s.vreg r).slot k).extractLsb' (8 * (j - off % 128)) 8
          else (s.stripRead off).bits.extractLsb' (8 * j) 8))

/-- R176 to R181: tagged queues, for a strand outside every world. `qbind` binds a queue that is free or its own, or unbinds; a scalar
push into a queue with room appends an entry, which the scalar pop, peek and branch of the head entry read, the pop and the branch
removing it, from the clock after the push on (`ripe`); `vld.q` of an ordinary sector appends the sector at its address with the latency
of a load. R178 to R180: vector queue instructions on a queue that is bound. A push of a register of an ordinary format with no more
active elements than an entry holds appends one entry of their slots, in order, under the register's tag. A pop and a peek whose active
elements the head entry holds, under RAW, put its elements into the active positions in order; the pop takes them out of the queue, and
the peek leaves them. -/
def Obligations.Queues : Prop :=
  (∀ (s : State) (q : QReg) (n : Nat) (x : Queue), s.turn = none → s.guard0 = true → s.strand.depth = 0 →
    (pushesPending s.strand = false →
      (∀ a, (s.rdS a).toNat < 192 → (s.rdS a).toNat / 64 ≠ 2 → (∀ y, s.queueOf ((s.rdS a).toNat % 64) = some y → y.owner = s.strand.asid) →
        ∃ t, exec (.qbind q a) s = .next t ∧ t.strand.pc = s.strand.pc + 4 ∧
          t.strand.q[q.toNat] = some ((s.rdS a).extractLsb' 0 6) ∧
          ∃ y, t.queueOf ((s.rdS a).toNat % 64) = some y ∧ ((s.rdS a).toNat / 64 = 1 → y.entries = []) ∧
            (s.strand.q[q.toNat] ≠ some ((s.rdS a).extractLsb' 0 6) → y.owner = s.strand.asid)) ∧
      (∀ a, s.rdS a = 128 → ∃ t, exec (.qbind q a) s = .next t ∧ t.strand.pc = s.strand.pc + 4 ∧ t.strand.q[q.toNat] = none)) ∧
    (s.boundQueue q = .ok (n, x) →
      (∀ a, s.roomIn n x = .ok () → ∀ k ∈ [(Instr.qpushS q a, false), (.qpushB q a, true)],
        ∃ t, exec k.1 s = .next t ∧ t.strand.pc = s.strand.pc + 4 ∧
          t.queueOf n = some (x.push s.cycle (.scalar k.2 (s.rdS a) false))) ∧
      (∀ e, (x.push s.cycle e).entries = x.entries ++ [e] ∧ (x.push s.cycle e).ripe s.cycle = x.ripe s.cycle ∧
        ∀ now, now ≠ s.cycle → (x.push s.cycle e).ripe now = x.entries ++ [e]) ∧
      (∀ d v br l, x.entries = .scalar br v false :: l → x.ripe s.cycle ≠ [] →
        (∃ u, exec (.qpeekS d q) s = .next ((({ s with unacked := u }.putS 3 d v 0).fromQueue s).retire)) ∧
        ∃ t : State, exec (.qpopS d q) s = .next (((t.putS 3 d v 0).fromQueue t).retire) ∧ t.queueOf n = some { x with entries := l } ∧
          t.strand = s.strand ∧ t.mem = s.mem) ∧
      (∀ off v l, x.entries = .scalar true v false :: l → x.ripe s.cycle ≠ [] →
        ∃ t : State, t.queueOf n = some { x with entries := l } ∧ t.strand = s.strand ∧
        t.turn = none ∧ exec (.qbr q off) s = .next (t.retireTo (if v = 0 then s.pc + 4 else s.pc + immL off * 4))) ∧
      (∀ b off p va, va = s.rdS b + offM off 128 → va.toNat % 128 = 0 → translate s s.ctx .read va = .ok p → s.roomIn n x = .ok () →
        (∀ y t, loadSector s (s.vecCtx false) p va false = .ok (y, t) → malformedSector p.grid y.tag = false →
          ∃ (g : BitVec 2) (u : State × Nat), u = t.occupy .ld 24 0 1 ∧ Grid.ofBits g = p.grid ∧
            exec (.vldQ q b off) s = .next (((u.1.put u.2 [.queue n (.sector y g 0)] 0 true).tellsQueue n true).retire)) ∧
        (s.Canonical → PlainSector s p va false → malformedSector p.grid (s.mem.tag (p.pa / 128)) = false → s.exposed = false →
          ∃ (g : BitVec 2) (y : Sector) (t : State), exec (.vldQ q b off) s = .next t ∧ t.strand.pc = s.strand.pc + 4 ∧ t.mem = s.mem ∧
            t.queueOf n = some (x.push s.cycle (.sector y g 0)) ∧ Grid.ofBits g = p.grid ∧
            y.tag = s.mem.tag (p.pa / 128) ∧ ∀ k, k < 128 → y.bits.extractLsb' (8 * k) 8 = s.mem.byte (128 * (p.pa / 128) + k))))) ∧
  (∀ (s : State) (q : QReg) (d : VIdx) (n : Nat) (x : Queue), s.boundQueue q = .ok (n, x) →
    (s.strand.wmax = 8 ∨ s.strand.wmax = 16 ∨ s.strand.wmax = 32) → s.actives ≠ [] →
    (∀ f, VecReady s (.qpushV q d) → PlainReg s d f → Fmt.isMicro f = false → s.actives.length ≤ 2048 / s.strand.wmax →
      s.roomIn n x = .ok () → ∃ t, exec (.qpushV q d) s = .next t ∧ t.strand.pc = s.strand.pc + 4 ∧ t.strand.sys.vstart = 0 ∧ t.mem = s.mem ∧
        t.queueOf n = some (x.push s.cycle (.slots (mkTag (if (s.vreg d).isUndef then clsUndef else clsValid)
          (tagScale (s.vreg d).tag) (tagFmt (s.vreg d).tag)) s.strand.wmax (s.actives.map (s.vreg d).slot) []))) ∧
    (∀ tag w es l, s.strand.progress = none → s.exposed = false → x.ripe s.cycle = .slots tag w es [] :: l →
      tag = mkTag clsValid 127 (Fmt.code .raw) → 0 < w → w ≤ s.strand.wmax → s.actives.length ≤ es.length →
      ∀ i rest, (i, rest) ∈ [(Instr.qpopV d q, if es.length = s.actives.length then l else .slots tag w (es.drop s.actives.length) [] :: l),
          (.qpeekV d q, .slots tag w es [] :: l)] → VecReady s i →
        ∃ t, exec i s = .next t ∧ t.strand.pc = s.strand.pc + 4 ∧ t.strand.sys.vstart = 0 ∧ t.mem = s.mem ∧
          t.queueOf n = some { x with entries := rest ++ x.entries.drop (l.length + 1) } ∧ (t.vreg d).fmt = .raw ∧
          ∀ j k, s.actives[j]? = some k → (t.vreg d).slot k = cutBits w (es.getD j 0)))

/-- R159, R193, R397: a fence of a strand with no copy of its engine under way, none of whose agents at fabric scope knows of a write
without acknowledgement, only ends: nothing of the state changes but who knows of such writes, and which writes of the strand its other
agent and its walks need not see (R186, R352): `fence.sv` leaves none of the scalar agent that the vector agent need not see, `fence.vs`
none of the vector agent that the scalar agent need not see, `fence.all` none. R164: `round.rd` of a valid region of the strand's address
space reads the die's shadow with L = 4; `round.adv`, outside every world and with no copy under way, adds 1 to the region's count and to
the mirror of its home stack, waits until all mirrors hold it, and then returns the count. R162: `vwait` on counters in ordinary sectors,
all at or below 0 or with the deadline come, ends with the unmet counters in its predicate; before that it waits. -/
def Obligations.FencesAndRounds : Prop :=
  ∀ (s : State), s.turn = none →
    (∀ sc, copiesOf s s.strandId = [] → (sc = .fabric → ∀ u ∈ s.unacked, ∀ v, Knower.agent s.strandId v ∉ u.2.known) →
      ∀ i ∈ [Instr.fenceSv sc, .fenceVs sc, .fenceVv sc, .fenceAll sc],
        ∃ l n, exec i s = .next ({ s with unacked := l, unordered := n } : State).retire ∧ (s.unacked = [] → l = []) ∧
          (s.unordered = [] → n = []) ∧ ∀ w ∈ n, w.gid = s.strandId → i ≠ .fenceAll sc ∧
            (w.vec = false → i = .fenceSv sc → w.agent = false) ∧ (w.vec = true → i = .fenceVs sc → w.agent = false)) ∧
    (∀ d a rg, (s.rdS a).toNat = rg → rg < 1024 → (s.region rg).valid = true → (s.region rg).owner = s.strand.asid →
      (s.guard0 = true → ∃ l n, exec (.roundRd d a) s =
        .next ((({ s with unacked := l, unordered := n } : State).putS 4 d ((lookupNat rg (s.die (dieOf s.strandId)).shadows).getD 0) 0).retire)) ∧
      (s.strand.depth = 0 → s.strand.progress = none → copiesOf s s.strandId = [] →
        ∃ t, exec (.roundAdv d a) s = .next t ∧ (t.region rg).count = (s.region rg).count + 1 ∧
          (∀ k, (t.region rg).mirrors.toList[k]? = if k = rg / 256 then some ((s.region rg).count + 1) else (s.region rg).mirrors.toList[k]?) ∧
          t.strand.wait = some (.roundMirrors rg) ∧ t.strand.progress = some (.round ((s.region rg).count + 1)) ∧ t.mem = s.mem) ∧
      (∀ n, s.strand.progress = some (.round n) →
        exec (.roundAdv d a) s = .next (({ s with strand := { s.strand with progress := none } }).putS 1 d n 0).retire)) ∧
    (∀ d a b sc (sel : List Nat) (at_ : Nat → Word) (pg : Nat → Page), s.Canonical → s.walksFresh → s.strand.progress = none →
      sel = (List.range (Nat.max s.strand.vl 1)).filter (fun k => (s.rdP d).getLsbD k) → (at_ = fun k => s.rdS a + BitVec.ofNat 64 (8 * k)) →
      (∀ k ∈ sel, (at_ k).toNat % 8 = 0 ∧ translate s s.ctx .read (at_ k) = .ok (pg k) ∧ PlainSector s (pg k) (at_ k) false ∧
        malformedSector (pg k).grid (s.mem.tag ((pg k).pa / 128)) = false ∧ tagVcls (s.mem.tag ((pg k).pa / 128)) ≠ clsPoison) →
      (let left := sel.filter (fun k => decide (0 < (BitVec.ofNat 64 (bytesLE (fun j => s.loadByte (placeOf (pg k) (at_ k) + j)) 8)).toInt))
       ∃ t : State, SlicesOnly s t ∧
        (left = [] ∨ (s.rdS b).toNat ≤ s.cycle.toNat → exec (.vwait d a b sc) s = .next ((({ t with strand := { s.strand with
          progress := none, monitors := [], watchHit := false } } : State).putP 1 d (bitsAt left) 0).retire)) ∧
        (left ≠ [] → s.cycle.toNat < (s.rdS b).toNat → exec (.vwait d a b sc) s = .next { t with strand := { s.strand with
          progress := some (.unmet (bitsAt left)), monitors := left.map (fun k => (pg k).pa / 512), watchHit := false
          wait := some (.vwait (s.rdS b)) } })))

/-! ### Matrix, copies, transforms -/

/-- R246, R249 to R253, R258, R259: `tile.set` clamps its three sizes and writes them; a multiply-accumulate of operands of one plain
floating-point format, or of bytes and ternary weights, under a current tile state writes one tile, of the form its accumulators have,
whose cells outside the tile state keep their value, or 0 in the zeroing forms; with K = 1 a cell inside takes its old value plus the
product, rounded once to the accumulator. `acc.zero` clears a tile; `acc.rd` and `acc.rd.s` read its cells. -/
def Obligations.MatrixInstructions : Prop :=
  ∀ (s : State), s.turn = none →
    (∀ d a : SReg, s.exposed = false → 0 < d.toNat → d.toNat + 2 < 64 →
      (let q := s.strand.vlmax / 64
       let m := Nat.min (s.rdS a).toInt.toNat 64
       let n := Nat.min (s.rdS (a + 1)).toInt.toNat 64
       let k := Nat.min (s.rdS (a + 2)).toInt.toNat (Nat.min (if 32 ≤ q then q - q % 32 else q) 512)
       let ok : Bool := s.strand.grant != 0 && m != 0 && n != 0 && k != 0
       ∃ t, exec (.tileSet d a) s = .next t ∧ t.strand.pc = s.strand.pc + 4 ∧ t.mem = s.mem ∧ t.strand.v = s.strand.v ∧
         t.strand.tileState.valid = ok ∧ t.strand.tileState.m = (if ok then m else 0) ∧ t.strand.tileState.n = (if ok then n else 0) ∧
         t.strand.tileState.k = (if ok then k else 0) ∧ t.rdS d = BitVec.ofNat 64 t.strand.tileState.m ∧
         t.rdS (d + 1) = BitVec.ofNat 64 t.strand.tileState.n ∧ t.rdS (d + 2) = BitVec.ofNat 64 t.strand.tileState.k)) ∧
    (∀ i d a b z ter f g, macRow i = some (d, a, b, z, ter) → s.exposed = false → (∀ r ∈ vregsOf i, r.toNat < s.strand.nreg) →
      s.strand.grant ≠ 0 → s.strand.tileCurrent = true → s.strand.tileState.m ≤ 64 → s.strand.tileState.n ≤ 64 →
      PlainReg s a f → (s.vreg a).isUndef = false → PlainB s b g →
      ((ter = true ∧ (f = .int8 ∨ f = .uint8) ∧ g = .trn2) ∨ (ter = false ∧ f ∈ plainFloats ∧ g = f ∧ s.strand.bank = 0)) →
      (z = true ∨ s.strand.tiles[d.toNat].i48 = ter) →
      ∃ (v : Tile) (fl : Sticky), v.i48 = ter ∧
        (∀ e, e < 4096 → s.strand.tileState.m ≤ e / 64 ∨ s.strand.tileState.n ≤ e % 64 →
          v.elem e = if z then 0 else s.strand.tiles[d.toNat].elem e) ∧
        (s.strand.tileState.k = 1 → ∀ x y, x < s.strand.tileState.m → y < s.strand.tileState.n →
          v.elem (64 * x + y) = ((encodeEl (if ter then .i48 else .a48) 127 127 .nearest false (Val.add false
            (elementValue (if ter then .i48 else .a48) (if z then 0 else (s.strand.tiles[d.toNat].elem (64 * x + y)).setWidth 64))
            (Val.mul ((regOperand (s.vreg a)).val x) (s.valueOfB b y)))).1).setWidth 48) ∧
        exec i s = .next ((s.put 0 [.tile d v] fl).retire)) ∧
    (∀ (d : AReg) (x : BitVec 1), s.strand.grant ≠ 0 → ∃ q : State × Nat, q = s.engine .mma 2 1 { EngineUse.none with tile := some d.toNat } ∧
      exec (.accZero d x) s = .next ((q.1.put q.2 [.tile d ⟨x == 1, []⟩] 0 true).retire)) ∧
    (∀ (d : VIdx) (a : AReg) (b : SReg), VecReady s (.accRd d a b) → s.exposed = false →
      s.strand.tooWide s.strand.tiles[a.toNat].fmt = false →
      ∃ (r : VReg) (fl : Sticky), r.fmt = s.strand.tiles[a.toNat].fmt ∧
        (∀ k, s.strand.sys.vstart.toNat ≤ k → k < s.strand.vl → s.guardAt k = true →
          r.slot k = (s.strand.tiles[a.toNat].elem ((s.rdS b).toNat + k)).setWidth 64) ∧
        exec (.accRd d a b) s = .next ((s.putV 0 d r fl).vecDone)) ∧
    (∀ (d : SReg) (a : AReg) (b : SReg), s.exposed = false → s.guard0 = true → (s.rdS b).toNat < 4096 → s.strand.grant ≠ 0 →
      exec (.accRdS d a b) s = .next ((s.putS 0 d (if s.strand.tiles[a.toNat].i48 then
        (s.strand.tiles[a.toNat].elem (s.rdS b).toNat).signExtend 64 else (s.strand.tiles[a.toNat].elem (s.rdS b).toNat).setWidth 64) 0).retire))

/-- R247, R248, R255 to R258: `wb.load`, `wb.load.cb` and `cb.load`, whose elements all translate, are aligned, lie in pages of one grid
and have one folded format that the slot may hold: they fill one slot, of the tile state's size, with the elements' bits under that
format; in a microscaled format, a block of a column that met another format is converted as a whole. One element of an ordinary sector is
enough to see it: a number of FP32, an index of UINT8, an entry of FP16, as the slot or the codebook then holds it. `acc.ld` of a
well-formed image in ordinary sectors writes a tile of its cells, and changes nothing of memory; `acc.st` writes the 256 sectors of the
image of its tile, and no other. -/
def Obligations.MatrixLoads : Prop :=
  ∀ (s : State), s.turn = none →
    (∀ (w : WSlot) (a b : SReg) (cb : Option CBook) (t : TileState) (e : Grid × List Elt) (r : List (Elt × Sector) × State)
      (tag : Fmt × Byte × Bool),
      s.strand.grant ≠ 0 → s.strand.tileCurrent = true → t = s.strand.tileState →
      engineElts s (s.rdS a) (some (s.rdS b)) (t.n * t.k)
        (fun i z => s.rdS a + BitVec.ofNat 64 (i / t.k) * s.rdS b + BitVec.ofNat 64 (i % t.k * z)) = .ok e →
      engineSectors s e.2 = .ok r →
      (∀ q, q < s.strand.grantCount →
        bufferBytes t.n s.strand.grantCount (columnBytes t.k (foldedWidth s r.1).1 (foldedWidth s r.1).2) q ≤ 32768) →
      (if cb.isSome then indexTag s r.1 else engineTag s r.1 (fun f => !(f == .raw || Fmt.isWide f))) = .ok tag →
      ∃ (x : WeightSlot) (fl : Sticky) (work : Nat) (q : State × Nat), x.n = t.n ∧ x.k = t.k ∧ x.codebook = cb ∧ tagFormat x.tag = tag.1 ∧
        (cb = none → x.elems = (storedCells s.strand.wmax tag.1 tag.2.1 t.k r.1).map (·.1)) ∧
        q = r.2.engine .wb 24 work { EngineUse.none with slot := some w.toNat } ∧
        exec (match cb with
          | none => .wbLoad w a b
          | some c => .wbLoadCb w a b c) s = .next ((q.1.put q.2 [.weight w x] fl true).retire)) ∧
    (∀ (w : WSlot) (a b : SReg) (c : CBook) (p : Page), s.Canonical → s.exposed = false → s.strand.grant ≠ 0 → s.strand.grantCount ≠ 0 →
      s.strand.tileCurrent = true → s.strand.tileState.n = 1 → s.strand.tileState.k = 1 → translate s s.ctx .read (s.rdS a) = .ok p →
      PlainSector s p (s.rdS a) false →
      (p.grid = .g32 → (s.rdS a).toNat % 4 = 0 → (s.rdS b).toNat % 4 = 0 → s.mem.tag (p.pa / 128) = mkTag clsValid 127 (Fmt.code .fp32) →
        ∃ (fl : Sticky) (u : State), SlicesOnly s u ∧ exec (.wbLoad w a b) s = .next ((u.put 0 [.weight w
          { k := 1, n := 1, tag := mkTag clsValid 127 (Fmt.code .fp32), micro := [], marks := [], codebook := none
            elems := [(encodeEl .fp32 127 127 .nearest false (decodeEl .fp32 127 127
              (BitVec.ofNat 64 (bytesLE (fun j => s.mem.byte (placeOf p (s.rdS a) + j)) 4)))).1] }] fl true).retire)) ∧
      (p.grid = .g8 → s.mem.tag (p.pa / 128) = mkTag clsValid 127 (Fmt.code .uint8) →
        ∃ (u : State), SlicesOnly s u ∧ exec (.wbLoadCb w a b c) s = .next ((u.put 0 [.weight w
          { k := 1, n := 1, tag := mkTag clsValid 127 (Fmt.code .uint8), micro := [], marks := [], codebook := some c
            elems := [(s.mem.byte (placeOf p (s.rdS a))).setWidth 64] }] 0 true).retire))) ∧
    (∀ (c : CBook) (a b : SReg) (e : Grid × List Elt) (r : List (Elt × Sector) × State) (tag : Fmt × Byte × Bool),
      1 ≤ (s.rdS b).toNat → (s.rdS b).toNat ≤ 256 →
      engineElts s (s.rdS a) none (s.rdS b).toNat (fun i z => s.rdS a + BitVec.ofNat 64 (i * z)) = .ok e → engineSectors s e.2 = .ok r →
      engineTag s r.1 (fun f => !(f == .raw || Fmt.isMicro f || Fmt.isWide f || decide (16 < Fmt.width 64 f))) = .ok tag →
      ∃ (x : Codebook) (fl : Sticky) (q : State × Nat), tagFormat x.tag = tag.1 ∧
        x.elems = r.1.map (fun m => (storedElem s.strand.wmax tag.1 tag.2.1 m).1) ∧
        q = r.2.engine .wb 24 1 { EngineUse.none with cb := some c.toNat } ∧
        exec (.cbLoad c a b) s = .next ((q.1.put q.2 [.codebook c x] fl true).retire)) ∧
    (∀ (c : CBook) (a b : SReg) (p : Page), s.Canonical → s.exposed = false → s.rdS b = 1 → (s.rdS a).toNat % 2 = 0 →
      translate s s.ctx .read (s.rdS a) = .ok p → p.grid = .g16 → PlainSector s p (s.rdS a) false →
      s.mem.tag (p.pa / 128) = mkTag clsValid 127 (Fmt.code .fp16) →
      ∃ (fl : Sticky) (u : State), SlicesOnly s u ∧ exec (.cbLoad c a b) s = .next ((u.put 0 [.codebook c
        { tag := mkTag clsValid 127 (Fmt.code .fp16), marks := []
          elems := [(encodeEl .fp16 127 127 .nearest false (decodeEl .fp16 127 127
            (BitVec.ofNat 64 (bytesLE (fun j => s.mem.byte (placeOf p (s.rdS a) + j)) 2)))).1] }] fl true).retire)) ∧
    (∀ (d : AReg) (a : SReg) (pg : Nat → Page) (word : Nat → Word), s.Canonical → s.exposed = false → s.strand.grant ≠ 0 →
      (s.rdS a).toNat % 128 = 0 →
      (∀ i, i < 256 → translate s s.ctx .read (s.rdS a + BitVec.ofNat 64 (128 * i)) = .ok (pg i) ∧ (pg i).grid = .raw ∧
        PlainSector s (pg i) (s.rdS a + BitVec.ofNat 64 (128 * i)) false ∧ s.mem.tag ((pg i).pa / 128) = tagRaw) →
      (word = fun e => BitVec.ofNat 64 (bytesLE (fun j => s.mem.byte (128 * ((pg (e / 16)).pa / 128) + 8 * (e % 16) + j)) 8)) →
      (∀ e, e < 4096 → (word e).extractLsb' 48 15 = 0 ∧ (word e).getLsbD 63 = (word 0).getLsbD 63) →
      ∃ (v : Tile) (u : State), SlicesOnly s u ∧ v.i48 = (word 0).getLsbD 63 ∧ (∀ e, e < 4096 → v.elem e = (word e).setWidth 48) ∧
        exec (.accLd d a) s = .next ((u.put 0 [.tile d v] 0 true).retire)) ∧
    (∀ (d : AReg) (a : SReg) (pg : Nat → Page), s.Canonical → s.exposed = false → s.strand.grant ≠ 0 → (s.rdS a).toNat % 128 = 0 →
      (∀ i, i < 256 → translate s s.ctx .write (s.rdS a + BitVec.ofNat 64 (128 * i)) = .ok (pg i) ∧ (pg i).grid = .raw ∧
        PlainSector s (pg i) (s.rdS a + BitVec.ofNat 64 (128 * i)) true) →
      (∀ i j, i < 256 → j < 256 → (pg i).pa / 128 = (pg j).pa / 128 → i = j) →
      ∃ t, exec (.accSt d a) s = .next t ∧ t.strand.pc = s.strand.pc + 4 ∧
        (∀ i, i < 256 → t.mem.tag ((pg i).pa / 128) = tagRaw ∧ ∀ j, j < 16 →
          (t.mem.sector ((pg i).pa / 128)).bits.extractLsb' (64 * j) 64 =
            BitVec.ofBool s.strand.tiles[d.toNat].i48 ++ (0#15 ++ s.strand.tiles[d.toNat].elem (16 * i + j))) ∧
        (∀ k, (∀ i, i < 256 → k ≠ (pg i).pa / 128) → t.mem.sector k = s.mem.sector k))

/-- R261 to R264: a copy whose rows are aligned and of legal size, whose ends translate, in pages of one grid where both are memory, or lie
inside the allocation, that meets no copy under way and finds an entry in the engine's queue, is queued behind the engine's copies with
its sectors as they translate and the promise of R264, which it writes to its destination: in the order of the rows, or, those of `cp.gth`,
row by row in page-sorted order (R357; log 25). Nothing is moved yet. The strand is outside every world. -/
def Obligations.CopyRequests : Prop :=
  ∀ (s : State) (i : Instr) (d : SReg) (ends : BitVec 2) (a b : Word) (rows : List CopyRow) (src dst : List CopyEnd),
    copyRow s i = some (d, ends, a, b, rows) → copyReady s i → s.turn = none → s.strand.depth = 0 → rows ≠ [] → rows.length ≤ 4096 →
    (∀ r ∈ rows, r.src.toNat % 128 = 0 ∧ r.dst.toNat % 128 = 0 ∧ r.len % 128 = 0 ∧ 128 ≤ r.len) →
    rows.foldl (fun n r => n + r.len) 0 ≤ 2 ^ 23 →
    (ends.getLsbD 0 = true → a.toNat < 2 ^ 32 ∧ ∀ r ∈ rows, r.src.toNat + r.len ≤ s.strand.strip.length * 16384) →
    (ends.getLsbD 1 = true → b.toNat < 2 ^ 32 ∧ ∀ r ∈ rows, r.dst.toNat + r.len ≤ s.strand.strip.length * 16384) →
    List.Forall₂ (CopyEndAt s (ends.getLsbD 0) .read) (rowSectors (rows.map (fun r => (r.src, r.len)))) src →
    List.Forall₂ (CopyEndAt s (ends.getLsbD 1) .write) (rowSectors (rows.map (fun r => (r.dst, r.len)))) dst →
    (ends = 0 → ∀ va p vb q, CopyEnd.mem va p ∈ src ++ dst → CopyEnd.mem vb q ∈ src ++ dst → p.grid = q.grid) →
    ((copiesOf s s.strandId = [] ∧ s.strand.sched.commits = []) ∨
      copyMeets s (boundingRange (ends.getLsbD 0) (rows.map (fun r => (r.src, r.len))))
        (boundingRange (ends.getLsbD 1) (rows.map (fun r => (r.dst, r.len)))) = .ok ()) →
    (copiesOf s s.strandId).length < 16 → (s.core (coreOf s.strandId)).copies.length < 64 →
    ∃ (r : CopyReq) (t : State), exec i s = .next t ∧ t.strand.pc = s.strand.pc + 4 ∧ t.mem = s.mem ∧
      (t.core (coreOf s.strandId)).copies = (s.core (coreOf s.strandId)).copies ++ [r] ∧
      r.moves.Perm ((src.zip dst).map (fun m => ⟨m.1, m.2, none⟩)) ∧
      ((∀ v w x e, i ≠ .cpGth v w x e) → r.moves = (src.zip dst).map (fun m => ⟨m.1, m.2, none⟩)) ∧
      r.moved = 0 ∧ r.gid = some s.strandId ∧ r.asking = none ∧ r.orphan = none ∧
      (let mem := !(ends.getLsbD 0 && ends.getLsbD 1)
       r.promise = BitVec.ofNat 64 (Nat.max s.cycle.toNat (s.core (coreOf s.strandId)).copyTail + copyLat mem +
         copyTime mem (128 * src.length) rows.length)) ∧
      (s.exposed = false → d ≠ 0 → t.rdS d = r.promise)

/-- R270 to R272: a stream transform that meets its stream's conditions and runs to the end of its elements. A decoder writes one register
of its format, an unpacked element being the bits of the stream at its place, and moves the stream on past the bytes it read; an encoder
writes the bytes of its elements into the strip memory of the stream and moves it on past them. One element, with no copy of the strand
under way: a varint of one byte is decoded to its number, or to the number of its zigzag code, and written as that byte; a RAW element is
unpacked from its bytes and packed into them, the other bytes of its sector staying as they read. -/
def Obligations.StreamTransforms : Prop :=
  ∀ (s : State) (i : Instr), VecReady s i → s.exposed = false →
    (∀ d h f vr sg els p, decoderRow i = some (d, h, f, vr, sg) → checkVxf s h f (if vr then varintTarget f else packable f) = .ok () →
      decodeRun s h f vr sg (s.strand.vl - s.strand.sys.vstart.toNat) s.strand.sys.vstart.toNat
        (s.strand.h[h.toNat].pos.toNat, startPhase s.strand f vr) = (els, p, none) →
      ∃ (r : VReg) (fl : Sticky) (u : State), u = { s with cores := u.cores } ∧ r.fmt = f ∧
        (∀ k v, els[k]? = some (.bits v) → r.slot (s.strand.sys.vstart.toNat + k) = v) ∧
        exec i s = .next (((u.put 0 [.pos h (endPos s.strand.h[h.toNat] vr p none)] 0).putV 0 d r fl).vecDone)) ∧
    (∀ d h vr sg ps fl p, encoderRow i = some (d, h, vr, sg) →
      checkVxf s h (s.vreg d).fmt (if vr then varintSource (s.vreg d).fmt else packable (s.vreg d).fmt) = .ok () →
      (s.vreg d).isUndef = false → ownsStrip s s.strand = true →
      encodeRun s h (s.vreg d) (s.vreg d).fmt vr sg (s.strand.vl - s.strand.sys.vstart.toNat) s.strand.sys.vstart.toNat
        (s.strand.h[h.toNat].pos.toNat, startPhase s.strand (s.vreg d).fmt vr) = (ps, fl, p, none) →
      exec i s = .next ((((writePieces s h ps).put 0 [.pos h (endPos s.strand.h[h.toNat] vr p none)] 0).put 0 [] fl).vecDone)) ∧
    (∀ h k n off, StreamAt s h k n off →
      (∀ d f vr sg, decoderRow i = some (d, h, f, vr, sg) → (∀ j, j < n → tagVcls (s.stripRead (off + j)).tag ≠ clsPoison) →
        s.strand.tooWide f = false →
        ((vr = true ∧ n = 1 ∧ varintTarget f = true ∧ (s.stripByte off).toNat < 128 ∧ (sg = true → f ≠ .uint8)) ∨
          (vr = false ∧ f = .raw ∧ 8 * n = s.strand.wmax)) →
        ∃ t, exec i s = .next t ∧ t.strand.pc = s.strand.pc + 4 ∧ t.strand.sys.vstart = 0 ∧ t.mem = s.mem ∧ (t.vreg d).fmt = f ∧
          t.strand.h[h.toNat].pos = BitVec.ofNat 32 ((s.strand.h[h.toNat].pos.toNat + n) % s.strand.h[h.toNat].len.toNat) ∧
          (t.vreg d).slot k = if vr = false then BitVec.ofNat 64 (bytesLE (fun j => s.stripByte (off + j)) n)
            else if sg = false then (s.stripByte off).setWidth 64
            else (BitVec.ofInt (Fmt.width 64 f) (unzigzag (s.stripByte off).toNat)).setWidth 64) ∧
      (∀ d vr sg v, encoderRow i = some (d, h, vr, sg) → PlainReg s d (if vr then .int8 else .raw) → (s.vreg d).isUndef = false →
        ownsStrip s s.strand = true → off % 128 + n ≤ 128 →
        ((vr = false ∧ 8 * n = s.strand.wmax ∧ v = ((s.vreg d).slot k).toNat) ∨
          (vr = true ∧ n = 1 ∧ v < 128 ∧ v = if sg then zigzag (((s.vreg d).slot k).setWidth 8).toInt else (((s.vreg d).slot k).setWidth 8).toNat)) →
        ∃ t, exec i s = .next t ∧ t.strand.pc = s.strand.pc + 4 ∧ t.strand.sys.vstart = 0 ∧ t.mem = s.mem ∧
          t.strand.h[h.toNat].pos = BitVec.ofNat 32 ((s.strand.h[h.toNat].pos.toNat + n) % s.strand.h[h.toNat].len.toNat) ∧
          ∀ j, j < 128 → (t.stripRead off).bits.extractLsb' (8 * j) 8 =
            if off % 128 ≤ j ∧ j < off % 128 + n then BitVec.ofNat 8 (v / 2 ^ (8 * (j - off % 128)))
            else s.stripByte (off / 128 * 128 + j)))

/-! ### Worlds -/

/-- R204 to R207, R209, R210, R212: `fork` and `fork.s` of 2 to 8 rivals, when ids, budgets and strip memory are there for them, open a
fork: each rival is a fresh view one world deeper, at its index, with no copy of its own; the strand becomes the judge and reads 0.
`settle` ends a rival with its verdict and `abandon` discards it with all its copies; the strand is free. `abandon.all` closes the judge's
fork: all its rivals are discarded but those that have faulted, and stay so. `vid` reads the record of a rival. Memory keeps its bytes
throughout. -/
def Obligations.WorldForks : Prop :=
  ∀ (s : State), Quiet s →
    (∀ (d a : SReg) (sc : Bool) (k : Nat), (s.rdS a).toNat = k → 2 ≤ k → k ≤ 8 → s.strand.judge = false → s.strand.depth ≠ 4 →
      (freeViewIds s k).length = k → s.views.length + k ≤ 4095 → viewsLeft s s.strand.block k = true →
      (sc = true → k * (s.strand.strip.length * 16384) ≤ (freeGranuleList s (coreOf s.strandId)).length * 16384) →
      ∃ t, exec (if sc then .forkS d a else .fork d a) s = .next t ∧ t.strand.pc = s.strand.pc + 4 ∧ t.mem = s.mem ∧
        t.strand.judge = true ∧ (s.exposed = false → t.rdS d = 0) ∧
        (∃ l, lookupNat s.forkSeq t.forks = some l ∧ l.length = k ∧ ∀ r ∈ l, r.state = .fresh ∧ r.verdict = 0) ∧
        ∀ p ∈ (List.range k).zip (freeViewIds s k), ∃ v, lookupNat p.2 t.views = some v ∧ v.parent = s.strand.vid ∧
          v.depth = s.strand.depth + 1 ∧ v.state = .fresh ∧ v.index = p.1 ∧ v.copies = []) ∧
    (∀ (a : SReg) (v : View), s.strand.depth ≠ 0 → s.strand.judge = false → lookupNat s.strand.vid s.views = some v →
      ((s.rdS a).toNat < 2 ^ 48 → ∃ t w, exec (.settle a) s = .next t ∧ t.strand.phase = .free ∧ t.mem = s.mem ∧
        lookupNat s.strand.vid t.views = some w ∧ w.state = .settled ∧ w.gid = none ∧ w.copies = v.copies ∧
        (∀ l r, lookupNat v.fork s.forks = some l → l[v.index]? = some r → ∃ l', lookupNat v.fork t.forks = some l' ∧
          l'[v.index]? = some { r with state := .settled, verdict := (s.rdS a).setWidth 48 })) ∧
      (v.gid = some s.strandId → v.state = .running → (∀ p ∈ s.views, p.2.parent ≠ s.strand.vid) →
        ∃ t, exec .abandon s = .next t ∧ t.strand.phase = .free ∧ t.mem = s.mem ∧ t.views = eraseNat s.strand.vid s.views ∧
          (s.strand.vid, v.generation) ∈ t.reclaims)) ∧
    (∀ f, s.strand.judge = true → s.strand.fork = some f → ∃ t, exec .abandonAll s = .next t ∧ t = (abandonRivals s f.seq).retire ∧
      t.mem = s.mem ∧ t.strand.judge = false ∧
      t.strand.fork = some { seq := f.seq, rivals := (s.rivals f.seq).map (fun r =>
        if r.state = .faulted then r else { r with state := .discarded }) }) ∧
    (∀ (d a : SReg) (r : Rival) (l : List Rival), (s.rdS a).toNat ≤ 7 → (recordOf s).drop (s.rdS a).toNat = r :: l →
      exec (.vid d a) s = .next ((s.putS 1 d (BitVec.ofNat 64 (r.verdict.toNat + 2 ^ 48 * r.state.code + 2 ^ 52 * r.id)) 0).retire))

/-- R211, R213: `choose` of a rival of the open fork and `choose.best`, all rivals having ended: the chosen rival's copies go to the parent
view, or to memory when the judge is in the base view; the fork closes, and the destination takes the rival's number plus 1, or 0 when the
named rival has not settled. -/
def Obligations.WorldChoices : Prop :=
  ∀ (s : State) (f : Fork) (d a : SReg) (i : Instr) (sel : Option Nat), JudgeReady s f.seq → s.strand.fork = some f →
    ((i = .choose d a ∧ (s.rdS a).toNat ≤ 7 ∧ (s.rdS a).toNat < (s.rivals f.seq).length ∧ sel = namedRival (s.rivals f.seq) (s.rdS a).toNat) ∨
      (i = .chooseBest d ∧ sel = bestRival (s.rivals f.seq))) →
    (∀ k r v, sel = some k → (s.rivals f.seq)[k]? = some r → lookupNat r.id s.views = some v → Committable s v) →
    ∃ t, exec i s = .next t ∧ t.strand.pc = s.strand.pc + 4 ∧ t.strand.judge = false ∧
      (s.exposed = false → d ≠ 0 → t.rdS d = match sel with
        | some k => BitVec.ofNat 64 (k + 1)
        | none => 0) ∧
      (sel = none ∨ s.strand.vid ≠ 0 → t.mem = s.mem) ∧
      (∀ k r v, sel = some k → s.strand.vid = 0 → (s.rivals f.seq)[k]? = some r → lookupNat r.id s.views = some v → v.outbox = [] →
        t.mem = (v.copies.foldl (fun u c => u.writeBase (some (dieOf s.strandId)) c.1 c.2.1) s).mem)

/-- R208, R211, R320: the events of worlds, where no posting of the core's save engine is held (R360). A fresh or spilled rival that fits
its budgets takes a free strand of its core, with the registers of its image; a judge whose rivals have ended goes on with its `choose`,
on its own strand or, parked, on a free one. Either waits first for the copies that it left in flight (R202). A reclaimed view id leaves
the list, and the slices and the LLC lose the slots of its generation. -/
def Obligations.WorldEvents : Prop :=
  ∀ (s : State),
    (∀ core g id v x l, saveStalled s core = false → freeStrandOf s core = some g → waitingRivals s core = (id, v) :: l →
      strandFits s v.block = true → lookupNat id s.views = some v → v.image = some x → ∃ t, exec (.rivalPlace core) s = .next t ∧
      t.strandAt g = { x with phase := .running, lastBoundary := s.cycle.toNat, ticked := true, wait := (t.strandAt g).wait } ∧
      ((t.strandAt g).wait = x.wait ∨ (t.strandAt g).wait = some .resumed) ∧ t.mem = s.mem ∧
      ∀ w, lookupNat id t.views = some w → w.state = .running ∧ w.gid = some g ∧ w.image = none) ∧
    (∀ g f, (s.strandAt g).phase = .running → (s.strandAt g).wait = some .choose → (s.strandAt g).fork = some f →
      (s.rivals f.seq).all Rival.terminal = true →
      exec (.chooseResume g) s = .next (s.setStrandAt g { s.strandAt g with wait := none, ticked := true })) ∧
    (∀ g p, (s.strandAt g).phase = .free → strandFree s g = true → readyJudge s g = some p → strandFits s p.strand.block = true →
      ∃ t, exec (.chooseResume g) s = .next t ∧
        t.strandAt g = { p.strand with phase := .running, lastBoundary := s.cycle.toNat, ticked := true, wait := (t.strandAt g).wait } ∧
        ((t.strandAt g).wait = p.strand.wait ∨ (t.strandAt g).wait = some .resumed) ∧ t.mem = s.mem) ∧
    (∀ v, ∃ t, exec (.viewReclaim v) s = .next t ∧
      t = { s with reclaims := s.reclaims.filter (fun p => p.1 != v), dies := t.dies, llc := t.llc } ∧
      (∀ die e, e ∈ (t.die die).slots ↔ e ∈ (s.die die).slots ∧ ¬ (e.1 % 4096 = v ∧ (v, e.2.gen) ∈ s.reclaims)) ∧
      (∀ e ∈ t.llc, e.1 % 4096 = v → ∀ q ∈ e.2.slots, (v, q.2.gen) ∉ s.reclaims) ∧ ∀ e, e.1 % 4096 ≠ v → (e ∈ t.llc ↔ e ∈ s.llc))

/-! ### Tasks, leases, barriers, context images -/

/-- R302 to R310, R112: spawning and ending tasks. `spawn` and `spawn.t` of a well-formed frame into a well-formed queue with room count its
TAIL on, put the frame with its valid bit into the slot, the queue into the frame's LQ, read 0, and change no other sector; when the queue
is full `spawn.t` reads 2, and `spawn`, drained and below its bound, writes its inline record and runs the child at its entry with the
frame's address in `s1`. The queue's header, HEAD, TAIL and slot and the frame lie in ordinary sectors, the three that are written apart.
`task.end` of a strand outside every world, with nothing to drain, frees it; the join counter of its frame, where it names one, loses 1
first. The end of an inline child whose record and frame are well-formed, and whose frame names no counter, returns to the record's address
with its stack pointer raised and 1 in its destination. `yield` of such a strand frees it; it has written the resume address and the RES
bit into the frame, and handed the frame back to its queue, or to the die's hold list where that has room. -/
def Obligations.TaskInstructions : Prop :=
  ∀ (s : State), s.Canonical → s.turn = none → s.strand.depth = 0 →
    (∀ (d a b : SReg) (fa q slot : Word) (pf pq ph pt ps : Page) (w : List Nat) (tail : Word), fa = s.rdS a → q = s.rdS b →
      fa.toNat % 128 = 0 → q.toNat % 128 = 0 → w = [pt.pa / 128, ps.pa / 128, pf.pa / 128] → w.Nodup → copiesOf s s.strandId = [] →
      FrameAt s fa pf w → frameImg (s.bitsOf pf) = false → PlainPlace s .write fa pf w → PlainPlace s .read q pq w →
      queueWellFormed (s.bitsOf pq) = true → queueDevApp (s.bitsOf pq) = true → (queueOwner s s.strand.block pq.pa).isSome = true →
      PlainPlace s .read (q + 64) ph w → PlainPlace s .read (q + 512) pt w → PlainPlace s .rmw (q + 512) pt w →
      tail = s.wordAt pt (q + 512) → slot = q + 1024 + BitVec.ofNat 64 (8 * (tail.toNat % queueSize (s.bitsOf pq))) →
      PlainPlace s .write slot ps w →
      ((tail - s.wordAt ph (q + 64)).toNat < queueSize (s.bitsOf pq) → ∀ i ∈ [Instr.spawn d a b, .spawnT d a b], ∃ u : State,
        exec i s = .next ((u.putS 1 d 0 0).retire) ∧ u.pc = s.pc ∧ u.wordAt pt (q + 512) = tail + 1 ∧ u.wordAt ps slot = fa ||| 1 ∧
        u.wordAt pf (fa + 56) = q ∧ ∀ k, k ∉ w → u.mem.sector k = s.mem.sector k) ∧
      (queueSize (s.bitsOf pq) ≤ (tail - s.wordAt ph (q + 64)).toNat →
        exec (.spawnT d a b) s = .next ((s.putS 1 d 2 0).retire) ∧
        (∀ r pr, s.strand.inlDepth < s.strand.inlBound → drained s s.strandId = true → r = s.strand.s[62] - 128 → r.toNat % 128 = 0 →
          PlainPlace s .write r pr [] → ∃ u : State, exec (.spawn d a b) s = .next u ∧ u.pc = frameEntry (s.bitsOf pf) ∧
            u.strand.s[1] = fa ∧ u.strand.s[62] = r ∧ u.strand.mode = false ∧ u.strand.inlDepth = s.strand.inlDepth + 1 ∧
            u.wordAt pr r = s.pc + 4 ∧ ∀ k, k ≠ pr.pa / 128 → u.mem.sector k = s.mem.sector k))) ∧
    (s.strand.tip = false → s.strand.judge = false → drained s s.strandId = true → s.strand.inlDepth = 0 →
      (s.strand.task = none → ∀ i ∈ [Instr.taskEnd, .yield], ∃ t, exec i s = .next t ∧ t.strand.phase = .free ∧ t.mem = s.mem) ∧
      (∀ k p, s.strand.task = some k → FrameAt s k.frame p [] →
        (frameJoin (s.bitsOf p) = 0 → ∃ t, exec .taskEnd s = .next t ∧ t.strand.phase = .free ∧ t.mem = s.mem) ∧
        (∀ c pj, c = frameJoin (s.bitsOf p) → c ≠ 0 → PlainPlace s .rmw c pj [] → s.unacked = [] →
          ∃ t, exec .taskEnd s = .next t ∧ t.strand.phase = .free ∧
            StoredBytes s t (placeOf pj c) 8 (s.wordAt pj c - 1).toNat)) ∧
      (∀ k p, s.strand.task = some k → k.frame.toNat % 128 = 0 → FrameAt s k.frame p [p.pa / 128] →
        PlainPlace s .write k.frame p [p.pa / 128] → (s.die (dieOf s.strandId)).holdList.length < 1024 →
        ∃ t u v : State, exec .yield s = .next t ∧ t.strand.phase = .free ∧ t.mem = v.mem ∧
          requeue u (dieOf s.strandId) k s.strand.asid = some v ∧ u.wordAt p (k.frame + 16) = s.pc + 4 ∧
          u.wordAt p k.frame = s.wordAt p k.frame ||| 256 ∧ ∀ n, n ≠ p.pa / 128 → u.mem.sector n = s.mem.sector n)) ∧
    (∀ (r child : Word) (pr pc : Page) (n : Nat), s.strand.tip = false → s.strand.judge = false → drained s s.strandId = true →
      1 ≤ s.strand.inlDepth → s.strand.inlDepth ≤ 8 → r = s.strand.s[62] → r.toNat % 128 = 0 → PlainPlace s .read r pr [] →
      tagVcls (s.mem.tag (pr.pa / 128)) ≠ clsUndef → n = s.bitsOf pr → cut n 704 64 = r.toNat → cut n 652 52 = 0 → cut n 832 192 = 0 →
      cut n 0 2 = 0 → child = BitVec.ofNat 64 (cut n 768 64) → FrameAt s child pc [] → frameJoin (s.bitsOf pc) = 0 →
      ∃ t, exec .taskEnd s = .next t ∧ t.mem = s.mem ∧ t.pc = BitVec.ofNat 64 (cut n 0 64) ∧ t.strand.inlDepth = s.strand.inlDepth - 1 ∧
        (cut n 645 6 ≠ 62 → t.strand.s[62] = r + 128) ∧ (cut n 645 6 ≠ 0 → t.rdS (BitVec.ofNat 6 (cut n 645 6)) = 1) ∧
        t.strand.mode = (cut n 651 1 == 1))

/-- R312 to R314: leases and barriers. `lease.req` within the cap writes MIN and PREF and keeps the grant until the next strip
boundary; `lease.rel` with no vector result pending gives the lease back and keeps the vectors, predicates and tiles aside, `lease.rel.d`
drops them and what records of a save stood for them (R282); with an empty grant either only clears MIN and PREF. `bar.cl` of a strand with
no copy under way counts it in: the last to arrive goes on and begins the next generation, an earlier one waits for it. -/
def Obligations.LeasesAndBarriers : Prop :=
  ∀ (s : State), s.turn = none →
    (∀ (lo hi : BitVec 4), lo.toNat ≤ capOf s s.strandId → ∃ t, exec (.leaseReq (lo.setWidth 6) (hi.setWidth 6)) s = .next t ∧
      t.strand.pc = s.strand.pc + 4 ∧ t.mem = s.mem ∧ t.strand.least = lo.toNat ∧ t.strand.pref = hi.toNat ∧
      t.strand.grant = s.strand.grant ∧ t.strand.v = s.strand.v) ∧
    (vectorPending s.strand = false →
      (s.strand.grant ≠ 0 → ∃ t, exec .leaseRel s = .next t ∧ t.strand.pc = s.strand.pc + 4 ∧ t.mem = s.mem ∧ t.strand.grant = 0 ∧
        t.strand.leaseZero = some { v := s.strand.v, p := s.strand.p, tiles := s.strand.tiles, vlmax := s.strand.vlmax, stored := false }) ∧
      (s.strand.grant ≠ 0 → ∃ t, exec .leaseRelD s = .next t ∧ t.strand.pc = s.strand.pc + 4 ∧ t.mem = s.mem ∧ t.strand.grant = 0 ∧
        t.strand.v = Vector.replicate 64 VReg.reset ∧ t.strand.tiles = Vector.replicate 8 Tile.reset ∧
        t.strand.p = Vector.replicate 16 0 ∧ t.strand.pWritten = 0 ∧ t.strand.tileWritten = 0 ∧ t.strand.predRecord = (0, 0) ∧
        t.strand.tdir = 0) ∧
      (s.strand.grant = 0 → ∀ i ∈ [Instr.leaseRel, .leaseRelD], ∃ t, exec i s = .next t ∧ t.strand.pc = s.strand.pc + 4 ∧ t.mem = s.mem ∧
        t.strand.least = 0 ∧ t.strand.pref = 0 ∧ t.strand.grant = 0 ∧ t.strand.v = s.strand.v ∧ t.strand.leaseZero = s.strand.leaseZero)) ∧
    (∀ (a b : SReg) (x : Barrier), (s.rdS a).toNat ≤ 15 → 1 ≤ (s.rdS b).toNat → (s.rdS b).toNat ≤ 256 → s.strand.depth = 0 →
      drained s s.strandId = true → copiesOf s s.strandId = [] → x = s.barrier (clusterOf s.strandId) (s.rdS a).toNat →
      (x.arrived ≠ 0 → x.owner = some s.strand.asid ∧ x.target = (s.rdS b).toNat) →
      (x.arrived + 1 = (s.rdS b).toNat → ∃ t, exec (.barCl a b) s = .next t ∧ t.strand.pc = s.strand.pc + 4 ∧
        t.barrier (clusterOf s.strandId) (s.rdS a).toNat =
          { target := (s.rdS b).toNat, arrived := 0, gen := x.gen + 1, owner := none } ∧ t.mem = s.mem) ∧
      (x.arrived + 1 ≠ (s.rdS b).toNat → ∃ t, exec (.barCl a b) s = .next t ∧
        t.strand = { s.strand with wait := some (.barrier (s.rdS a).toNat x.gen.toNat) } ∧
        t.barrier (clusterOf s.strandId) (s.rdS a).toNat =
          { target := (s.rdS b).toNat, arrived := x.arrived + 1, gen := x.gen, owner := some s.strand.asid } ∧ t.mem = s.mem))

/-- R280, R286, R290, R291: `ctx.save` of a supervisor outside every world frees its strand, when no posting of the core's save engine is
held (R360) and the die's hold list has room for its frame; its task's image stands with its core, from outside a handler with the
registers as they are and the next word as its resume address. `ctx.load` of an image in a header without POISON that fails a check of
R291 (not the issuer's own frame; the order of the checks is log 29) reads the number of the check and goes on, a malformed image with its
record; of the parked image of a task of its block that its own core keeps, with a header within its limits, it gives the strand to that
image, at that image's pc and with its registers; the issuer, which has no task here, leaves nothing. Both at PRIV = 0 raise the privilege
trap. -/
def Obligations.ContextInstructions : Prop :=
  ∀ (s : State), s.Canonical → s.turn = none →
   (s.strand.priv = false → exec .ctxSave s = .next (s.takeTrap { code := 0x02, data := wordOf .ctxSave, vec := false, sub := 0, pa := 0xFFFFFFFFFFFFFFFF }) ∧
    ∀ d a, exec (.ctxLoad d a) s = .next (s.takeTrap { code := 0x02, data := wordOf (.ctxLoad d a), vec := false, sub := 0, pa := 0xFFFFFFFFFFFFFFFF })) ∧
   (s.strand.priv = true → s.strand.depth = 0 → saveStalled s (coreOf s.strandId) = false → s.walksFresh →
    ((s.strand.task ≠ none → (s.die (dieOf s.strandId)).holdList.length < 1024) → ∃ t, exec .ctxSave s = .next t ∧ t.strand.phase = .free ∧
      ∀ k, s.strand.task = some k → s.strand.vid = 0 → s.strand.tip = false → ∃ i x, i ∈ (t.core (coreOf s.strandId)).images ∧
        i.asid = s.strand.asid ∧ i.task.frame = k.frame ∧ i.parked = false ∧ i.granules = s.strand.strip ∧ i.staged = some x ∧
        x.pc = s.strand.pc + 4 ∧ x.s = s.strand.s ∧ x.p = s.strand.p ∧ x.v = s.strand.v) ∧
    (∀ (d a : SReg) (p : Page) (h : Nat), s.strand.tip = false → FrameAt s (s.rdS a) p [] →
      s.strand.task.map (fun k => k.frame) ≠ some (s.rdS a) → AreaHolds s (frameSave (s.bitsOf p)) 64 h →
      (loadCheck s h (frameSave (s.bitsOf p)).toNat (s.bitsOf p) ≠ 0 → exec (.ctxLoad d a) s =
        .next (((if loadCheck s h (frameSave (s.bitsOf p)).toNat (s.bitsOf p) = 5 then malformedImage s (s.rdS a) else s).putS 1 d
          (BitVec.ofNat 64 (loadCheck s h (frameSave (s.bitsOf p)).toNat (s.bitsOf p))) 0).retire)) ∧
      (∀ i x, s.strand.task = none → (s.cores.map Prod.fst).Pairwise (· < ·) → imageCore s s.strand.asid (frameSave (s.bitsOf p)) = some (coreOf s.strandId, i) →
        i.task.save = frameSave (s.bitsOf p) → i.staged = some x → cut h 8 3 = 2 → BitVec.ofNat 12 (cut h 5120 12) = s.strand.asid →
        i.task.block = s.strand.block → (cut h 11 1 = 1 ∨ cut h 12 9 = coreOf s.strandId) → headerOk h = true →
        ∃ t, exec (.ctxLoad d a) s = .next t ∧ t.strand.phase = .running ∧ t.strand.pc = x.pc ∧ t.strand.s = x.s ∧
          t.strand.strip = i.granules ∧ t.strand.task = some { i.task with placedAt := s.cycle.toNat })))

/-- R399 to R402: a collective outside every world, whose descriptor is a valid RAW sector within its limits, whose buffers lie in
ordinary sectors of one grid each and are aligned, whose other participants the fabric reaches, with no copy of the strand under way and
no write without acknowledgement, counts GEN of the descriptor on, writes it to its destination register, and stands recorded with its
operation and count and no status yet. Then one event ends it, each generation by itself: with the status of the match of all its
submissions, 2 at its time limit, 3 when a participant is lost before they have met. The match of a group of one, a sum of one FP32
element in a sector of its own, writes that element, rounded to the output format, with status 0. The completion, once no destination
write awaits its acknowledgement and the word can be written, writes the completion word: GEN, status and flags. -/
def Obligations.Collectives : Prop :=
  ∀ (s : State),
    (∀ (d a : SReg) (op : CollOp) (pd ps pt : Page) (from_ into : Nat → Page) (n k : Nat), s.Canonical → s.turn = none →
      s.strand.depth = 0 → a.toNat ≤ 60 → n = (s.rdS (a + 3)).toNat → 1 ≤ n → n ≤ 2 ^ 24 → copiesOf s s.strandId = [] → s.unacked = [] →
      (s.rdS a).toNat % 128 = 0 → translate s s.ctx .rmw (s.rdS a) = .ok pd → PlainSector s pd (s.rdS a) true → pd.grid = .raw →
      s.mem.tag (pd.pa / 128) = tagRaw → descOk (s.bitsOf pd) = true → k = (cut (s.bitsOf pd) 288 32 + 1) % 2 ^ 32 →
      membersReached s (cut (s.bitsOf pd) 20 12)
        (groupMembers s s.ctx (BitVec.ofNat 64 (cut (s.bitsOf pd) 128 64)) (descParticipants (s.bitsOf pd))) = true →
      translate s s.ctx .read (s.rdS (a + 1)) = .ok ps → (s.rdS (a + 1)).toNat % (ps.grid.width s.strand.wmax / 8) = 0 →
      translate s s.ctx .write (s.rdS (a + 2)) = .ok pt → (s.rdS (a + 2)).toNat % (pt.grid.width s.strand.wmax / 8) = 0 →
      (op = .bcast → (s.rdS (a + 1)).toNat % 128 = 0 ∧ (s.rdS (a + 2)).toNat % 128 = 0) →
      (∀ j, j < sectorSpan (ps.grid.width s.strand.wmax / 8) ((s.rdS (a + 1)).toNat % 128) n →
        translate s s.ctx .read (sectorVa (s.rdS (a + 1)) + BitVec.ofNat 64 (128 * j)) = .ok (from_ j) ∧ (from_ j).grid = ps.grid ∧
        PlainSector s (from_ j) (sectorVa (s.rdS (a + 1)) + BitVec.ofNat 64 (128 * j)) false) →
      (∀ j, j < sectorSpan (pt.grid.width s.strand.wmax / 8) ((s.rdS (a + 2)).toNat % 128) n →
        translate s s.ctx .write (sectorVa (s.rdS (a + 2)) + BitVec.ofNat 64 (128 * j)) = .ok (into j) ∧ (into j).grid = pt.grid) →
      ∃ (u : State) (c : Collective), exec (match op with
          | .add => .collRedAdd d a
          | .min => .collRedMin d a
          | .max => .collRedMax d a
          | .fo => .collRedFo d a
          | .bcast => .collBcast d a) s = .next u ∧ u.pc = s.pc + 4 ∧ u.collectives = s.collectives ++ [c] ∧ c.op = op.code ∧ c.count = n ∧
        c.gen.toNat = k ∧ c.status = none ∧ c.issue = s.cycle.toNat ∧ (s.exposed = false → d ≠ 0 → u.rdS d = BitVec.ofNat 64 k) ∧
        ∀ e, u.mem.byte e = if 128 * (pd.pa / 128) + 36 ≤ e ∧ e < 128 * (pd.pa / 128) + 40
          then BitVec.ofNat 8 (k / 2 ^ (8 * (e - (128 * (pd.pa / 128) + 36)))) else s.mem.byte e) ∧
    (∀ die gid i c x a p, s.Canonical → findCollective s die gid (fun c => (matched s c).isSome) = some (i, c) → c.status = none → c.p = 1 → c.rank = 0 → c.op = 0 → c.count = 1 →
      c.ofmt = Fmt.code .fp32 → c.slot = 32 → c.grid = .g32 → c.off = 0 → c.own = [x] → x.tag = mkTag clsValid 127 (Fmt.code .fp32) →
      c.dstGrid = .g32 → c.dstOff = 0 → c.dst = [(a, p)] → p.grid = .g32 → p.dpol = 0 → physClass p.pa = .hbm →
      tagVcls (s.physTag (p.pa / 128)) = clsUndef → ∃ (t : State) (fl : Sticky), exec (.collectiveMatch die gid) s = .next t ∧
        t.collectives = s.collectives.set i { c with status := some 0, flags := fl } ∧
        (t.mem.sector (p.pa / 128)).bits.extractLsb' 0 32 =
          ((encodeEl .fp32 127 127 .nearest false (decodeEl .fp32 127 127 (x.bits.setWidth 32 |>.setWidth 64))).1).setWidth 32) ∧
    (∀ die gid i c t st fl, findCollective s die gid (fun c => (matched s c).isSome) = some (i, c) → matched s c = some (t, st, fl) →
      exec (.collectiveMatch die gid) s = .next
        { t with collectives := t.collectives.set i { c with status := some st, flags := fl }, freeTick := t.freeTick + 1 }) ∧
    (∀ die gid i c, findCollective s die gid (collectiveLate s) = some (i, c) →
      c.status = none ∧ c.tmo ≠ 0 ∧ c.issue + c.tmo ≤ s.cycle.toNat ∧
      exec (.collectiveTimeout die gid) s = .next { s with collectives := s.collectives.set i { c with status := some 2 } }) ∧
    (∀ (die gid : Nat), ∃ t, exec (.participantLost die gid) s = .next t ∧ t = { s with collectives := t.collectives } ∧
      ∀ (i : Nat) (c : Collective), s.collectives[i]? = some c → t.collectives[i]? =
        some (if c.die = die ∧ c.gid.toNat = gid ∧ c.status = none ∧ submissions s c = none then { c with status := some 3 } else c)) ∧
    (∀ die gid i c p, s.Canonical → findCollective s die gid (Collective.ready s) = some (i, c) → physClass p.pa = .hbm → s.unpacked →
      translate s (deviceCtx c.die c.asid) .write c.cpl = .ok p → c.cpl.toNat % 8 = 0 → p.pa % 8192 = c.cpl.toNat % 8192 →
      ∃ t, exec (.collectiveComplete die gid) s = .next t ∧ t.collectives = s.collectives.eraseIdx i ∧
        t.fragments = s.fragments.filter (fun m => !fragmentOf c m) ∧ c.performed s = true ∧ (c.status ≠ none) ∧
        StoredBytes s t (placeOf p c.cpl) 8
          (BitVec.ofNat 64 (c.gen.toNat + 2 ^ 32 * (c.status.getD 0).toNat + 2 ^ 36 * c.flags.toNat)).toNat)

/-! ### Handlers -/

/-- R331 to R335, R337, R340: the words of handlers, their guard being 1. `h.fetch` queues a prefetch, or does nothing for an empty mask;
`h.post` of a handler outside every world, and `h.fwd` of one that handles a message, send a message one hop on to a barista with room;
`h.stamp` reads the stamp of a sector; `h.stamp.adv` counts its round on and waits for the mirrors, and then reads the new count; `h.done`
ends the invocation and `h.abort` aborts it with its code. `bmsg` of a strand outside every world, with no copy under way, sends the first
message. -/
def Obligations.HandlerInstructions : Prop :=
  ∀ (s : State),
    (∀ (me : Nat) (v : Invocation) (a b : SReg), Handling s me v →
      ((s.rdS b).toNat < 32 → (s.rdS b).toNat % 16 = 0 → exec (.hFetch a b) s = .next s.retire) ∧
      (∀ p, (s.rdS b).toNat < 32 → (s.rdS b).toNat % 16 ≠ 0 → translate s s.ctx .read (lineVa (s.rdS a)) = .ok p →
        (s.barista me).prefetches.length < 32 → ∃ (e : Prefetch) (t : State), exec (.hFetch a b) s = .next t ∧ t.pc = s.pc + 4 ∧
          t.mem = s.mem ∧ (t.barista me).prefetches = (s.barista me).prefetches ++ [e] ∧ e.page = p ∧ e.mask = (s.rdS b).setWidth 4) ∧
      (∀ p, v.event.hop ≠ 15 → translate s s.ctx .read (s.rdS a) = .ok p → p.hen = true → messageEntry s (me / 48) v.event.asid ≠ 0 →
        v.event.view = 0 → messageRoom s (homeBarista (me / 48) p.pa) = true →
        exec (.hPost a b) s = .next ((s.sendMessage (homeBarista (me / 48) p.pa)
          (postedMessage v (s.rdS a) (s.rdS b) (BitVec.ofNat 64 (2 ^ 15 + me % 48)))).retire) ∧
        (v.event.kind = 3 → exec (.hFwd a) s = .next ((s.sendMessage (homeBarista (me / 48) p.pa)
          (postedMessage v (s.rdS a) v.event.payload v.event.source)).retire))) ∧
      (∀ p, translate s s.ctx .read (s.rdS b) = .ok p →
        exec (.hStamp a b) s = .next ((s.putS 1 a (stampOf s me v.event.view p) 0).retire)) ∧
      (∀ rg, (s.rdS b).toNat = rg → rg < 1024 → (s.region rg).valid = true → (s.region rg).owner = v.event.asid → v.event.view = 0 →
        ((s.barista me).progress = none → ∃ t, exec (.hStampAdv a b) s = .next t ∧ (t.region rg).count = (s.region rg).count + 1 ∧
          (t.barista me).wait = some (.roundMirrors rg) ∧ (t.barista me).progress = some (.round ((s.region rg).count + 1)) ∧ t.mem = s.mem) ∧
        (∀ n, (s.barista me).progress = some (.round n) → exec (.hStampAdv a b) s =
          .next (((s.setBarista me { s.barista me with progress := none }).putS 1 a n 0).retire))) ∧
      (∃ t, exec .hDone s = .next t ∧ (t.barista me).invocation = none ∧ (t.barista me).lent = none ∧ (t.barista me).wait = none ∧
        (t.barista me).s = (s.barista me).s ∧ t.mem = s.mem) ∧
      ((s.rdS a).toNat < 128 → exec (.hAbort a) s = .next (s.abortHandler me ((s.rdS a).setWidth 8)) ∧
        ((s.abortHandler me ((s.rdS a).setWidth 8)).barista me).invocation = none)) ∧
    (∀ (a b : SReg) (p : Page), s.turn = none → s.guard0 = true → (s.rdS a).toNat % 8 = 0 → translate s s.ctx .read (s.rdS a) = .ok p →
      p.hen = true → messageEntry s (dieOf s.strandId) s.strand.asid ≠ 0 → s.strand.depth = 0 → copiesOf s s.strandId = [] →
      messageRoom s (homeBarista (dieOf s.strandId) p.pa) = true →
      exec (.bmsg a b) s = .next ((s.sendMessage (homeBarista (dieOf s.strandId) p.pa)
        { kind := 3, sect := 0, dirty := 0, hop := 0, write := false, view := 0, asid := s.strand.asid, addr := s.rdS a
          payload := s.rdS b, source := sourceOf s.ctx false }).retire))

/-- R328, R329, R332, R336, R337, R342, R381: the events of a slice. A message arrives in its queue; an invocation starts at the entry of
its kind with the registers of R329; at its time limit it is aborted with 0xFF; the oldest prefetch is taken, once no sector that it reads
is BUSY; a host write, when no transfer is held, clears the counters; a new window of handler time begins. -/
def Obligations.HandlerEvents : Prop :=
  ∀ (s : State) (b : Nat),
    (∀ m l, (s.barista b).inFlight = m :: l →
      exec (.messageArrival b) s = .next ((s.setBarista b { s.barista b with inFlight := l }).queueEvent b m)) ∧
    (∀ e l d, (s.barista b).invocation = none → (s.barista b).queue = e :: l →
      lookupNat e.asid.toNat (s.die (b / 48)).directory = some d → d.entry e.kind ≠ 0 →
      ∃ t, exec (.invocationStart b) s = .next t ∧ t.mem = s.mem ∧ (t.barista b).queue = l ∧ (t.barista b).pc = d.entry e.kind ∧
        (t.barista b).invocation = some { event := e, start := s.cycle, limit := if d.limit = 0 then 1024 else d.limit, lost := false } ∧
        (t.barista b).s[2] = e.addr ∧ (t.barista b).s[3] = e.payload ∧ (t.barista b).s[4] = e.source ∧ (t.barista b).s[5] = s.cycle ∧
        (t.barista b).s[7] = d.harg ∧ (t.barista b).p = 0) ∧
    (∀ v, PlainRun s → (s.barista b).invocation = some v → v.start.toNat + v.limit ≤ s.cycle.toNat →
      exec (.handlerTimeLimit b) s = .next (s.abortHandler b 0xFF)) ∧
    (∀ f l, (s.barista b).prefetches = f :: l → prefetchHeld s f = false →
      ∃ t, exec (.prefetchFill b) s = .next t ∧ (t.barista b).prefetches = l ∧ MemKept s t) ∧
    (PlainIngress s → b < 192 →
      exec (.baristaCountersClear b) s = .next (s.setBarista b { s.barista b with counters := SliceCounters.reset })) ∧
    exec .btimeWindowStart s = .next { s with blocks := s.blocks.map (fun q => (q.1, { q.2 with btimeUsed := 0 })) }

/-! ### Events of strands -/

/-- R24, R110, R162, R166, R181, R230, R236, R240, R286, R314, R375: the event that ends a wait takes effect when its condition holds. The
strand's wait is over, or, where its instruction has begun, that one finishes next; nothing else of the strand changes but what the event
delivers, and the mark that a frozen schedule clock stands still to the end of the clock (log 2). A restored task waits for the copies
that it left in flight. The end of a reshape frees its clusters. Commits that are due land: they leave the buffer, and a scalar result
that stands alone is in its register. -/
def Obligations.WaitEnds : Prop :=
  ∀ (s : State) (g : Nat) (x : Strand), s.strandAt g = x → x.phase = .running →
    (∀ t, x.wait = some (.vwait t) → x.watchHit = true →
      exec (.vwaitWake g) s = .next (s.setStrandAt g { x with wait := none, watchHit := false, monitors := [] })) ∧
    (∀ t, x.wait = some (.vwait t) → t ≤ s.cycle →
      exec (.vwaitDeadline g) s = .next (s.setStrandAt g { x with wait := none, watchHit := false, monitors := [] })) ∧
    (∀ q n y, x.wait = some (.queue q n) → lookupNat q (s.core (coreOf g)).queues = some y → (y.ripe s.cycle).length ≠ n →
      exec (.queueWaitEnd g) s = .next (s.setStrandAt g { x with wait := none })) ∧
    (∀ rg n, x.wait = some (.bounded rg n) → roundAtLeast (shadowOf s (dieOf g) rg) n = true →
      exec (.boundedLoadWaitEnd g) s = .next (s.setStrandAt g { x with wait := none, ticked := true })) ∧
    (x.wait = some .late → lateCopy s g = false →
      exec (.lateResultReady g) s = .next (s.setStrandAt g { x with wait := none, ticked := true })) ∧
    (∀ t, x.wait = some (.tagging t) → t ≤ s.cycle.toNat →
      exec (.stripTaggingComplete g) s = .next (s.setStrandAt g { x with wait := none, ticked := true })) ∧
    (∀ b n, x.wait = some (.barrier b n) → (s.barrier (clusterOf g) b).gen.toNat ≠ n →
      exec (.barrierWake g) s = .next (s.setStrandAt g { x with pc := x.pc + 4, lent := none, wait := none })) ∧
    (∀ since pa l, x.wait = some (.touchstone since (pa :: l)) → nextTicket s g = some pa → journalled s pa = false →
      ∃ t, exec (.touchstoneGrant g) s = .next t ∧ t.touchstone = s.touchstone + 1 ∧ t.mem = s.mem ∧
        (t.strandAt g).wait = (if l = [] then some .finish else some (.touchstone since l)) ∧ (t.strandAt g).pc = x.pc) ∧
    (x.wait = some .grant → grantNow s g = true → ∃ t, exec (.grantWaitApply g) s = .next t ∧ t.mem = s.mem ∧
      (t.strandAt g).wait = none ∧ (t.strandAt g).progress = some .granted ∧ (t.strandAt g).pc = x.pc ∧ (t.strandAt g).s = x.s ∧
      ((t.strandAt g).grant ≠ 0 ∨ (t.strandAt g).pend = false)) ∧
    (restoreNow s g = true → ∃ t, exec (.restoreAtGrant g) s = .next t ∧ t.mem = s.mem ∧
      (t.strandAt g).wait = (if copiesOf s g = [] then none else some .resumed) ∧
      (t.strandAt g).pc = x.pc ∧ (t.strandAt g).s = x.s ∧ (t.core (coreOf g)).assayNow = true ∧
      (t.strandAt g).resumedReshaped = (if x.vlmax = (t.strandAt g).vlmax then none else some (BitVec.ofNat 64 x.vl))) ∧
    (∃ t, exec (.reshapeComplete g) s = .next t ∧ (t.core (coreOf g)).freed = true ∧ t.mem = s.mem ∧
      (t.core (coreOf g)).pendingFree = (s.core (coreOf g)).pendingFree.filter (fun p => p.2 != g)) ∧
    (g = s.strandId → lateCopy s g = false → ∃ t, exec (.commitLand g) s = .next t ∧ t.mem = s.mem ∧ t.strand.pc = x.pc ∧
      t.strand.sched.commits = x.sched.commits.filter (fun c => decide (x.sched.clock < c.due)) ∧
      ∀ r v b, x.sched.commits = [{ due := x.sched.clock, dests := [.s r v], flags := 0, vec := b }] → r ≠ 0 → t.strand.s[r.toNat] = v)

/-- R229, R276 to R280, R283, R287, R398: what comes to a strand from outside it. An event that it can take enters its handler with the
cause's asynchronous bit and its data; a notice sets NP with a deadline 2,000 cycles on; at the deadline and on a forced switch, which
waits for an instruction that has begun, a strand gives up its task when the die's hold list has room for the frame and no posting of its
core's save engine is held (R360); staged images drain and strip memory follows a migrating task; an acknowledgement that a strand waits for
and that is overdue traps. -/
def Obligations.StrandEvents : Prop :=
  ∀ (s : State) (g : Nat) (x : Strand), s.strandAt g = x →
    (takesEvents x = true →
      (∀ e l, x.copyEvents = e :: l → ∃ t, exec (.copyEventTaken g) s = .next t ∧ (t.strandAt g).copyEvents = l ∧
        (t.strandAt g).pc = x.sys.tvec ∧ (t.strandAt g).sys.cause = BitVec.ofNat 64 (e.code.toNat + 256) ∧
        (t.strandAt g).sys.edata = e.data ∧ t.mem = s.mem) ∧
      (∀ n, x.copyEvents = [] → x.resumedReshaped = some n → ∃ t, exec (.resumedReshaped g) s = .next t ∧
        (t.strandAt g).resumedReshaped = none ∧ (t.strandAt g).pc = x.sys.tvec ∧ (t.strandAt g).sys.cause = 0x151 ∧
        (t.strandAt g).sys.edata = n ∧ t.mem = s.mem) ∧
      (∀ n, x.copyEvents = [] → x.resumedReshaped = none → x.notice = some n → x.np = true → x.ne = true →
        ∃ t, exec (.preemptionNotice g) s = .next t ∧ (t.strandAt g).np = false ∧ (t.strandAt g).pc = x.sys.tvec ∧
          (t.strandAt g).sys.cause = 0x150 ∧ (t.strandAt g).sys.edata = n.deadline ∧ t.mem = s.mem)) ∧
    (graceOver s x = true → g = s.strandId → saveStalled s (coreOf g) = false → (x.task = none ∨ x.vid ≠ 0 ∨ (s.die (dieOf g)).holdList.length < 1024) →
      ∃ t, exec (.gracePeriodExpiry g) s = .next t ∧ t.strand.phase = .free) ∧
    (holdTimedOut s x = true → ∃ t, exec (.arbiterHoldTimeout g) s = .next t ∧ (t.strandAt g).np = true ∧ t.mem = s.mem ∧
      (t.strandAt g).notice = some { deadline := s.cycle + 2000, source := .arbiter, due := s.cycle + 2000 } ∧ (t.strandAt g).pc = x.pc) ∧
    (x.phase = .running → ∀ m,
      (switchHeld s g = true → exec (.forcedSwitchRequest g true m) s = .next (s.setStrandAt g { x with switchAsked := true })) ∧
      (switchHeld s g = false → g = s.strandId → saveStalled s (coreOf g) = false → (x.task = none ∨ x.vid ≠ 0 ∨ (s.die (dieOf g)).holdList.length < 1024) →
        ∃ t, exec (.forcedSwitchRequest g true m) s = .next t ∧ t.strand.phase = .free) ∧
      (x.notice = none → ∃ t, exec (.forcedSwitchRequest g false m) s = .next t ∧ (t.strandAt g).np = true ∧ t.mem = s.mem ∧
        (t.strandAt g).notice = some
          { deadline := s.cycle + 2000, source := if m then .management else .supervisor, due := s.cycle + 2000 })) ∧
    (∀ core save i y, saveStalled s core = false → imageOn s core (BitVec.ofNat 64 save) (fun i => i.staged.isSome) = some i → i.staged = some y → i.migrate = false →
      ∃ t, exec (.stagingDrainComplete core save) s = .next t ∧
        ∀ j ∈ (t.core core).images, j.save = i.save → j.asid = i.asid → j.staged = none) ∧
    (∀ core save i, imageOn s core (BitVec.ofNat 64 save) (readyToMigrate s core) = some i →
      ∃ t, exec (.stripCopyWaitEnd core save) s = .next t ∧ ∀ j ∈ (t.core core).images, ¬(j.save = i.save ∧ j.asid = i.asid)) ∧
    (∀ id u, lookupNat id s.unacked = some u → ackWaiter s id = some g → g < 12288 → u.since + 65536 ≤ s.cycle.toNat →
      exec (.completionLost id) s = .next (s.as g (fun s => s.takeTrap
        { code := 0x61, data := u.addr, vec := false, sub := 0, pa := 0xFFFFFFFFFFFFFFFF })))

/-- R264 to R266: the copy engine. A sector that can move moves, and its copy counts it; one that lies at a peer is asked for (R393); one
that cannot move ends its copy with event 0x46 and the address; so the next sector of a core's only request, between two places of the
strip allocation, whose tag has a format, moves at its clock. A copy with all sectors moved leaves the queue; a copy past its promise gets
a new one and event 0x45, once. The clock from which a sector may move (`CopyReq.nextAt`) and the new promise (`CopyReq.again`) are the
model's choice (log 25). The copies are of tasks that have not been removed. -/
def Obligations.CopyEngine : Prop :=
  ∀ (s : State) (core : Nat) (r : CopyReq), r.orphan = none →
    (∀ m l, (s.core core).copies.find? (moveReady s core) = some r → r.moves.drop r.moved = m :: l →
      (∀ t, copyMove s core r m = .ok t → ∃ u, exec (.copySectorMove core) s = .next u ∧ u.mem = t.mem ∧
        (u.core core).copies = (t.core core).copies.map (fun q =>
          if q.id = r.id then { q with moved := q.moved + 1, asking := none, answer := none } else q)) ∧
      (∀ dev addr c, copyMove s core r m = .error (.ask dev addr c) → ∃ u x, exec (.copySectorMove core) s = .next u ∧ u.mem = s.mem ∧
        u.sent = s.sent ++ [x] ∧ (u.core core).copies = (s.core core).copies.map (fun q =>
          if q.id = r.id then { q with asking := some (dev, addr) } else q)) ∧
      (∀ a, copyMove s core r m = .error (.stop a) → exec (.copySectorMove core) s = .next (raiseCopyEvent
        (s.setCore core { s.core core with copies := (s.core core).copies.filter (fun q => q.id != r.id) }) core r
          { code := 0x46, data := a }))) ∧
    (∀ a b ka kb f l, (s.core core).copies = [r] → r.nextAt ≤ s.cycle.toNat →
      r.moves.drop r.moved = { src := .strip a, dst := .strip b, kept := none } :: l → stripSector r.granules a = some ka →
      stripSector r.granules b = some kb → Fmt.ofCode (tagFmt ((s.core core).stripAt ka).tag) = some f → Fmt.isInt f = false →
      ∃ u, exec (.copySectorMove core) s = .next u ∧ u.mem = s.mem ∧ (u.core core).stripAt kb = (s.core core).stripAt ka ∧
        (u.core core).copies = [{ r with moved := r.moved + 1, asking := none, answer := none }] ∧ u.strand = s.strand) ∧
    ((s.core core).copies.find? (fun q => q.moved == q.moves.length) = some r →
      exec (.copyRequestComplete core) s = .next (s.setCore core { s.core core with
        copies := (s.core core).copies.filter (fun q => q.id != r.id) })) ∧
    (∀ g, PlainRun s → (s.core core).copies.find? (fun q => q.id == r.id) = some r → r.missed = false → r.promise < s.cycle →
      r.gid = some g → ∃ t, exec (.promiseMiss core r.id) s = .next t ∧ t.mem = s.mem ∧
        (t.strandAt g).copyEvents = (s.strandAt g).copyEvents ++ [{ code := 0x45, data := r.again s.cycle }] ∧
        (t.core core).copies = (s.core core).copies.map (fun q =>
          if q.id = r.id then { q with missed := true, promise := r.again s.cycle } else q))

/-! ### Failures, home, launch, management, fabric -/

/-- R240, R241, R292 to R295, R299, R322, R337, R363, R367: corrected and uncorrectable errors of a device that does not record or replay. A
corrected error counts, and beyond its threshold the lane retires at once when no strand holds its cluster (that a count at the threshold
only counts is log 35). An uncorrectable one poisons what it struck: the positions of a register, the sector of a strip, a queue entry, a
sector of the scratchpad, of a dirty slice or of a granule; a clean slice sector is dropped, and one of the LLC, which this model numbers as
die 4 (log 34); the task of a strand whose state is struck is removed; a handler is aborted with 0xF7. A bus is due when a corrected error
takes its count past the threshold as it stands then (log 36). The Assayer takes the first bus that is due, counts vectors, suspends for a
demand access, and closes a core with more than four failing wires, counted over all its tests (log 36). -/
def Obligations.Errors : Prop :=
  ∀ (s : State) (core : Nat), PlainRun s →
    (∀ lane n, n = (lookupNat lane (s.core core).laneErrors).getD 0 + 1 →
      (field s.mgmt.lrthr 0 16 = 0 ∨ n ≤ field s.mgmt.lrthr 0 16 → exec (.registerFileCorrectedError core lane) s = .next (s.setCore core
        { s.core core with laneErrors := insertNat lane n (s.core core).laneErrors })) ∧
      (field s.mgmt.lrthr 0 16 ≠ 0 → field s.mgmt.lrthr 0 16 < n → lane < 64 → (s.core core).lanemap.getLsbD lane = true →
        (s.core core).retiring.getLsbD lane = false → holderOf s core (lane / 8) = none →
        ∃ t, exec (.registerFileCorrectedError core lane) s = .next t ∧ (t.core core).lanemap.getLsbD lane = false)) ∧
    (∀ lane word g, holderOf s core (lane / 8) = some g → (s.core core).wordErrors.contains (lane * 2048 + word) = false → word < 2048 →
      ∃ t, exec (.registerFileUncorrectableError core lane word .slots false) s = .next t ∧ t.mem = s.mem ∧
        ∀ n : VIdx, n.toNat = word / (2048 / (s.strandAt g).nreg) →
        ∀ k ∈ positionsAt (s.strandAt g) (laneOrdinal (s.core core).lanemap (s.strandAt g).grant lane)
            (word % (2048 / (s.strandAt g).nreg)) ((s.strandAt g).v[n.toNat]).fmt, k < 131072 →
          ((t.strandAt g).v[n.toNat]).marks.getLsbD k = true ∧ tagVcls ((t.strandAt g).v[n.toNat]).tag = clsPoison) ∧
    (s.strand.phase ≠ .free → s.strand.vid = 0 → s.strand.judge = false →
      ∃ t, exec (.stateUncorrectableError s.strandId) s = .next t ∧ t.strand.phase = .free) ∧
    (∀ sec, ∃ t, exec (.stripUncorrectableError core sec) s = .next t ∧ t.mem = s.mem ∧
      ((t.core core).stripAt sec).bits = ((s.core core).stripAt sec).bits ∧ tagVcls ((t.core core).stripAt sec).tag = clsPoison) ∧
    (∀ q n y e, lookupNat q (s.core core).queues = some y → y.entries[n]? = some e →
      ∃ t, exec (.queueEntryUncorrectableError core q n) s = .next t ∧ t.mem = s.mem ∧
        ∃ z, lookupNat q (t.core core).queues = some z ∧ z.entries = y.entries.set n e.spoil) ∧
    (∀ pa k, physClass pa = .scratch k → ∃ t, exec (.scratchpadUncorrectableError pa) s = .next t ∧
      tagVcls (t.mem.tag (pa / 128)) = clsPoison ∧ (∀ a, t.mem.byte a = s.mem.byte a) ∧
      ∀ j, j ≠ pa / 128 → t.mem.tag j = s.mem.tag j) ∧
    (∀ die sec x, die < 4 → lookupNat (sec * 4096) (s.die die).slots = some x →
      (x.dirty = false → exec (.sliceUncorrectableError die sec 0 false) s =
        .next (s.setDie die { s.die die with slots := eraseNat (sec * 4096) (s.die die).slots })) ∧
      (x.dirty = true → x.gen = viewGen s 0 → physClass (128 * sec) = .hbm →
        ∃ t, exec (.sliceUncorrectableError die sec 0 false) s = .next t ∧ tagVcls (t.mem.tag sec) = clsPoison)) ∧
    (∀ sec e x, lookupNat (sec / 4 * 4096) s.llc = some e → lookupNat (sec % 4) e.slots = some x → x.dirty = false → (s.die 4) = DieSt.reset →
      ∃ t f, exec (.sliceUncorrectableError 4 sec 0 false) s = .next t ∧ t.mem = s.mem ∧ lookupNat (sec / 4 * 4096) t.llc = some f ∧
        f.slots = eraseNat (sec % 4) e.slots) ∧
    (∀ b, ∃ t, exec (.baristaUncorrectableError b) s = .next t ∧ (t.barista b).invocation = none ∧
      ((s.barista b).invocation ≠ none → (t.barista b).counters.last = 0xF7)) ∧
    (∀ n, exec (.homeRead n false) s = .next s) ∧
    (∀ n, 128 * n < 0x8000000000 → lookupNat (n / 4) s.frames = none →
      ∃ t, exec (.homeRead n true) s = .next t ∧ tagVcls (t.mem.tag n) = clsPoison ∧ ∀ a, t.mem.byte a = s.mem.byte a) ∧
    (∀ bus, exec (.verticalBusCorrectedError core bus) s = .next (s.setCore core { s.core core with
      buses := insertNat bus { (s.core core).bus bus with
        corrected := ((s.core core).bus bus).corrected + 1
        due := field s.mgmt.asthr 0 16 != 0 && decide (field s.mgmt.asthr 0 16 < ((s.core core).bus bus).corrected + 1) }
          (s.core core).buses })) ∧
    ((s.core core).assayNow = true → (s.core core).assayer = none → exec (.assayerRun core) s = .next (s.setCore core
      { s.core core with assayNow := false, assayHeld := false, assayDemand := false
                         assayer := (dueBus (s.core core)).map (fun b => (b, 0)) })) ∧
    (∀ bus done wires, (s.core core).assayer = some (bus, done) → (s.core core).assayHeld = false → (s.core core).assayDemand = true →
      exec (.assayerVectorEnd core wires) s =
        .next (s.setCore core { s.core core with assayDemand := false, assayHeld := true })) ∧
    (∀ bus done wires, (s.core core).assayer = some (bus, done) → (s.core core).assayHeld = false → (s.core core).assayDemand = false → ∃ t, exec (.assayerVectorEnd core wires) s = .next t ∧
      (t.core core).assayer = (if 32 ≤ done + 1 then none else some (bus, done + 1)) ∧
      ((t.core core).bus bus).failing = ((s.core core).bus bus).failing + wires ∧
      (4 < ((s.core core).bus bus).failing + wires → ((s.core core).bus bus).reported = false → (t.core core).closed = true))

/-- R163 to R165, R321, R363 to R365, R369 to R373: the slices, the last-level cache, the Grinder and the round regions. A fill installs a
sector that is absent, with the fill event of a page with handler enable; coherence drops a copy, and keeps one of a valid round region as
STALE with the old data; a line that comes into the LLC has its four sectors there, in the partition of its block. A home that writes a
line keeps every tag and every used byte; a packed line reads zero beyond them. The Grinder's sweep takes a sector that qualifies; its
recall recodes it where every element keeps its value. A region's count reaches all four mirrors and then goes out to the four shadows,
where it arrives; a host write of RGCNT of a region that is not valid lands as the count, every mirror and the stamp of every base copy,
with no STALE one left; RGCTL and LLCPARTn take what may be written to them, when no transfer is held (log 57). The page of a line is that
of its last fill, and how a sector is recoded is log 37. -/
def Obligations.CachesAndRegions : Prop :=
  ∀ (s : State),
    (∀ die sec view asid vline p,
      (let va : Word := BitVec.ofNat 64 (vline * 512 + sec % 4 * 128)
       let ctx : Ctx := { die := die, gid := none, asid := BitVec.ofNat 12 asid, user := false, view := view, barista := false }
       translate s ctx .read va = .ok p → p.pa / 128 = sec → p.pa < 0x8000000000 →
       absentMask s die view (p.pa / 512) (BitVec.twoPow 4 (sec % 4)) ≠ 0 → ∃ u, u = installSlots s die 0 ctx.asid va p (p.pa / 512)
         (BitVec.twoPow 4 (sec % 4)) view ∧ MemKept s u ∧
       (p.hen = false → exec (.sliceFill die sec view asid vline) s = .next u) ∧
       (p.hen = true → exec (.sliceFill die sec view asid vline) s =
         .next (raiseEvent u ctx p va 1 (BitVec.twoPow 4 (sec % 4)) 0 0 false false)))) ∧
    (∀ die sec x, lookupNat (sec * 4096) (s.die die).slots = some x → x.stale = false →
      (x.region.any (regionLive s) = false → exec (.coherenceInvalidate die sec) s =
        .next (s.setDie die { s.die die with slots := eraseNat (sec * 4096) (s.die die).slots })) ∧
      (x.region.any (regionLive s) = true → exec (.coherenceInvalidate die sec) s = .next (s.setDie die { s.die die with
        slots := insertNat (sec * 4096) { x with stale := true, dirty := false, data := some (s.baseSector sec), writers := [] }
          (s.die die).slots }))) ∧
    (∀ line vline user p,
      translate s { die := 0, gid := none, asid := BitVec.ofNat 12 user.asid, user := false, view := 0, barista := false } .read
        (BitVec.ofNat 64 (512 * vline)) = .ok p → p.pa / 512 = line → p.pa < 0x8000000000 →
      ∃ t e, exec (.llcFill line vline user) s = .next t ∧ MemKept s t ∧ lookupNat (line * 4096) t.llc = some e ∧
        (∀ i, i < 4 → (lookupNat i e.slots).isSome = true) ∧
        (lookupNat (line * 4096) s.llc = none → e.part = (if user.block = 0 then 0 else partitionOf s user.block) ∧ e.page = p.attr)) ∧
    (∀ line page, 512 * line < 0x8000000000 → MemKept s (s.storeLine line page) ∧
      ∀ used, packing s line page = some used → ∀ i j, i < 4 → usedBytes (Grid.ofBits page.grid) (s.mem.tag (4 * line + i)) ≤ j → j < 128 →
        (s.storeLine line page).mem.byte (128 * (4 * line + i) + j) = 0) ∧
    (∀ stack sec, bit (grctl s stack) 0 = true → bit (grctl s stack) 1 = true → field (grctl s stack) 16 16 ≠ 0 → 128 * sec < 0x8000000000 →
      (lineHome s (sec / 4)).1 = stack → lookupNat sec s.busy = none → qualifies (pageOfLine s (sec / 4)) (s.mem.tag sec) = true →
      ∃ t, exec (.grinderSweep stack sec false) s = .next t ∧ lookupNat sec t.busy = some (pageOfLine s (sec / 4)) ∧ t.mem = s.mem) ∧
    (∀ stack sec page, grinderHolds s stack = some (sec, page) → (∀ q ∈ s.baristas, q.2.counts = []) → (∀ d ∈ s.dies, d.2.records = []) →
      (grind page (s.mem.sector sec) = none → ∃ t, exec (.grinderRecallComplete stack false) s = .next t ∧ t.busy = eraseNat sec s.busy ∧
        t.mem = s.mem ∧ t.strand = s.strand) ∧
      (∀ y, grind page (s.mem.sector sec) = some y → ∃ t, exec (.grinderRecallComplete stack false) s = .next t ∧
        t.busy = eraseNat sec s.busy ∧ (∀ k, t.mem.tag k = (s.mem.setSector sec y).tag k) ∧
        (page.pack = false → t.mem = s.mem.setSector sec y) ∧ grctl t stack = countDone (grctl s stack))) ∧
    (∀ rg,
      ((s.region rg).mirrored = false → ∃ t, exec (.roundMirrorsComplete rg) s = .next t ∧
        (t.region rg).mirrored = true ∧ (t.region rg).count = (s.region rg).count ∧ t.mem = s.mem ∧
        (∀ d, d < 4 → (t.die d).multicasts = (s.die d).multicasts ++ [(rg, (s.region rg).count)]) ∧
        (s.strand.wait = some (.roundMirrors rg) → t.strand = { s.strand with wait := some .finish })) ∧
      (∀ die n l, takeMulticast rg (s.die die).multicasts = some (n, l) → ∃ t, exec (.shadowMulticastArrival die rg) s = .next t ∧
        t.mem = s.mem ∧ shadowOf t die rg = n ∧ (t.die die).multicasts = l) ∧
      (∀ n, PlainIngress s → rg < 1024 → (s.region rg).validBefore s.cycle = false → (s.region rg).landing = none → (s.region rg).pending = [] →
        ∃ t, exec (.rgcntWrite rg n) s = .next t ∧ t = { s with regions := t.regions } ∧
          t.region rg = { s.region rg with landing := some n } ∧ ∀ k, k ≠ rg → t.region k = s.region k) ∧
      (∀ n, (s.region rg).landing = some n → (s.region rg).pending = [] → ∃ t, exec (.rgcntLand rg) s = .next t ∧ t.mem = s.mem ∧
        (t.region rg).count = n ∧ (t.region rg).mirrored = true ∧ (t.region rg).landing = none ∧
        (∀ d e, e ∈ (t.die d).slots → e.2.region = some rg → e.2.stale = false ∧ (e.1 % 4096 = 0 → e.2.stamp = n)) ∧
        ∀ e ∈ t.llc, e.1 % 4096 = 0 → ∀ q ∈ e.2.slots, q.2.region = some rg → q.2.stamp = n) ∧
      (∀ w, PlainIngress s → rg < 1024 → regionInFlight s rg = false → (s.region rg).pending = [] →
        ∃ t, exec (.rgctlWrite rg w) s = .next t ∧ t = { s with regions := t.regions } ∧
          t.region rg = { s.region rg with
            owner := w.setWidth 12, valid := bit w 12, was := (s.region rg).validBefore s.cycle, at_ := s.cycle } ∧
          ∀ k, k ≠ rg → t.region k = s.region k)) ∧
    (∀ n w, PlainIngress s → n ≤ 15 → field w 0 32 ≠ 0 → exec (.llcpartWrite n w) s = .next
      { s with mgmt := { s.mgmt with llcpart := insertNat n (w &&& 0x1FFFFFFFFF) s.mgmt.llcpart } })

/-- R358, R360, R378 to R388, R405, R406: launch queues, region control blocks, fault domains and fault queues. A die takes note of a
queue's TAIL and HEAD; a frame that has waited its time is aged; an aged frame that fits a core is placed there, on a free strand, with
its entry and arguments (which frame stands at a head, log 63); when a reservation has lasted its time, notices go to the tasks of lower
priority on the first core, in Key order, where their removal would make the frame fit, once. The install command ends with its status,
commands on an absent block with status 4; removal takes a block's subtree away, at once or when the last copy of a removed task is over;
recovery is asked for, runs and ends. FQHEAD moves from HEAD to TAIL alone, FQBASE keeps its reserved bits 0, and FQSTAT clears, by host
writes when no transfer is held (log 57). -/
def Obligations.LaunchAndBlocks : Prop :=
  ∀ (s : State) (die : Nat),
    (∀ q, (dieQueues s die).find? (fun x => x.pa == q.pa) = some q → ∃ t, exec (.queueTailObserved die q.pa) s = .next t ∧ t.mem = s.mem ∧
      (t.track die q.pa).tail = physWord s (q.pa + 512) ∧ (t.track die q.pa).head = physWord s (q.pa + 64)) ∧
    (∀ c, (candidates s die).find? (fun x => x.queue.pa == c.queue.pa && agesNow s die x) = some c →
      ∃ t, exec (.frameAged die c.queue.pa) s = .next t ∧ t.mem = s.mem ∧ (t.track die c.queue.pa).aged = true) ∧
    (∀ c core g, distributorStalled s die = false → misplaced s die = none → orphanFrame s die = none → droppable s die = none →
      staleReserve s die = false → (s.die die).placeFrom ≤ s.cycle.toNat → longestAged s die (candidates s die) = some c →
      findCore s die c.queue c.need = some core → freeStrandOf (takeHead s die c.queue c.held) core = some g → c.need.header = none →
      ∃ t, exec (.selectAndPlace die) s = .next t ∧ (t.strandAt g).phase = .running ∧ (t.strandAt g).s[1] = c.frame ∧
        (t.strandAt g).pc = (if frameRes c.need.frame then BitVec.ofNat 64 (cut c.need.frame 128 64) else frameEntry c.need.frame) ∧
        (t.die die).nextCore = some core) ∧
    (∀ c, overdueFrame s die = some c →
      ∃ t u, exec (.reservePreemptTimeout die) s = .next t ∧ t.mem = s.mem ∧ u = s.setDie die { s.die die with reserved := (u.die die).reserved } ∧
        (u.die die).reserved = (s.die die).reserved.map (fun r => if r.1 = c.queue.pa then (r.1, none) else r) ∧
        (t.die die).reserved = (u.die die).reserved ∧
        ∀ l, (coreOrder die).findSome? (fun k => removalsFor u die c k (victims u k (effPrio u c.queue.block))) = l →
          (l = none → t = u) ∧ ∀ gs, l = some gs → ∀ g, (g ∉ gs → t.strandAt g = s.strandAt g) ∧
            (g ∈ gs → (t.strandAt g).np = true ∧ ((s.strandAt g).np = false →
              ∃ n, (t.strandAt g).notice = some n ∧ n.deadline = s.cycle + 2000 ∧ n.source = .distributor))) ∧
    (∀ a st u, install s a = (st, u) → exec (.rcbInstall a) s =
        .next { u with mgmt := { u.mgmt with rcbcmd := 0, rcbres := BitVec.ofNat 64 (2 * st) } } ∧
      (st = 0 → ∃ b n, lookupNat a u.blocks = some b ∧ physArea s a 4 = some n ∧ b.image = BitVec.ofNat 4096 n)) ∧
    (∀ a, lookupNat a s.blocks = none → ∀ i ∈ [Instr.rcbRemove a, .rcbRecover a],
      exec i s = .next { s with mgmt := { s.mgmt with rcbcmd := 0, rcbres := 8 } }) ∧
    (∀ a b, lookupNat a s.blocks = some b →
      (∃ t, exec (.rcbRemove a) s = .next t ∧
        ((t.mgmt.rcbres = 0 ∧ ∀ x, under s a x = true → lookupNat x t.blocks = none) ∨
          (t.mgmt.rcbres = 1 ∧ (∃ c ∈ s.cores, c.2.copies ≠ []) ∧
            ∀ x y, under s a x = true → lookupNat x t.blocks = some y → y.recovery = .removing))) ∧
      (∃ t, exec (.rcbRecover a) s = .next t ∧ t.mgmt.rcbres = 1 ∧ t.mem = s.mem ∧
        ∀ x, lookupNat (domainOf s a) t.blocks = some x → x.recovery = .requested) ∧
      (b.recovery = .requested → ∃ t, exec (.faultDomainRecovery a) s = .next t ∧
        ∀ x, lookupNat a t.blocks = some x → x.recovery = .draining) ∧
      (b.recovery = .draining → orphanLeft s (fun x => domainOf s x == a) = false →
        ∃ t, exec (.recoveryComplete a) s = .next t ∧ t.mem = s.mem ∧ ∃ x, lookupNat a t.blocks = some x ∧ x.recovery = .idle) ∧
      (b.recovery = .removing → orphanLeft s (under s a) = false →
        ∃ t, exec (.recoveryComplete a) s = .next t ∧ t.mem = s.mem ∧ ∀ x, under s a x = true → lookupNat x t.blocks = none)) ∧
    (PlainIngress s → die < 4 →
      (∀ w : Word, ((w.setWidth 13 : BitVec 13) - (s.die die).fqhead).toNat ≤ ((s.die die).fqtail - (s.die die).fqhead).toNat →
        exec (.fqheadWrite die w) s = .next ((s.setDie die { s.die die with fqhead := w.setWidth 13 }).drainPostings die)) ∧
      (∀ w, exec (.fqbaseWrite die w) s = .next ((s.setDie die { s.die die with fqbase := w &&& 0xFFFFFFFFC0001 }).drainPostings die)) ∧
      (∀ w : Word, w.getLsbD 0 = true → exec (.fqstatWrite die w) s = .next (s.setDie die { s.die die with ovf := false, ovfcnt := 0 })))

/-- R403 to R409: management. Bring-up goes through its states (log 56), a firmware commit ends with its result, SKEWMAP, JRNHEAD, JRNSIZE,
JRNCTL, LRTHR, ASTHR and HPATBASE take what may be written to them, the journal's own in replay too, the others when no transfer is held
(logs 57, 59), and in replay none of these; module reset keeps JRNCTL, the retired lanes, the host's memory and, where REPLAY is set, device
memory without the scratchpads, and, by the model's choice, JRNBASE and JRNSIZE too, which R404's Reset column gives 0 and 16 (log 58); a
replayed record takes effect or the replay diverges (logs 59, 70). That a firmware commit looks at the staged bytes only when its check ends
is log 10. -/
def Obligations.Management : Prop :=
  ∀ (s : State),
    (s.mgmt.mgmtst = 1 → ∃ t, exec .selfTestComplete s = .next t ∧ t.mgmt.mgmtst = 2 ∧ t.mem = s.mem) ∧
    (s.mgmt.mgmtst = 2 → ∃ t, exec .firmwareCheckComplete s = .next t ∧ t.mgmt.mgmtst = (if storedOk s.mgmt then 3 else 6) ∧ t.mem = s.mem) ∧
    (s.mgmt.mgmtst = 3 → exec .hbmTrainingComplete s = .next { s with mgmt := { s.mgmt with mgmtst := 4 } }) ∧
    (∀ w : Word, PlainIngress s → s.mgmt.mgmtst = 4 → w.toNat % 16 = 5 →
      exec (.mgmtstWrite w) s = .next { s with mgmt := { s.mgmt with mgmtst := 5, fwmapForce := s.mgmt.fwmap } }) ∧
    exec .thermalTrip s = .next { s with mgmt := { s.mgmt with mgmtst := 7 } } ∧
    (∀ w : Word, PlainIngress s → w.getLsbD 0 = true → s.mgmt.mgmtst ∈ [4, 5, 6] → s.mgmt.fwbusy = false →
      exec (.fwCommit w) s = .next { s with mgmt := { s.mgmt with fwbusy := true } }) ∧
    (s.mgmt.fwbusy = true → ∃ t, exec .fwCommitComplete s = .next t ∧ t.mgmt.fwbusy = false ∧ t.mem = s.mem ∧
      t.mgmt.fwresult = (if stagedOk s.mgmt = false then 3
        else if imageOk (fun i => stagedByte s (s.mgmt.fwaddr.toNat + i)) s.mgmt.fwlen.toNat = false then 2 else 1)) ∧
    (∀ w : Word, PlainIngress s → s.mgmt.mgmtst = 4 →
      exec (.skewmapWrite false w) s = .next { s with mgmt := { s.mgmt with skewmap := s.mgmt.skewmap.extractLsb' 64 64 ++ w } } ∧
      exec (.skewmapWrite true w) s = .next { s with mgmt := { s.mgmt with skewmap := w ++ s.mgmt.skewmap.setWidth 64 } }) ∧
    (∀ w : Word, w.toNat % 64 = 0 → (w - s.mgmt.jrnhead).toNat ≤ (s.mgmt.jrntail - s.mgmt.jrnhead).toNat → s.mgmt.jrnwait = [] →
      exec (.jrnheadWrite w) s = .next { s with mgmt := { s.mgmt with jrnhead := w } }) ∧
    (∀ w : Word, 16 ≤ w.toNat % 64 → w.toNat % 64 ≤ 36 →
      exec (.jrnsizeWrite w) s = .next { s with mgmt := { s.mgmt with jrnsize := BitVec.ofNat 64 (w.toNat % 64) } }) ∧
    (∀ w : Word, ∃ t, exec (.jrnctlWrite w) s = .next t ∧ t = { s with mgmt := { s.mgmt with jrnctl := t.mgmt.jrnctl } } ∧
      ∀ k, t.mgmt.jrnctl.getLsbD k = if k < 2 then w.getLsbD k else if k = 2 then s.mgmt.jrnctl.getLsbD 2 && !w.getLsbD 2 else false) ∧
    (∀ w off, s.mgmt.replaying = true → journalRegister off = false → exec (.packageRegisterWrite off w) s = .next s) ∧
    (∀ w : Word, PlainIngress s → exec (.packageRegisterWrite 0x80C00 w) s = .next { s with mgmt := { s.mgmt with lrthr := w &&& 0xFFFF } } ∧
      exec (.packageRegisterWrite 0x80C08 w) s = .next { s with mgmt := { s.mgmt with asthr := w &&& 0xFFFF } } ∧
      exec (.packageRegisterWrite 0x60000 w) s = .next { s with mgmt := { s.mgmt with hpatbase := w } } ∧
      exec (.packageRegisterWrite 0x10 w) s = exec (.mgmtstWrite w) s ∧ exec (.packageRegisterWrite 0x10008 w) s = exec (.fqheadWrite 0 w) s ∧
      exec (.packageRegisterWrite 0x60020 w) s = exec (.jrnsizeWrite w) s) ∧
    (∃ t, exec .moduleReset s = .next t ∧ t.mgmt.mgmtst = 0 ∧ t.mgmt.jrnctl = s.mgmt.jrnctl ∧ t.mgmt.jrnbase = s.mgmt.jrnbase ∧
      t.mgmt.jrnsize = s.mgmt.jrnsize ∧ t.mgmt.retired = s.mgmt.retired ∧ t.hostMem = s.hostMem ∧ t.strand = Strand.reset ∧
      t.cycle = State.reset.cycle ∧ t.mem = if s.mgmt.jrnctl.getLsbD 1 then s.mem.noScratch else State.reset.mem) ∧
    (replayDue s = true →
      ((journalHead s).2.kind = 0 → exec .replayApply s = .next { s with mgmt := { s.mgmt with
        jrnhead := s.mgmt.jrnhead + BitVec.ofNat 64 (jrnRing s - s.mgmt.jrnhead.toNat % jrnRing s) } }) ∧
      (∀ u, replayEffect s (journalHead s).2 = some u → exec .replayApply s = .next { u with mgmt := { u.mgmt with
        jrnhead := u.mgmt.jrnhead + BitVec.ofNat 64 (replayLength s (journalHead s).2) } }) ∧
      (replayEffect s (journalHead s).2 = none → ∃ t, exec .replayApply s = .next t ∧ t.mgmt.jrnctl.getLsbD 2 = true ∧ t.mem = s.mem ∧
        (s.strand.phase ≠ .free → t.strand = { s.strand with phase := .halted, wait := none })))

/-- R390 to R398, R403, R405: what the host and the fabric do. A port trains to the highest version both ends know; a device is bound with
the ports that reach it; an acknowledged write leaves the list of those without acknowledgement; a transfer that arrives when none is held
takes its effect at once (`ingressEffect`). A host message stands in the mailbox, from which the spec says not what takes it (log 42). A
host write to HBM4 puts its enabled bytes into memory and leaves all others, where no packed line leaves the LLC; a host read answers; a
tagged write of whole sectors writes them with their tags; the place of an 8-byte atomic in its sector stands in the low bits of ADDR (log
40). Each reaches the LLC slice of its sectors first (R363). -/
def Obligations.FabricInputs : Prop :=
  ∀ (s : State),
    (∀ port v, port < 12 → ∃ t, exec (.linkTraining port v) s = .next t ∧
      lookupNat port t.mgmt.ports = some (true, if v.getLsbD 1 then 1 else 0)) ∧
    (∀ d ports, exec (.fabricBind d none) s = .next { s with mgmt := { s.mgmt with fab := true } } ∧
      ∃ t, exec (.fabricBind d (some ports)) s = .next t ∧ t = { s with mgmt := { s.mgmt with bound := t.mgmt.bound } } ∧
        lookupNat d t.mgmt.bound = some ports) ∧
    (∀ id, exec (.fabricAck id) s = .next { s with unacked := eraseNat id s.unacked }) ∧
    (PlainIngress s →
      (∀ x u, ingressEffect s x = some u → s.arrive x = u) ∧
      (∀ m, ∀ p ∈ [(Instr.cemenTaggedWrite m, 1), (.cemenTaggedRead m, 2), (.cemenReadResponse m, 3), (.cemenAtomic m, 4),
          (.cemenHostMessage m, 5), (.cemenCollectiveFragment m, 6)],
        m.type = p.2 → exec p.1 s = .next (s.arrive (.cemen m))) ∧
      (∀ m, accepted s m 5 = true → exec (.cemenHostMessage m) s = .next { s with mailbox := s.mailbox ++ [m] }) ∧
      (∀ m, accepted s m 6 = true → exec (.cemenCollectiveFragment m) s = .next { s with fragments := s.fragments ++ [m] }) ∧
      (∀ m k b, accepted s m 1 = true → m.inHbm = true → m.opx 156 1 = 0 → m.sectors = [k] → m.blocks = [b] →
        sectorBusy s (m.addr / 512 * 4 + k) = false → exec (.cemenTaggedWrite m) s =
          .next ((s.reachHome [m.addr / 512 * 4 + k]).writeBase none (m.addr / 512 * 4 + k) { bits := b, tag := m.tagAt k })) ∧
      (∀ m, accepted s m 2 = true → m.inHbm = true → m.places.any (sectorBusy s) = false → ∃ t x, exec (.cemenTaggedRead m) s = .next t ∧
        t.sent = s.sent ++ [x] ∧ MemKept s t) ∧
      (∀ m u, accepted s m 4 = true → atomicEffect s m = some u → exec (.cemenAtomic m) s = .next u) ∧
      (∀ m k b sec old, accepted s m 4 = true → m.inHbm = true → m.sectors = [k] → m.blocks = [b] → m.opx 160 2 = 0 → m.opx 156 4 = 0 →
        sec = m.addr / 512 * 4 + k → sectorBusy s sec = false → malformedReg (s.baseSector sec).tag = false →
        tagVcls (s.baseSector sec).tag = clsValid →
        old = BitVec.ofNat 64 ((s.baseSector sec).bytes (m.addr % 128 / 8 * 8) 8) →
        ∃ x, exec (.cemenAtomic m) s = .next (((s.reachHome [sec]).writeBase none sec ((s.baseSector sec).storeBytes (m.addr % 128 / 8 * 8) 8
          (old + b.setWidth 64).toNat)).sendPlain x)) ∧
      (∀ m g key, accepted s m 3 = true → s.strandId = g → g < 12288 → s.strand.phase = .running →
        s.strand.wait = some (.response m.src m.addr key) → s.others = [] →
        ∃ t, exec (.cemenReadResponse m) s = .next t ∧ t.strand = { s.strand with wait := some .finish } ∧ t.mem = s.mem ∧
          lookupNat g t.replies = some (((lookupNat g s.replies).getD []) ++ [(key, m)])) ∧
      (∀ pa data en, s.Canonical → s.unpacked → 4 ≤ s.mgmt.mgmtst.toNat → pa < 0x8000000000 → en ≠ 0 → sectorBusy s (pa / 128) = false →
        ∃ t, exec (.hostMemoryWrite pa data en) s = .next t ∧
          ∀ a, t.mem.byte a = if pa / 64 * 64 ≤ a ∧ a < pa / 64 * 64 + 64 ∧ en.getLsbD (a % 64) = true
            then data.extractLsb' (8 * (a % 64)) 8
            else if a / 128 = pa / 128 ∧ tagVcls (s.mem.tag (pa / 128)) = clsUndef then 0 else s.mem.byte a) ∧
      (∀ pa, 4 ≤ s.mgmt.mgmtst.toNat → pa < 0x8000000000 → sectorBusy s (pa / 128) = false →
        ∃ t v, exec (.hostMemoryRead pa) s = .next t ∧ t.hostReads = s.hostReads ++ [v] ∧ v.1 = pa / 64 * 64 ∧ MemKept s t))
end

