-- ==== Sys2Proof/Laws/Encoding.lean ====
section
/-! SUPPORT. Fields of words: what a format puts into a word is what the decoder cuts out of it. -/

namespace Sys2Proof

/-- Two adjacent slices of a string are the slice they make up. -/
theorem extract_append {w : Nat} (x : BitVec w) (s n m : Nat) :
    x.extractLsb' (s + m) n ++ x.extractLsb' s m = x.extractLsb' s (n + m) := by
  apply BitVec.eq_of_getLsbD_eq
  intro i hi
  simp only [BitVec.getLsbD_append, BitVec.getLsbD_extractLsb']
  by_cases h : i < m
  · simp [h, hi]
  · simp only [h, hi]
    rw [show s + m + (i - m) = s + i by omega]
    simp; omega

/-- The upper part of a joined string. -/
theorem extract_upper {n m : Nat} (x : BitVec n) (y : BitVec m) : (x ++ y).extractLsb' m n = x := by
  apply BitVec.eq_of_getLsbD_eq
  intro i hi
  simp [BitVec.getLsbD_append, hi]

/-- The lower part of a joined string. -/
theorem extract_lower {n m : Nat} (x : BitVec n) (y : BitVec m) : (x ++ y).extractLsb' 0 m = y := by
  apply BitVec.eq_of_getLsbD_eq
  intro i hi
  simp [BitVec.getLsbD_append, hi]

/-- A slice that lies in the lower part of a joined string. -/
theorem extract_within {n m : Nat} (x : BitVec n) (y : BitVec m) (s k : Nat) (h : s + k ≤ m) :
    (x ++ y).extractLsb' s k = y.extractLsb' s k := by
  apply BitVec.eq_of_getLsbD_eq
  intro i hi
  simp only [BitVec.getLsbD_extractLsb', BitVec.getLsbD_append, show s + i < m by omega, if_true]

/-- The fields of a packed word are the fields. -/
theorem unpackWord_packWord (f : Fields) : unpackWord (packWord f) = f := by
  obtain ⟨m, d, a, b, n⟩ := f
  simp only [unpackWord, packWord, Fields.mk.injEq]
  exact ⟨extract_upper m (d ++ (a ++ (b ++ n))),
    (extract_within m (d ++ (a ++ (b ++ n))) 19 6 (by omega)).trans (extract_upper d (a ++ (b ++ n))),
    ((extract_within m (d ++ (a ++ (b ++ n))) 13 6 (by omega)).trans
      (extract_within d (a ++ (b ++ n)) 13 6 (by omega))).trans (extract_upper a (b ++ n)),
    (((extract_within m (d ++ (a ++ (b ++ n))) 7 6 (by omega)).trans
      (extract_within d (a ++ (b ++ n)) 7 6 (by omega))).trans (extract_within a (b ++ n) 7 6 (by omega))).trans (extract_upper b n),
    (((extract_within m (d ++ (a ++ (b ++ n))) 0 7 (by omega)).trans
      (extract_within d (a ++ (b ++ n)) 0 7 (by omega))).trans (extract_within a (b ++ n) 0 7 (by omega))).trans (extract_lower b n)⟩

/-- A word is the packing of its fields. -/
theorem packWord_unpackWord (w : BitVec 32) : packWord (unpackWord w) = w := by
  simp only [unpackWord, packWord]
  rw [extract_append w 0 6 7, extract_append w 0 6 13, extract_append w 0 6 19, extract_append w 0 7 25]
  exact BitVec.extractLsb'_eq_self

theorem fmtI_imm13 (m : BitVec 7) (d a : BitVec 6) (x : BitVec 13) : (Fields.fmtI m d a x).imm13 = x := by
  simp only [Fields.imm13, Fields.fmtI]
  rw [extract_append x 0 6 7]
  exact BitVec.extractLsb'_eq_self

theorem fmtL_imm19 (m : BitVec 7) (d : BitVec 6) (x : BitVec 19) : (Fields.fmtL m d x).imm19 = x := by
  simp only [Fields.imm19, Fields.fmtL]
  rw [extract_append x 0 6 7, extract_append x 0 6 13]
  exact BitVec.extractLsb'_eq_self

theorem fmtM_mode (m : BitVec 7) (d a : BitVec 6) (k : BitVec 3) (x : BitVec 10) : (Fields.fmtM m d a k x).mode = k :=
  extract_upper _ _

theorem fmtM_off10 (m : BitVec 7) (d a : BitVec 6) (k : BitVec 3) (x : BitVec 10) : (Fields.fmtM m d a k x).off10 = x := by
  simp only [Fields.off10, Fields.fmtM]
  rw [extract_lower, extract_append x 0 3 7]
  exact BitVec.extractLsb'_eq_self

/-! ### Fields of narrow registers and of codes -/

@[simp] theorem pField_setWidth (x : PReg) : pField (x.setWidth 6) = .ok x := by revert x; decide
@[simp] theorem aField_setWidth (x : AReg) : aField (x.setWidth 6) = .ok x := by revert x; decide
@[simp] theorem qField_setWidth (x : QReg) : qField (x.setWidth 6) = .ok x := by revert x; decide
@[simp] theorem hField_setWidth (x : HReg) : hField (x.setWidth 6) = .ok x := by revert x; decide
@[simp] theorem wField_setWidth (x : WSlot) : wField (x.setWidth 6) = .ok x := by revert x; decide
@[simp] theorem cField_setWidth (x : CBook) : cField (x.setWidth 6) = .ok x := by revert x; decide
@[simp] theorem fmtField_code (x : Fmt) : fmtField x.code = .ok x := by cases x <;> rfl
@[simp] theorem scopeField_code (x : Scope) : scopeField x.code = .ok x := by cases x <;> rfl
@[simp] theorem classField_code (x : RClass) : classField x.code = .ok x := by cases x <;> rfl
@[simp] theorem sysField_code (x : SysReg) : sysField x.code = .ok x := by cases x <;> rfl
theorem limit_of_wf (i : Instr) (h : i.wf = true) : limit i = .ok i := if_pos h
theorem zero_zero (n : Nat) : zero (0 : BitVec n) = .ok () := if_pos rfl

end Sys2Proof
end

