-- ==== Sys2Proof/Laws/Memory.lean ====
section
/-! SUPPORT. Lists by key and the canonical form of memory: a read after a write, and every write keeps the form. -/

namespace Sys2Proof

variable {α : Type}

theorem lookup_insert_same (k : Nat) (a : α) (l : List (Nat × α)) : lookupNat k (insertNat k a l) = some a := by
  induction l with
  | nil => simp [insertNat, lookupNat]
  | cons p l ih =>
    obtain ⟨j, b⟩ := p
    by_cases h : k < j
    · simp [insertNat, lookupNat, h]
    · by_cases e : k = j
      · simp [insertNat, lookupNat, e]
      · simp [insertNat, lookupNat, h, e, Ne.symm e, ih]

theorem lookup_insert_other {k i : Nat} (h : i ≠ k) (a : α) (l : List (Nat × α)) :
    lookupNat i (insertNat k a l) = lookupNat i l := by
  induction l with
  | nil => simp [insertNat, lookupNat, Ne.symm h]
  | cons p l ih =>
    obtain ⟨j, b⟩ := p
    by_cases c : k < j
    · simp [insertNat, lookupNat, c, Ne.symm h]
    · by_cases e : k = j
      · subst e; simp [insertNat, lookupNat, Ne.symm h]
      · simp [insertNat, lookupNat, c, e, ih]

theorem lookup_erase_other {k i : Nat} (h : i ≠ k) (l : List (Nat × α)) : lookupNat i (eraseNat k l) = lookupNat i l := by
  induction l with
  | nil => rfl
  | cons p l ih =>
    obtain ⟨j, b⟩ := p
    by_cases e : k = j
    · subst e; simp [eraseNat, lookupNat, Ne.symm h]
    · simp [eraseNat, lookupNat, e, ih]

end Sys2Proof

namespace Sys2Proof.Machine

variable {α : Type}

/-- Every key of a list that rises from above `j` is above `j`. -/
theorem rising_keys {j : Nat} {l : List (Nat × α)} (h : risingFrom (some j) l = true) : ∀ p ∈ l, j < p.1 := by
  induction l generalizing j with
  | nil => simp
  | cons q l ih =>
    obtain ⟨k, a⟩ := q
    simp only [risingFrom, Bool.and_eq_true, decide_eq_true_eq] at h
    intro p hp
    rcases List.mem_cons.mp hp with rfl | hp
    · exact h.1
    · exact lt_trans h.1 (ih h.2 p hp)

theorem rising_lower {i j : Nat} {l : List (Nat × α)} (hij : i ≤ j) (h : risingFrom (some j) l = true) :
    risingFrom (some i) l = true := by
  cases l with
  | nil => rfl
  | cons q l =>
    obtain ⟨k, a⟩ := q
    simp only [risingFrom, Bool.and_eq_true, decide_eq_true_eq] at h ⊢
    exact ⟨lt_of_le_of_lt hij h.1, h.2⟩

theorem rising_tail {k : Nat} {a : α} {l : List (Nat × α)} {o : Option Nat} (h : risingFrom o ((k, a) :: l) = true) :
    risingFrom (some k) l = true := by
  cases o <;> simp_all [risingFrom]

theorem lookup_absent {k : Nat} {l : List (Nat × α)} (h : ∀ p ∈ l, k < p.1) : lookupNat k l = none := by
  induction l with
  | nil => rfl
  | cons q l ih =>
    obtain ⟨j, b⟩ := q
    have := h (j, b) (by simp)
    simp only [lookupNat, if_neg (show ¬ j = k by simp at this; omega)]
    exact ih (fun p hp => h p (by simp [hp]))

theorem rising_insert {k : Nat} (a : α) {l : List (Nat × α)} {o : Option Nat} (h : risingFrom o l = true) (ho : ∀ j ∈ o, j < k) :
    risingFrom o (insertNat k a l) = true := by
  induction l generalizing o with
  | nil => cases o <;> simp_all [insertNat, risingFrom]
  | cons q l ih =>
    obtain ⟨j, b⟩ := q
    have t := rising_tail h
    by_cases c : k < j
    · have e : risingFrom (some k) ((j, b) :: l) = true := by simp [risingFrom, c, t]
      cases o <;> simp_all [insertNat, risingFrom]
    · by_cases e : k = j
      · subst e
        cases o <;> simp_all [insertNat, risingFrom]
      · have u := ih t (by simp; omega)
        simp only [insertNat, if_neg c, if_neg e]
        cases o with
        | none => simpa [risingFrom] using u
        | some i =>
          simp only [risingFrom, Bool.and_eq_true, decide_eq_true_eq] at h ⊢
          exact ⟨h.1, u⟩

theorem rising_erase (k : Nat) {l : List (Nat × α)} {o : Option Nat} (h : risingFrom o l = true) :
    risingFrom o (eraseNat k l) = true := by
  induction l generalizing o with
  | nil => cases o <;> rfl
  | cons q l ih =>
    obtain ⟨j, b⟩ := q
    have t := rising_tail h
    by_cases e : k = j
    · cases o with
      | none =>
        cases l with
        | nil => simp [eraseNat, e, risingFrom]
        | cons r l => obtain ⟨m, c⟩ := r; simp_all [eraseNat, risingFrom]
      | some i =>
        simp only [risingFrom, Bool.and_eq_true, decide_eq_true_eq] at h
        simpa [eraseNat, e] using rising_lower (le_of_lt h.1) t
    · have u := ih t
      cases o <;> simp_all [eraseNat, risingFrom]

theorem lookup_erase_same {k : Nat} {l : List (Nat × α)} {o : Option Nat} (h : risingFrom o l = true) :
    lookupNat k (eraseNat k l) = none := by
  induction l generalizing o with
  | nil => rfl
  | cons q l ih =>
    obtain ⟨j, b⟩ := q
    have t := rising_tail h
    by_cases e : k = j
    · subst e; simpa [eraseNat] using lookup_absent (rising_keys t)
    · simp [eraseNat, lookupNat, e, Ne.symm e, ih t]

theorem all_insert {p : Nat × α → Bool} {k : Nat} {a : α} {l : List (Nat × α)} (h : l.all p = true) (ha : p (k, a) = true) :
    (insertNat k a l).all p = true := by
  induction l with
  | nil => simp [insertNat, ha]
  | cons q l ih =>
    obtain ⟨j, b⟩ := q
    simp only [List.all_cons, Bool.and_eq_true] at h
    simp only [insertNat]
    split
    · simp [ha, h]
    · split
      · simp [ha, h]
      · simp [h.1, ih h.2]

theorem all_erase {p : Nat × α → Bool} (k : Nat) {l : List (Nat × α)} (h : l.all p = true) : (eraseNat k l).all p = true := by
  induction l with
  | nil => rfl
  | cons q l ih =>
    obtain ⟨j, b⟩ := q
    simp only [List.all_cons, Bool.and_eq_true] at h
    simp only [eraseNat]
    split
    · exact h.2
    · simp [h.1, ih h.2]

theorem rising_filter (p : Nat × α → Bool) {l : List (Nat × α)} {o : Option Nat} (h : risingFrom o l = true) :
    risingFrom o (l.filter p) = true := by
  induction l generalizing o with
  | nil => cases o <;> rfl
  | cons q l ih =>
    obtain ⟨j, b⟩ := q
    have u := ih (rising_tail h)
    by_cases e : p (j, b) = true
    · cases o <;> simp_all [risingFrom]
    · rw [List.filter_cons_of_neg e]
      cases o with
      | none => cases c : l.filter p with
        | nil => rfl
        | cons r m => rw [c] at u; obtain ⟨i, a⟩ := r; simpa [risingFrom] using rising_tail u
      | some k =>
        simp only [risingFrom, Bool.and_eq_true, decide_eq_true_eq] at h
        exact rising_lower (le_of_lt h.1) u

theorem all_filter {p q : Nat × α → Bool} {l : List (Nat × α)} (h : l.all p = true) : (l.filter q).all p = true := by
  simp only [List.all_eq_true] at h ⊢
  exact fun x hx => h x (List.mem_of_mem_filter hx)

/-- Memory with nothing listed is canonical. -/
theorem wf_empty : Memory.empty.wf = true := by decide

theorem wf_setByte {m : Memory} (a : Nat) (b : Byte) (h : m.wf = true) : (m.setByte a b).wf = true := by
  simp only [Memory.wf, Memory.setByte, Bool.and_eq_true] at h ⊢
  refine ⟨?_, h.2⟩
  split
  · exact ⟨rising_erase a h.1.1, all_erase a h.1.2⟩
  · exact ⟨rising_insert b h.1.1 (by simp), all_insert h.1.2 (by simpa)⟩

theorem wf_setTag {m : Memory} (k : Nat) (t : Tag) (h : m.wf = true) : (m.setTag k t).wf = true := by
  simp only [Memory.wf, Memory.setTag, Bool.and_eq_true] at h ⊢
  refine ⟨h.1, ?_⟩
  split
  · exact ⟨rising_erase k h.2.1, all_erase k h.2.2⟩
  · exact ⟨rising_insert t h.2.1 (by simp), all_insert h.2.2 (by simpa)⟩

theorem wf_setBytes {m : Memory} (a n v : Nat) (h : m.wf = true) : (m.setBytes a n v).wf = true := by
  induction n generalizing m a v with
  | zero => exact h
  | succ n ih => exact ih _ _ (wf_setByte _ _ h)

theorem wf_setSector {m : Memory} (k : Nat) (x : Sector) (h : m.wf = true) : (m.setSector k x).wf = true :=
  wf_setTag _ _ (wf_setBytes _ _ _ h)

/-- A byte reads as it was written. -/
theorem byte_setByte_same {m : Memory} (a : Nat) (b : Byte) (h : m.wf = true) : (m.setByte a b).byte a = b := by
  simp only [Memory.wf, Bool.and_eq_true] at h
  by_cases e : b = defaultByte
  · simp [Memory.byte, Memory.setByte, e, lookup_erase_same h.1.1]
  · simp [Memory.byte, Memory.setByte, e, lookup_insert_same]

/-- A write of a byte leaves every other byte. -/
theorem byte_setByte_other {m : Memory} {a i : Nat} (b : Byte) (h : i ≠ a) : (m.setByte a b).byte i = m.byte i := by
  simp only [Memory.byte, Memory.setByte]
  split <;> simp [lookup_erase_other h, lookup_insert_other h]

@[simp] theorem tag_setByte (m : Memory) (a : Nat) (b : Byte) (k : Nat) : (m.setByte a b).tag k = m.tag k := rfl
@[simp] theorem byte_setTag (m : Memory) (k : Nat) (t : Tag) (a : Nat) : (m.setTag k t).byte a = m.byte a := rfl

theorem tag_setTag_same {m : Memory} (k : Nat) (t : Tag) (h : m.wf = true) : (m.setTag k t).tag k = t := by
  simp only [Memory.wf, Bool.and_eq_true] at h
  by_cases e : t = tagUndef
  · simp [Memory.tag, Memory.setTag, e, lookup_erase_same h.2.1]
  · simp [Memory.tag, Memory.setTag, e, lookup_insert_same]

/-- The tag of a sector that was written with another tag than UNDEF, in any memory. -/
theorem tag_setTag_defined (m : Memory) (k : Nat) {t : Tag} (h : t ≠ tagUndef) : (m.setTag k t).tag k = t := by
  simp [Memory.tag, Memory.setTag, h, lookup_insert_same]

theorem tag_setTag_other {m : Memory} {k i : Nat} (t : Tag) (h : i ≠ k) : (m.setTag k t).tag i = m.tag i := by
  simp only [Memory.tag, Memory.setTag]
  split <;> simp [lookup_erase_other h, lookup_insert_other h]

@[simp] theorem tag_setBytes (m : Memory) (a n v k : Nat) : (m.setBytes a n v).tag k = m.tag k := by
  induction n generalizing m a v with
  | zero => rfl
  | succ n ih => simp [Memory.setBytes, ih]

/-- Bytes outside the written range keep their value. -/
theorem byte_setBytes_other {m : Memory} {a n v i : Nat} (h : i < a ∨ a + n ≤ i) : (m.setBytes a n v).byte i = m.byte i := by
  induction n generalizing m a v with
  | zero => rfl
  | succ n ih =>
    rw [Memory.setBytes, ih (by omega), byte_setByte_other _ (by omega)]

/-- Bytes of the written range are those of the number, least significant first (R5). -/
theorem byte_setBytes {m : Memory} {a n v k : Nat} (hm : m.wf = true) (h : k < n) :
    (m.setBytes a n v).byte (a + k) = BitVec.ofNat 8 (v / 256 ^ k) := by
  induction n generalizing m a v k with
  | zero => omega
  | succ n ih =>
    rw [Memory.setBytes]
    cases k with
    | zero =>
      simp only [Nat.add_zero, Nat.pow_zero, Nat.div_one]
      rw [byte_setBytes_other (by omega), byte_setByte_same _ _ hm]
    | succ k =>
      rw [show a + (k + 1) = a + 1 + k by omega, ih (wf_setByte _ _ hm) (by omega), Nat.div_div_eq_div_mul, Nat.pow_succ, Nat.mul_comm]

/-- A sector's tag and bytes after it was written. -/
theorem tag_setSector {m : Memory} (k i : Nat) (x : Sector) (h : m.wf = true) :
    (m.setSector k x).tag i = if i = k then x.tag else m.tag i := by
  by_cases e : i = k
  · subst e; simp [Memory.setSector, tag_setTag_same _ _ (wf_setBytes _ _ _ h)]
  · simp [Memory.setSector, tag_setTag_other _ e, e]

theorem byte_setSector {m : Memory} (k a : Nat) (x : Sector) (h : m.wf = true) :
    (m.setSector k x).byte a = if 128 * k ≤ a ∧ a < 128 * k + 128 then BitVec.ofNat 8 (x.bits.toNat / 256 ^ (a - 128 * k)) else m.byte a := by
  rw [Memory.setSector, byte_setTag]
  split
  · rename_i c
    obtain ⟨j, rfl⟩ : ∃ j, a = 128 * k + j := ⟨a - 128 * k, by omega⟩
    rw [byte_setBytes h (by omega)]; simp
  · exact byte_setBytes_other (by omega)

end Sys2Proof.Machine
end

