-- ==== Sys2Proof/Laws/State.lean ====
section
/-! SUPPORT. What each update of a state and of a strand does to each field, so that no proof unfolds a record update. -/

namespace Sys2Proof.Machine

/-! ### Units by their numbers -/

@[simp] theorem core_setCore_same (s : State) (c : Nat) (x : CoreSt) : (s.setCore c x).core c = x := by
  simp [State.core, State.setCore, lookup_insert_same]

theorem core_setCore_other (s : State) {c d : Nat} (x : CoreSt) (h : d ≠ c) : (s.setCore c x).core d = s.core d := by
  simp [State.core, State.setCore, lookup_insert_other h]

@[simp] theorem die_setDie_same (s : State) (d : Nat) (x : DieSt) : (s.setDie d x).die d = x := by
  simp [State.die, State.setDie, lookup_insert_same]

theorem die_setDie_other (s : State) {d e : Nat} (x : DieSt) (h : e ≠ d) : (s.setDie d x).die e = s.die e := by
  simp [State.die, State.setDie, lookup_insert_other h]

@[simp] theorem barista_setBarista_same (s : State) (b : Nat) (x : Barista) : (s.setBarista b x).barista b = x := by
  simp [State.barista, State.setBarista, lookup_insert_same]

theorem barista_setBarista_other (s : State) {b c : Nat} (x : Barista) (h : c ≠ b) : (s.setBarista b x).barista c = s.barista c := by
  simp [State.barista, State.setBarista, lookup_insert_other h]

@[simp] theorem region_setRegion_same (s : State) (rg : Nat) (r : Region) : (s.setRegion rg r).region rg = r := by
  simp [State.region, State.setRegion, lookup_insert_same]

theorem region_setRegion_other (s : State) {rg k : Nat} (r : Region) (h : k ≠ rg) : (s.setRegion rg r).region k = s.region k := by
  simp [State.region, State.setRegion, lookup_insert_other h]

@[simp] theorem strandAt_self (s : State) : s.strandAt s.strandId = s.strand := by simp [State.strandAt]

/-- A strand other than reset reads as it was written. -/
theorem strandAt_setStrandAt_live (s : State) (g : Nat) {x : Strand} (h : x ≠ Strand.reset) : (s.setStrandAt g x).strandAt g = x := by
  by_cases e : g = s.strandId
  · simp [State.strandAt, State.setStrandAt, e]
  · simp [State.strandAt, State.setStrandAt, e, h, lookup_insert_same]

theorem strandAt_setStrandAt_other (s : State) {g k : Nat} (x : Strand) (h : k ≠ g) : (s.setStrandAt g x).strandAt k = s.strandAt k := by
  by_cases e : g = s.strandId
  · subst e; simp [State.strandAt, State.setStrandAt, h]
  · by_cases r : x = Strand.reset
    · simp [State.strandAt, State.setStrandAt, e, r, lookup_erase_other h]
    · simp [State.strandAt, State.setStrandAt, e, r, lookup_insert_other h]

@[simp] theorem setStrandAt_self (s : State) (x : Strand) : s.setStrandAt s.strandId x = { s with strand := x } := by
  simp [State.setStrandAt]

/-! ### The fields of the device -/

@[simp] theorem setCore_turn (s : State) (c : Nat) (x : CoreSt) : (s.setCore c x).turn = s.turn := rfl
@[simp] theorem setCore_strandId (s : State) (c : Nat) (x : CoreSt) : (s.setCore c x).strandId = s.strandId := rfl
@[simp] theorem setCore_strand (s : State) (c : Nat) (x : CoreSt) : (s.setCore c x).strand = s.strand := rfl
@[simp] theorem setCore_others (s : State) (c : Nat) (x : CoreSt) : (s.setCore c x).others = s.others := rfl
@[simp] theorem setCore_parked (s : State) (c : Nat) (x : CoreSt) : (s.setCore c x).parked = s.parked := rfl
@[simp] theorem setCore_baristas (s : State) (c : Nat) (x : CoreSt) : (s.setCore c x).baristas = s.baristas := rfl
@[simp] theorem setCore_clusters (s : State) (c : Nat) (x : CoreSt) : (s.setCore c x).clusters = s.clusters := rfl
@[simp] theorem setCore_dies (s : State) (c : Nat) (x : CoreSt) : (s.setCore c x).dies = s.dies := rfl
@[simp] theorem setCore_mem (s : State) (c : Nat) (x : CoreSt) : (s.setCore c x).mem = s.mem := rfl
@[simp] theorem setCore_hostMem (s : State) (c : Nat) (x : CoreSt) : (s.setCore c x).hostMem = s.hostMem := rfl
@[simp] theorem setCore_hostTags (s : State) (c : Nat) (x : CoreSt) : (s.setCore c x).hostTags = s.hostTags := rfl
@[simp] theorem setCore_busy (s : State) (c : Nat) (x : CoreSt) : (s.setCore c x).busy = s.busy := rfl
@[simp] theorem setCore_frames (s : State) (c : Nat) (x : CoreSt) : (s.setCore c x).frames = s.frames := rfl
@[simp] theorem setCore_llc (s : State) (c : Nat) (x : CoreSt) : (s.setCore c x).llc = s.llc := rfl
@[simp] theorem setCore_pages (s : State) (c : Nat) (x : CoreSt) : (s.setCore c x).pages = s.pages := rfl
@[simp] theorem setCore_unordered (s : State) (c : Nat) (x : CoreSt) : (s.setCore c x).unordered = s.unordered := rfl
@[simp] theorem setCore_translations (s : State) (c : Nat) (x : CoreSt) : (s.setCore c x).translations = s.translations := rfl
@[simp] theorem setCore_views (s : State) (c : Nat) (x : CoreSt) : (s.setCore c x).views = s.views := rfl
@[simp] theorem setCore_forks (s : State) (c : Nat) (x : CoreSt) : (s.setCore c x).forks = s.forks := rfl
@[simp] theorem setCore_forkSeq (s : State) (c : Nat) (x : CoreSt) : (s.setCore c x).forkSeq = s.forkSeq := rfl
@[simp] theorem setCore_reclaims (s : State) (c : Nat) (x : CoreSt) : (s.setCore c x).reclaims = s.reclaims := rfl
@[simp] theorem setCore_generations (s : State) (c : Nat) (x : CoreSt) : (s.setCore c x).generations = s.generations := rfl
@[simp] theorem setCore_regions (s : State) (c : Nat) (x : CoreSt) : (s.setCore c x).regions = s.regions := rfl
@[simp] theorem setCore_touchstone (s : State) (c : Nat) (x : CoreSt) : (s.setCore c x).touchstone = s.touchstone := rfl
@[simp] theorem setCore_blocks (s : State) (c : Nat) (x : CoreSt) : (s.setCore c x).blocks = s.blocks := rfl
@[simp] theorem setCore_blockSeq (s : State) (c : Nat) (x : CoreSt) : (s.setCore c x).blockSeq = s.blockSeq := rfl
@[simp] theorem setCore_mgmt (s : State) (c : Nat) (x : CoreSt) : (s.setCore c x).mgmt = s.mgmt := rfl
@[simp] theorem setCore_cycle (s : State) (c : Nat) (x : CoreSt) : (s.setCore c x).cycle = s.cycle := rfl
@[simp] theorem setCore_freeTick (s : State) (c : Nat) (x : CoreSt) : (s.setCore c x).freeTick = s.freeTick := rfl
@[simp] theorem setCore_collectives (s : State) (c : Nat) (x : CoreSt) : (s.setCore c x).collectives = s.collectives := rfl
@[simp] theorem setCore_fragments (s : State) (c : Nat) (x : CoreSt) : (s.setCore c x).fragments = s.fragments := rfl
@[simp] theorem setCore_mailbox (s : State) (c : Nat) (x : CoreSt) : (s.setCore c x).mailbox = s.mailbox := rfl
@[simp] theorem setCore_ingress (s : State) (c : Nat) (x : CoreSt) : (s.setCore c x).ingress = s.ingress := rfl
@[simp] theorem setCore_sent (s : State) (c : Nat) (x : CoreSt) : (s.setCore c x).sent = s.sent := rfl
@[simp] theorem setCore_hostReads (s : State) (c : Nat) (x : CoreSt) : (s.setCore c x).hostReads = s.hostReads := rfl
@[simp] theorem setCore_unacked (s : State) (c : Nat) (x : CoreSt) : (s.setCore c x).unacked = s.unacked := rfl
@[simp] theorem setCore_saveSlots (s : State) (c : Nat) (x : CoreSt) : (s.setCore c x).saveSlots = s.saveSlots := rfl
@[simp] theorem setCore_replies (s : State) (c : Nat) (x : CoreSt) : (s.setCore c x).replies = s.replies := rfl
@[simp] theorem setCore_sentSeq (s : State) (c : Nat) (x : CoreSt) : (s.setCore c x).sentSeq = s.sentSeq := rfl
@[simp] theorem setCore_inputs (s : State) (c : Nat) (x : CoreSt) : (s.setCore c x).inputs = s.inputs := rfl

@[simp] theorem setDie_turn (s : State) (d : Nat) (x : DieSt) : (s.setDie d x).turn = s.turn := rfl
@[simp] theorem setDie_strandId (s : State) (d : Nat) (x : DieSt) : (s.setDie d x).strandId = s.strandId := rfl
@[simp] theorem setDie_strand (s : State) (d : Nat) (x : DieSt) : (s.setDie d x).strand = s.strand := rfl
@[simp] theorem setDie_others (s : State) (d : Nat) (x : DieSt) : (s.setDie d x).others = s.others := rfl
@[simp] theorem setDie_parked (s : State) (d : Nat) (x : DieSt) : (s.setDie d x).parked = s.parked := rfl
@[simp] theorem setDie_baristas (s : State) (d : Nat) (x : DieSt) : (s.setDie d x).baristas = s.baristas := rfl
@[simp] theorem setDie_cores (s : State) (d : Nat) (x : DieSt) : (s.setDie d x).cores = s.cores := rfl
@[simp] theorem setDie_clusters (s : State) (d : Nat) (x : DieSt) : (s.setDie d x).clusters = s.clusters := rfl
@[simp] theorem setDie_mem (s : State) (d : Nat) (x : DieSt) : (s.setDie d x).mem = s.mem := rfl
@[simp] theorem setDie_hostMem (s : State) (d : Nat) (x : DieSt) : (s.setDie d x).hostMem = s.hostMem := rfl
@[simp] theorem setDie_hostTags (s : State) (d : Nat) (x : DieSt) : (s.setDie d x).hostTags = s.hostTags := rfl
@[simp] theorem setDie_busy (s : State) (d : Nat) (x : DieSt) : (s.setDie d x).busy = s.busy := rfl
@[simp] theorem setDie_frames (s : State) (d : Nat) (x : DieSt) : (s.setDie d x).frames = s.frames := rfl
@[simp] theorem setDie_llc (s : State) (d : Nat) (x : DieSt) : (s.setDie d x).llc = s.llc := rfl
@[simp] theorem setDie_pages (s : State) (d : Nat) (x : DieSt) : (s.setDie d x).pages = s.pages := rfl
@[simp] theorem setDie_unordered (s : State) (d : Nat) (x : DieSt) : (s.setDie d x).unordered = s.unordered := rfl
@[simp] theorem setDie_translations (s : State) (d : Nat) (x : DieSt) : (s.setDie d x).translations = s.translations := rfl
@[simp] theorem setDie_views (s : State) (d : Nat) (x : DieSt) : (s.setDie d x).views = s.views := rfl
@[simp] theorem setDie_forks (s : State) (d : Nat) (x : DieSt) : (s.setDie d x).forks = s.forks := rfl
@[simp] theorem setDie_forkSeq (s : State) (d : Nat) (x : DieSt) : (s.setDie d x).forkSeq = s.forkSeq := rfl
@[simp] theorem setDie_reclaims (s : State) (d : Nat) (x : DieSt) : (s.setDie d x).reclaims = s.reclaims := rfl
@[simp] theorem setDie_generations (s : State) (d : Nat) (x : DieSt) : (s.setDie d x).generations = s.generations := rfl
@[simp] theorem setDie_regions (s : State) (d : Nat) (x : DieSt) : (s.setDie d x).regions = s.regions := rfl
@[simp] theorem setDie_touchstone (s : State) (d : Nat) (x : DieSt) : (s.setDie d x).touchstone = s.touchstone := rfl
@[simp] theorem setDie_blocks (s : State) (d : Nat) (x : DieSt) : (s.setDie d x).blocks = s.blocks := rfl
@[simp] theorem setDie_blockSeq (s : State) (d : Nat) (x : DieSt) : (s.setDie d x).blockSeq = s.blockSeq := rfl
@[simp] theorem setDie_mgmt (s : State) (d : Nat) (x : DieSt) : (s.setDie d x).mgmt = s.mgmt := rfl
@[simp] theorem setDie_cycle (s : State) (d : Nat) (x : DieSt) : (s.setDie d x).cycle = s.cycle := rfl
@[simp] theorem setDie_freeTick (s : State) (d : Nat) (x : DieSt) : (s.setDie d x).freeTick = s.freeTick := rfl
@[simp] theorem setDie_collectives (s : State) (d : Nat) (x : DieSt) : (s.setDie d x).collectives = s.collectives := rfl
@[simp] theorem setDie_fragments (s : State) (d : Nat) (x : DieSt) : (s.setDie d x).fragments = s.fragments := rfl
@[simp] theorem setDie_mailbox (s : State) (d : Nat) (x : DieSt) : (s.setDie d x).mailbox = s.mailbox := rfl
@[simp] theorem setDie_ingress (s : State) (d : Nat) (x : DieSt) : (s.setDie d x).ingress = s.ingress := rfl
@[simp] theorem setDie_sent (s : State) (d : Nat) (x : DieSt) : (s.setDie d x).sent = s.sent := rfl
@[simp] theorem setDie_hostReads (s : State) (d : Nat) (x : DieSt) : (s.setDie d x).hostReads = s.hostReads := rfl
@[simp] theorem setDie_unacked (s : State) (d : Nat) (x : DieSt) : (s.setDie d x).unacked = s.unacked := rfl
@[simp] theorem setDie_saveSlots (s : State) (d : Nat) (x : DieSt) : (s.setDie d x).saveSlots = s.saveSlots := rfl
@[simp] theorem setDie_replies (s : State) (d : Nat) (x : DieSt) : (s.setDie d x).replies = s.replies := rfl
@[simp] theorem setDie_sentSeq (s : State) (d : Nat) (x : DieSt) : (s.setDie d x).sentSeq = s.sentSeq := rfl
@[simp] theorem setDie_inputs (s : State) (d : Nat) (x : DieSt) : (s.setDie d x).inputs = s.inputs := rfl

@[simp] theorem setBarista_turn (s : State) (b : Nat) (x : Barista) : (s.setBarista b x).turn = s.turn := rfl
@[simp] theorem setBarista_strandId (s : State) (b : Nat) (x : Barista) : (s.setBarista b x).strandId = s.strandId := rfl
@[simp] theorem setBarista_strand (s : State) (b : Nat) (x : Barista) : (s.setBarista b x).strand = s.strand := rfl
@[simp] theorem setBarista_others (s : State) (b : Nat) (x : Barista) : (s.setBarista b x).others = s.others := rfl
@[simp] theorem setBarista_parked (s : State) (b : Nat) (x : Barista) : (s.setBarista b x).parked = s.parked := rfl
@[simp] theorem setBarista_cores (s : State) (b : Nat) (x : Barista) : (s.setBarista b x).cores = s.cores := rfl
@[simp] theorem setBarista_clusters (s : State) (b : Nat) (x : Barista) : (s.setBarista b x).clusters = s.clusters := rfl
@[simp] theorem setBarista_dies (s : State) (b : Nat) (x : Barista) : (s.setBarista b x).dies = s.dies := rfl
@[simp] theorem setBarista_mem (s : State) (b : Nat) (x : Barista) : (s.setBarista b x).mem = s.mem := rfl
@[simp] theorem setBarista_hostMem (s : State) (b : Nat) (x : Barista) : (s.setBarista b x).hostMem = s.hostMem := rfl
@[simp] theorem setBarista_hostTags (s : State) (b : Nat) (x : Barista) : (s.setBarista b x).hostTags = s.hostTags := rfl
@[simp] theorem setBarista_busy (s : State) (b : Nat) (x : Barista) : (s.setBarista b x).busy = s.busy := rfl
@[simp] theorem setBarista_frames (s : State) (b : Nat) (x : Barista) : (s.setBarista b x).frames = s.frames := rfl
@[simp] theorem setBarista_llc (s : State) (b : Nat) (x : Barista) : (s.setBarista b x).llc = s.llc := rfl
@[simp] theorem setBarista_pages (s : State) (b : Nat) (x : Barista) : (s.setBarista b x).pages = s.pages := rfl
@[simp] theorem setBarista_unordered (s : State) (b : Nat) (x : Barista) : (s.setBarista b x).unordered = s.unordered := rfl
@[simp] theorem setBarista_translations (s : State) (b : Nat) (x : Barista) : (s.setBarista b x).translations = s.translations := rfl
@[simp] theorem setBarista_views (s : State) (b : Nat) (x : Barista) : (s.setBarista b x).views = s.views := rfl
@[simp] theorem setBarista_forks (s : State) (b : Nat) (x : Barista) : (s.setBarista b x).forks = s.forks := rfl
@[simp] theorem setBarista_forkSeq (s : State) (b : Nat) (x : Barista) : (s.setBarista b x).forkSeq = s.forkSeq := rfl
@[simp] theorem setBarista_reclaims (s : State) (b : Nat) (x : Barista) : (s.setBarista b x).reclaims = s.reclaims := rfl
@[simp] theorem setBarista_generations (s : State) (b : Nat) (x : Barista) : (s.setBarista b x).generations = s.generations := rfl
@[simp] theorem setBarista_regions (s : State) (b : Nat) (x : Barista) : (s.setBarista b x).regions = s.regions := rfl
@[simp] theorem setBarista_touchstone (s : State) (b : Nat) (x : Barista) : (s.setBarista b x).touchstone = s.touchstone := rfl
@[simp] theorem setBarista_blocks (s : State) (b : Nat) (x : Barista) : (s.setBarista b x).blocks = s.blocks := rfl
@[simp] theorem setBarista_blockSeq (s : State) (b : Nat) (x : Barista) : (s.setBarista b x).blockSeq = s.blockSeq := rfl
@[simp] theorem setBarista_mgmt (s : State) (b : Nat) (x : Barista) : (s.setBarista b x).mgmt = s.mgmt := rfl
@[simp] theorem setBarista_cycle (s : State) (b : Nat) (x : Barista) : (s.setBarista b x).cycle = s.cycle := rfl
@[simp] theorem setBarista_freeTick (s : State) (b : Nat) (x : Barista) : (s.setBarista b x).freeTick = s.freeTick := rfl
@[simp] theorem setBarista_collectives (s : State) (b : Nat) (x : Barista) : (s.setBarista b x).collectives = s.collectives := rfl
@[simp] theorem setBarista_fragments (s : State) (b : Nat) (x : Barista) : (s.setBarista b x).fragments = s.fragments := rfl
@[simp] theorem setBarista_mailbox (s : State) (b : Nat) (x : Barista) : (s.setBarista b x).mailbox = s.mailbox := rfl
@[simp] theorem setBarista_ingress (s : State) (b : Nat) (x : Barista) : (s.setBarista b x).ingress = s.ingress := rfl
@[simp] theorem setBarista_sent (s : State) (b : Nat) (x : Barista) : (s.setBarista b x).sent = s.sent := rfl
@[simp] theorem setBarista_hostReads (s : State) (b : Nat) (x : Barista) : (s.setBarista b x).hostReads = s.hostReads := rfl
@[simp] theorem setBarista_unacked (s : State) (b : Nat) (x : Barista) : (s.setBarista b x).unacked = s.unacked := rfl
@[simp] theorem setBarista_saveSlots (s : State) (b : Nat) (x : Barista) : (s.setBarista b x).saveSlots = s.saveSlots := rfl
@[simp] theorem setBarista_replies (s : State) (b : Nat) (x : Barista) : (s.setBarista b x).replies = s.replies := rfl
@[simp] theorem setBarista_sentSeq (s : State) (b : Nat) (x : Barista) : (s.setBarista b x).sentSeq = s.sentSeq := rfl
@[simp] theorem setBarista_inputs (s : State) (b : Nat) (x : Barista) : (s.setBarista b x).inputs = s.inputs := rfl

@[simp] theorem setRegion_turn (s : State) (rg : Nat) (r : Region) : (s.setRegion rg r).turn = s.turn := rfl
@[simp] theorem setRegion_strandId (s : State) (rg : Nat) (r : Region) : (s.setRegion rg r).strandId = s.strandId := rfl
@[simp] theorem setRegion_strand (s : State) (rg : Nat) (r : Region) : (s.setRegion rg r).strand = s.strand := rfl
@[simp] theorem setRegion_others (s : State) (rg : Nat) (r : Region) : (s.setRegion rg r).others = s.others := rfl
@[simp] theorem setRegion_parked (s : State) (rg : Nat) (r : Region) : (s.setRegion rg r).parked = s.parked := rfl
@[simp] theorem setRegion_baristas (s : State) (rg : Nat) (r : Region) : (s.setRegion rg r).baristas = s.baristas := rfl
@[simp] theorem setRegion_cores (s : State) (rg : Nat) (r : Region) : (s.setRegion rg r).cores = s.cores := rfl
@[simp] theorem setRegion_clusters (s : State) (rg : Nat) (r : Region) : (s.setRegion rg r).clusters = s.clusters := rfl
@[simp] theorem setRegion_dies (s : State) (rg : Nat) (r : Region) : (s.setRegion rg r).dies = s.dies := rfl
@[simp] theorem setRegion_mem (s : State) (rg : Nat) (r : Region) : (s.setRegion rg r).mem = s.mem := rfl
@[simp] theorem setRegion_hostMem (s : State) (rg : Nat) (r : Region) : (s.setRegion rg r).hostMem = s.hostMem := rfl
@[simp] theorem setRegion_hostTags (s : State) (rg : Nat) (r : Region) : (s.setRegion rg r).hostTags = s.hostTags := rfl
@[simp] theorem setRegion_busy (s : State) (rg : Nat) (r : Region) : (s.setRegion rg r).busy = s.busy := rfl
@[simp] theorem setRegion_frames (s : State) (rg : Nat) (r : Region) : (s.setRegion rg r).frames = s.frames := rfl
@[simp] theorem setRegion_llc (s : State) (rg : Nat) (r : Region) : (s.setRegion rg r).llc = s.llc := rfl
@[simp] theorem setRegion_pages (s : State) (rg : Nat) (r : Region) : (s.setRegion rg r).pages = s.pages := rfl
@[simp] theorem setRegion_unordered (s : State) (rg : Nat) (r : Region) : (s.setRegion rg r).unordered = s.unordered := rfl
@[simp] theorem setRegion_translations (s : State) (rg : Nat) (r : Region) : (s.setRegion rg r).translations = s.translations := rfl
@[simp] theorem setRegion_views (s : State) (rg : Nat) (r : Region) : (s.setRegion rg r).views = s.views := rfl
@[simp] theorem setRegion_forks (s : State) (rg : Nat) (r : Region) : (s.setRegion rg r).forks = s.forks := rfl
@[simp] theorem setRegion_forkSeq (s : State) (rg : Nat) (r : Region) : (s.setRegion rg r).forkSeq = s.forkSeq := rfl
@[simp] theorem setRegion_reclaims (s : State) (rg : Nat) (r : Region) : (s.setRegion rg r).reclaims = s.reclaims := rfl
@[simp] theorem setRegion_generations (s : State) (rg : Nat) (r : Region) : (s.setRegion rg r).generations = s.generations := rfl
@[simp] theorem setRegion_touchstone (s : State) (rg : Nat) (r : Region) : (s.setRegion rg r).touchstone = s.touchstone := rfl
@[simp] theorem setRegion_blocks (s : State) (rg : Nat) (r : Region) : (s.setRegion rg r).blocks = s.blocks := rfl
@[simp] theorem setRegion_blockSeq (s : State) (rg : Nat) (r : Region) : (s.setRegion rg r).blockSeq = s.blockSeq := rfl
@[simp] theorem setRegion_mgmt (s : State) (rg : Nat) (r : Region) : (s.setRegion rg r).mgmt = s.mgmt := rfl
@[simp] theorem setRegion_cycle (s : State) (rg : Nat) (r : Region) : (s.setRegion rg r).cycle = s.cycle := rfl
@[simp] theorem setRegion_freeTick (s : State) (rg : Nat) (r : Region) : (s.setRegion rg r).freeTick = s.freeTick := rfl
@[simp] theorem setRegion_collectives (s : State) (rg : Nat) (r : Region) : (s.setRegion rg r).collectives = s.collectives := rfl
@[simp] theorem setRegion_fragments (s : State) (rg : Nat) (r : Region) : (s.setRegion rg r).fragments = s.fragments := rfl
@[simp] theorem setRegion_mailbox (s : State) (rg : Nat) (r : Region) : (s.setRegion rg r).mailbox = s.mailbox := rfl
@[simp] theorem setRegion_ingress (s : State) (rg : Nat) (r : Region) : (s.setRegion rg r).ingress = s.ingress := rfl
@[simp] theorem setRegion_sent (s : State) (rg : Nat) (r : Region) : (s.setRegion rg r).sent = s.sent := rfl
@[simp] theorem setRegion_hostReads (s : State) (rg : Nat) (r : Region) : (s.setRegion rg r).hostReads = s.hostReads := rfl
@[simp] theorem setRegion_unacked (s : State) (rg : Nat) (r : Region) : (s.setRegion rg r).unacked = s.unacked := rfl
@[simp] theorem setRegion_saveSlots (s : State) (rg : Nat) (r : Region) : (s.setRegion rg r).saveSlots = s.saveSlots := rfl
@[simp] theorem setRegion_replies (s : State) (rg : Nat) (r : Region) : (s.setRegion rg r).replies = s.replies := rfl
@[simp] theorem setRegion_sentSeq (s : State) (rg : Nat) (r : Region) : (s.setRegion rg r).sentSeq = s.sentSeq := rfl
@[simp] theorem setRegion_inputs (s : State) (rg : Nat) (r : Region) : (s.setRegion rg r).inputs = s.inputs := rfl

@[simp] theorem setStrandAt_turn (s : State) (g : Nat) (x : Strand) : (s.setStrandAt g x).turn = s.turn := by
  unfold State.setStrandAt; split <;> rfl
@[simp] theorem setStrandAt_strandId (s : State) (g : Nat) (x : Strand) : (s.setStrandAt g x).strandId = s.strandId := by
  unfold State.setStrandAt; split <;> rfl
@[simp] theorem setStrandAt_parked (s : State) (g : Nat) (x : Strand) : (s.setStrandAt g x).parked = s.parked := by
  unfold State.setStrandAt; split <;> rfl
@[simp] theorem setStrandAt_baristas (s : State) (g : Nat) (x : Strand) : (s.setStrandAt g x).baristas = s.baristas := by
  unfold State.setStrandAt; split <;> rfl
@[simp] theorem setStrandAt_cores (s : State) (g : Nat) (x : Strand) : (s.setStrandAt g x).cores = s.cores := by
  unfold State.setStrandAt; split <;> rfl
@[simp] theorem setStrandAt_clusters (s : State) (g : Nat) (x : Strand) : (s.setStrandAt g x).clusters = s.clusters := by
  unfold State.setStrandAt; split <;> rfl
@[simp] theorem setStrandAt_dies (s : State) (g : Nat) (x : Strand) : (s.setStrandAt g x).dies = s.dies := by
  unfold State.setStrandAt; split <;> rfl
@[simp] theorem setStrandAt_mem (s : State) (g : Nat) (x : Strand) : (s.setStrandAt g x).mem = s.mem := by
  unfold State.setStrandAt; split <;> rfl
@[simp] theorem setStrandAt_hostMem (s : State) (g : Nat) (x : Strand) : (s.setStrandAt g x).hostMem = s.hostMem := by
  unfold State.setStrandAt; split <;> rfl
@[simp] theorem setStrandAt_hostTags (s : State) (g : Nat) (x : Strand) : (s.setStrandAt g x).hostTags = s.hostTags := by
  unfold State.setStrandAt; split <;> rfl
@[simp] theorem setStrandAt_busy (s : State) (g : Nat) (x : Strand) : (s.setStrandAt g x).busy = s.busy := by
  unfold State.setStrandAt; split <;> rfl
@[simp] theorem setStrandAt_frames (s : State) (g : Nat) (x : Strand) : (s.setStrandAt g x).frames = s.frames := by
  unfold State.setStrandAt; split <;> rfl
@[simp] theorem setStrandAt_llc (s : State) (g : Nat) (x : Strand) : (s.setStrandAt g x).llc = s.llc := by
  unfold State.setStrandAt; split <;> rfl
@[simp] theorem setStrandAt_pages (s : State) (g : Nat) (x : Strand) : (s.setStrandAt g x).pages = s.pages := by
  unfold State.setStrandAt; split <;> rfl
@[simp] theorem setStrandAt_unordered (s : State) (g : Nat) (x : Strand) : (s.setStrandAt g x).unordered = s.unordered := by
  unfold State.setStrandAt; split <;> rfl
@[simp] theorem setStrandAt_translations (s : State) (g : Nat) (x : Strand) : (s.setStrandAt g x).translations = s.translations := by
  unfold State.setStrandAt; split <;> rfl
@[simp] theorem setStrandAt_views (s : State) (g : Nat) (x : Strand) : (s.setStrandAt g x).views = s.views := by
  unfold State.setStrandAt; split <;> rfl
@[simp] theorem setStrandAt_forks (s : State) (g : Nat) (x : Strand) : (s.setStrandAt g x).forks = s.forks := by
  unfold State.setStrandAt; split <;> rfl
@[simp] theorem setStrandAt_forkSeq (s : State) (g : Nat) (x : Strand) : (s.setStrandAt g x).forkSeq = s.forkSeq := by
  unfold State.setStrandAt; split <;> rfl
@[simp] theorem setStrandAt_reclaims (s : State) (g : Nat) (x : Strand) : (s.setStrandAt g x).reclaims = s.reclaims := by
  unfold State.setStrandAt; split <;> rfl
@[simp] theorem setStrandAt_generations (s : State) (g : Nat) (x : Strand) : (s.setStrandAt g x).generations = s.generations := by
  unfold State.setStrandAt; split <;> rfl
@[simp] theorem setStrandAt_regions (s : State) (g : Nat) (x : Strand) : (s.setStrandAt g x).regions = s.regions := by
  unfold State.setStrandAt; split <;> rfl
@[simp] theorem setStrandAt_touchstone (s : State) (g : Nat) (x : Strand) : (s.setStrandAt g x).touchstone = s.touchstone := by
  unfold State.setStrandAt; split <;> rfl
@[simp] theorem setStrandAt_blocks (s : State) (g : Nat) (x : Strand) : (s.setStrandAt g x).blocks = s.blocks := by
  unfold State.setStrandAt; split <;> rfl
@[simp] theorem setStrandAt_blockSeq (s : State) (g : Nat) (x : Strand) : (s.setStrandAt g x).blockSeq = s.blockSeq := by
  unfold State.setStrandAt; split <;> rfl
@[simp] theorem setStrandAt_mgmt (s : State) (g : Nat) (x : Strand) : (s.setStrandAt g x).mgmt = s.mgmt := by
  unfold State.setStrandAt; split <;> rfl
@[simp] theorem setStrandAt_cycle (s : State) (g : Nat) (x : Strand) : (s.setStrandAt g x).cycle = s.cycle := by
  unfold State.setStrandAt; split <;> rfl
@[simp] theorem setStrandAt_freeTick (s : State) (g : Nat) (x : Strand) : (s.setStrandAt g x).freeTick = s.freeTick := by
  unfold State.setStrandAt; split <;> rfl
@[simp] theorem setStrandAt_collectives (s : State) (g : Nat) (x : Strand) : (s.setStrandAt g x).collectives = s.collectives := by
  unfold State.setStrandAt; split <;> rfl
@[simp] theorem setStrandAt_fragments (s : State) (g : Nat) (x : Strand) : (s.setStrandAt g x).fragments = s.fragments := by
  unfold State.setStrandAt; split <;> rfl
@[simp] theorem setStrandAt_mailbox (s : State) (g : Nat) (x : Strand) : (s.setStrandAt g x).mailbox = s.mailbox := by
  unfold State.setStrandAt; split <;> rfl
@[simp] theorem setStrandAt_ingress (s : State) (g : Nat) (x : Strand) : (s.setStrandAt g x).ingress = s.ingress := by
  unfold State.setStrandAt; split <;> rfl
@[simp] theorem setStrandAt_sent (s : State) (g : Nat) (x : Strand) : (s.setStrandAt g x).sent = s.sent := by
  unfold State.setStrandAt; split <;> rfl
@[simp] theorem setStrandAt_hostReads (s : State) (g : Nat) (x : Strand) : (s.setStrandAt g x).hostReads = s.hostReads := by
  unfold State.setStrandAt; split <;> rfl
@[simp] theorem setStrandAt_unacked (s : State) (g : Nat) (x : Strand) : (s.setStrandAt g x).unacked = s.unacked := by
  unfold State.setStrandAt; split <;> rfl
@[simp] theorem setStrandAt_saveSlots (s : State) (g : Nat) (x : Strand) : (s.setStrandAt g x).saveSlots = s.saveSlots := by
  unfold State.setStrandAt; split <;> rfl
@[simp] theorem setStrandAt_replies (s : State) (g : Nat) (x : Strand) : (s.setStrandAt g x).replies = s.replies := by
  unfold State.setStrandAt; split <;> rfl
@[simp] theorem setStrandAt_sentSeq (s : State) (g : Nat) (x : Strand) : (s.setStrandAt g x).sentSeq = s.sentSeq := by
  unfold State.setStrandAt; split <;> rfl
@[simp] theorem setStrandAt_inputs (s : State) (g : Nat) (x : Strand) : (s.setStrandAt g x).inputs = s.inputs := by
  unfold State.setStrandAt; split <;> rfl

@[simp] theorem setPc_turn (s : State) (a : Word) : (s.setPc a).turn = s.turn := by
  unfold State.setPc; split <;> rfl
@[simp] theorem setPc_strandId (s : State) (a : Word) : (s.setPc a).strandId = s.strandId := by
  unfold State.setPc; split <;> rfl
@[simp] theorem setPc_others (s : State) (a : Word) : (s.setPc a).others = s.others := by
  unfold State.setPc; split <;> rfl
@[simp] theorem setPc_parked (s : State) (a : Word) : (s.setPc a).parked = s.parked := by
  unfold State.setPc; split <;> rfl
@[simp] theorem setPc_cores (s : State) (a : Word) : (s.setPc a).cores = s.cores := by
  unfold State.setPc; split <;> rfl
@[simp] theorem setPc_clusters (s : State) (a : Word) : (s.setPc a).clusters = s.clusters := by
  unfold State.setPc; split <;> rfl
@[simp] theorem setPc_dies (s : State) (a : Word) : (s.setPc a).dies = s.dies := by
  unfold State.setPc; split <;> rfl
@[simp] theorem setPc_mem (s : State) (a : Word) : (s.setPc a).mem = s.mem := by
  unfold State.setPc; split <;> rfl
@[simp] theorem setPc_hostMem (s : State) (a : Word) : (s.setPc a).hostMem = s.hostMem := by
  unfold State.setPc; split <;> rfl
@[simp] theorem setPc_hostTags (s : State) (a : Word) : (s.setPc a).hostTags = s.hostTags := by
  unfold State.setPc; split <;> rfl
@[simp] theorem setPc_busy (s : State) (a : Word) : (s.setPc a).busy = s.busy := by
  unfold State.setPc; split <;> rfl
@[simp] theorem setPc_frames (s : State) (a : Word) : (s.setPc a).frames = s.frames := by
  unfold State.setPc; split <;> rfl
@[simp] theorem setPc_llc (s : State) (a : Word) : (s.setPc a).llc = s.llc := by
  unfold State.setPc; split <;> rfl
@[simp] theorem setPc_pages (s : State) (a : Word) : (s.setPc a).pages = s.pages := by
  unfold State.setPc; split <;> rfl
@[simp] theorem setPc_unordered (s : State) (a : Word) : (s.setPc a).unordered = s.unordered := by
  unfold State.setPc; split <;> rfl
@[simp] theorem setPc_translations (s : State) (a : Word) : (s.setPc a).translations = s.translations := by
  unfold State.setPc; split <;> rfl
@[simp] theorem setPc_views (s : State) (a : Word) : (s.setPc a).views = s.views := by
  unfold State.setPc; split <;> rfl
@[simp] theorem setPc_forks (s : State) (a : Word) : (s.setPc a).forks = s.forks := by
  unfold State.setPc; split <;> rfl
@[simp] theorem setPc_forkSeq (s : State) (a : Word) : (s.setPc a).forkSeq = s.forkSeq := by
  unfold State.setPc; split <;> rfl
@[simp] theorem setPc_reclaims (s : State) (a : Word) : (s.setPc a).reclaims = s.reclaims := by
  unfold State.setPc; split <;> rfl
@[simp] theorem setPc_generations (s : State) (a : Word) : (s.setPc a).generations = s.generations := by
  unfold State.setPc; split <;> rfl
@[simp] theorem setPc_regions (s : State) (a : Word) : (s.setPc a).regions = s.regions := by
  unfold State.setPc; split <;> rfl
@[simp] theorem setPc_touchstone (s : State) (a : Word) : (s.setPc a).touchstone = s.touchstone := by
  unfold State.setPc; split <;> rfl
@[simp] theorem setPc_blocks (s : State) (a : Word) : (s.setPc a).blocks = s.blocks := by
  unfold State.setPc; split <;> rfl
@[simp] theorem setPc_blockSeq (s : State) (a : Word) : (s.setPc a).blockSeq = s.blockSeq := by
  unfold State.setPc; split <;> rfl
@[simp] theorem setPc_mgmt (s : State) (a : Word) : (s.setPc a).mgmt = s.mgmt := by
  unfold State.setPc; split <;> rfl
@[simp] theorem setPc_cycle (s : State) (a : Word) : (s.setPc a).cycle = s.cycle := by
  unfold State.setPc; split <;> rfl
@[simp] theorem setPc_freeTick (s : State) (a : Word) : (s.setPc a).freeTick = s.freeTick := by
  unfold State.setPc; split <;> rfl
@[simp] theorem setPc_collectives (s : State) (a : Word) : (s.setPc a).collectives = s.collectives := by
  unfold State.setPc; split <;> rfl
@[simp] theorem setPc_fragments (s : State) (a : Word) : (s.setPc a).fragments = s.fragments := by
  unfold State.setPc; split <;> rfl
@[simp] theorem setPc_mailbox (s : State) (a : Word) : (s.setPc a).mailbox = s.mailbox := by
  unfold State.setPc; split <;> rfl
@[simp] theorem setPc_ingress (s : State) (a : Word) : (s.setPc a).ingress = s.ingress := by
  unfold State.setPc; split <;> rfl
@[simp] theorem setPc_sent (s : State) (a : Word) : (s.setPc a).sent = s.sent := by
  unfold State.setPc; split <;> rfl
@[simp] theorem setPc_hostReads (s : State) (a : Word) : (s.setPc a).hostReads = s.hostReads := by
  unfold State.setPc; split <;> rfl
@[simp] theorem setPc_unacked (s : State) (a : Word) : (s.setPc a).unacked = s.unacked := by
  unfold State.setPc; split <;> rfl
@[simp] theorem setPc_saveSlots (s : State) (a : Word) : (s.setPc a).saveSlots = s.saveSlots := by
  unfold State.setPc; split <;> rfl
@[simp] theorem setPc_replies (s : State) (a : Word) : (s.setPc a).replies = s.replies := by
  unfold State.setPc; split <;> rfl
@[simp] theorem setPc_sentSeq (s : State) (a : Word) : (s.setPc a).sentSeq = s.sentSeq := by
  unfold State.setPc; split <;> rfl
@[simp] theorem setPc_inputs (s : State) (a : Word) : (s.setPc a).inputs = s.inputs := by
  unfold State.setPc; split <;> rfl

@[simp] theorem setLent_turn (s : State) (l : Option Lent) : (s.setLent l).turn = s.turn := by
  unfold State.setLent; split <;> rfl
@[simp] theorem setLent_strandId (s : State) (l : Option Lent) : (s.setLent l).strandId = s.strandId := by
  unfold State.setLent; split <;> rfl
@[simp] theorem setLent_others (s : State) (l : Option Lent) : (s.setLent l).others = s.others := by
  unfold State.setLent; split <;> rfl
@[simp] theorem setLent_parked (s : State) (l : Option Lent) : (s.setLent l).parked = s.parked := by
  unfold State.setLent; split <;> rfl
@[simp] theorem setLent_cores (s : State) (l : Option Lent) : (s.setLent l).cores = s.cores := by
  unfold State.setLent; split <;> rfl
@[simp] theorem setLent_clusters (s : State) (l : Option Lent) : (s.setLent l).clusters = s.clusters := by
  unfold State.setLent; split <;> rfl
@[simp] theorem setLent_dies (s : State) (l : Option Lent) : (s.setLent l).dies = s.dies := by
  unfold State.setLent; split <;> rfl
@[simp] theorem setLent_mem (s : State) (l : Option Lent) : (s.setLent l).mem = s.mem := by
  unfold State.setLent; split <;> rfl
@[simp] theorem setLent_hostMem (s : State) (l : Option Lent) : (s.setLent l).hostMem = s.hostMem := by
  unfold State.setLent; split <;> rfl
@[simp] theorem setLent_hostTags (s : State) (l : Option Lent) : (s.setLent l).hostTags = s.hostTags := by
  unfold State.setLent; split <;> rfl
@[simp] theorem setLent_busy (s : State) (l : Option Lent) : (s.setLent l).busy = s.busy := by
  unfold State.setLent; split <;> rfl
@[simp] theorem setLent_frames (s : State) (l : Option Lent) : (s.setLent l).frames = s.frames := by
  unfold State.setLent; split <;> rfl
@[simp] theorem setLent_llc (s : State) (l : Option Lent) : (s.setLent l).llc = s.llc := by
  unfold State.setLent; split <;> rfl
@[simp] theorem setLent_pages (s : State) (l : Option Lent) : (s.setLent l).pages = s.pages := by
  unfold State.setLent; split <;> rfl
@[simp] theorem setLent_unordered (s : State) (l : Option Lent) : (s.setLent l).unordered = s.unordered := by
  unfold State.setLent; split <;> rfl
@[simp] theorem setLent_translations (s : State) (l : Option Lent) : (s.setLent l).translations = s.translations := by
  unfold State.setLent; split <;> rfl
@[simp] theorem setLent_views (s : State) (l : Option Lent) : (s.setLent l).views = s.views := by
  unfold State.setLent; split <;> rfl
@[simp] theorem setLent_forks (s : State) (l : Option Lent) : (s.setLent l).forks = s.forks := by
  unfold State.setLent; split <;> rfl
@[simp] theorem setLent_forkSeq (s : State) (l : Option Lent) : (s.setLent l).forkSeq = s.forkSeq := by
  unfold State.setLent; split <;> rfl
@[simp] theorem setLent_reclaims (s : State) (l : Option Lent) : (s.setLent l).reclaims = s.reclaims := by
  unfold State.setLent; split <;> rfl
@[simp] theorem setLent_generations (s : State) (l : Option Lent) : (s.setLent l).generations = s.generations := by
  unfold State.setLent; split <;> rfl
@[simp] theorem setLent_regions (s : State) (l : Option Lent) : (s.setLent l).regions = s.regions := by
  unfold State.setLent; split <;> rfl
@[simp] theorem setLent_touchstone (s : State) (l : Option Lent) : (s.setLent l).touchstone = s.touchstone := by
  unfold State.setLent; split <;> rfl
@[simp] theorem setLent_blocks (s : State) (l : Option Lent) : (s.setLent l).blocks = s.blocks := by
  unfold State.setLent; split <;> rfl
@[simp] theorem setLent_blockSeq (s : State) (l : Option Lent) : (s.setLent l).blockSeq = s.blockSeq := by
  unfold State.setLent; split <;> rfl
@[simp] theorem setLent_mgmt (s : State) (l : Option Lent) : (s.setLent l).mgmt = s.mgmt := by
  unfold State.setLent; split <;> rfl
@[simp] theorem setLent_cycle (s : State) (l : Option Lent) : (s.setLent l).cycle = s.cycle := by
  unfold State.setLent; split <;> rfl
@[simp] theorem setLent_freeTick (s : State) (l : Option Lent) : (s.setLent l).freeTick = s.freeTick := by
  unfold State.setLent; split <;> rfl
@[simp] theorem setLent_collectives (s : State) (l : Option Lent) : (s.setLent l).collectives = s.collectives := by
  unfold State.setLent; split <;> rfl
@[simp] theorem setLent_fragments (s : State) (l : Option Lent) : (s.setLent l).fragments = s.fragments := by
  unfold State.setLent; split <;> rfl
@[simp] theorem setLent_mailbox (s : State) (l : Option Lent) : (s.setLent l).mailbox = s.mailbox := by
  unfold State.setLent; split <;> rfl
@[simp] theorem setLent_ingress (s : State) (l : Option Lent) : (s.setLent l).ingress = s.ingress := by
  unfold State.setLent; split <;> rfl
@[simp] theorem setLent_sent (s : State) (l : Option Lent) : (s.setLent l).sent = s.sent := by
  unfold State.setLent; split <;> rfl
@[simp] theorem setLent_hostReads (s : State) (l : Option Lent) : (s.setLent l).hostReads = s.hostReads := by
  unfold State.setLent; split <;> rfl
@[simp] theorem setLent_unacked (s : State) (l : Option Lent) : (s.setLent l).unacked = s.unacked := by
  unfold State.setLent; split <;> rfl
@[simp] theorem setLent_saveSlots (s : State) (l : Option Lent) : (s.setLent l).saveSlots = s.saveSlots := by
  unfold State.setLent; split <;> rfl
@[simp] theorem setLent_replies (s : State) (l : Option Lent) : (s.setLent l).replies = s.replies := by
  unfold State.setLent; split <;> rfl
@[simp] theorem setLent_sentSeq (s : State) (l : Option Lent) : (s.setLent l).sentSeq = s.sentSeq := by
  unfold State.setLent; split <;> rfl
@[simp] theorem setLent_inputs (s : State) (l : Option Lent) : (s.setLent l).inputs = s.inputs := by
  unfold State.setLent; split <;> rfl

@[simp] theorem tickSched_turn (s : State)  : (s.tickSched).turn = s.turn := by
  unfold State.tickSched; split <;> rfl
@[simp] theorem tickSched_strandId (s : State)  : (s.tickSched).strandId = s.strandId := by
  unfold State.tickSched; split <;> rfl
@[simp] theorem tickSched_others (s : State)  : (s.tickSched).others = s.others := by
  unfold State.tickSched; split <;> rfl
@[simp] theorem tickSched_parked (s : State)  : (s.tickSched).parked = s.parked := by
  unfold State.tickSched; split <;> rfl
@[simp] theorem tickSched_cores (s : State)  : (s.tickSched).cores = s.cores := by
  unfold State.tickSched; split <;> rfl
@[simp] theorem tickSched_clusters (s : State)  : (s.tickSched).clusters = s.clusters := by
  unfold State.tickSched; split <;> rfl
@[simp] theorem tickSched_dies (s : State)  : (s.tickSched).dies = s.dies := by
  unfold State.tickSched; split <;> rfl
@[simp] theorem tickSched_mem (s : State)  : (s.tickSched).mem = s.mem := by
  unfold State.tickSched; split <;> rfl
@[simp] theorem tickSched_hostMem (s : State)  : (s.tickSched).hostMem = s.hostMem := by
  unfold State.tickSched; split <;> rfl
@[simp] theorem tickSched_hostTags (s : State)  : (s.tickSched).hostTags = s.hostTags := by
  unfold State.tickSched; split <;> rfl
@[simp] theorem tickSched_busy (s : State)  : (s.tickSched).busy = s.busy := by
  unfold State.tickSched; split <;> rfl
@[simp] theorem tickSched_frames (s : State)  : (s.tickSched).frames = s.frames := by
  unfold State.tickSched; split <;> rfl
@[simp] theorem tickSched_llc (s : State)  : (s.tickSched).llc = s.llc := by
  unfold State.tickSched; split <;> rfl
@[simp] theorem tickSched_pages (s : State)  : (s.tickSched).pages = s.pages := by
  unfold State.tickSched; split <;> rfl
@[simp] theorem tickSched_unordered (s : State)  : (s.tickSched).unordered = s.unordered := by
  unfold State.tickSched; split <;> rfl
@[simp] theorem tickSched_translations (s : State)  : (s.tickSched).translations = s.translations := by
  unfold State.tickSched; split <;> rfl
@[simp] theorem tickSched_views (s : State)  : (s.tickSched).views = s.views := by
  unfold State.tickSched; split <;> rfl
@[simp] theorem tickSched_forks (s : State)  : (s.tickSched).forks = s.forks := by
  unfold State.tickSched; split <;> rfl
@[simp] theorem tickSched_forkSeq (s : State)  : (s.tickSched).forkSeq = s.forkSeq := by
  unfold State.tickSched; split <;> rfl
@[simp] theorem tickSched_reclaims (s : State)  : (s.tickSched).reclaims = s.reclaims := by
  unfold State.tickSched; split <;> rfl
@[simp] theorem tickSched_generations (s : State)  : (s.tickSched).generations = s.generations := by
  unfold State.tickSched; split <;> rfl
@[simp] theorem tickSched_regions (s : State)  : (s.tickSched).regions = s.regions := by
  unfold State.tickSched; split <;> rfl
@[simp] theorem tickSched_touchstone (s : State)  : (s.tickSched).touchstone = s.touchstone := by
  unfold State.tickSched; split <;> rfl
@[simp] theorem tickSched_blocks (s : State)  : (s.tickSched).blocks = s.blocks := by
  unfold State.tickSched; split <;> rfl
@[simp] theorem tickSched_blockSeq (s : State)  : (s.tickSched).blockSeq = s.blockSeq := by
  unfold State.tickSched; split <;> rfl
@[simp] theorem tickSched_mgmt (s : State)  : (s.tickSched).mgmt = s.mgmt := by
  unfold State.tickSched; split <;> rfl
@[simp] theorem tickSched_cycle (s : State)  : (s.tickSched).cycle = s.cycle := by
  unfold State.tickSched; split <;> rfl
@[simp] theorem tickSched_freeTick (s : State)  : (s.tickSched).freeTick = s.freeTick := by
  unfold State.tickSched; split <;> rfl
@[simp] theorem tickSched_collectives (s : State)  : (s.tickSched).collectives = s.collectives := by
  unfold State.tickSched; split <;> rfl
@[simp] theorem tickSched_fragments (s : State)  : (s.tickSched).fragments = s.fragments := by
  unfold State.tickSched; split <;> rfl
@[simp] theorem tickSched_mailbox (s : State)  : (s.tickSched).mailbox = s.mailbox := by
  unfold State.tickSched; split <;> rfl
@[simp] theorem tickSched_ingress (s : State)  : (s.tickSched).ingress = s.ingress := by
  unfold State.tickSched; split <;> rfl
@[simp] theorem tickSched_sent (s : State)  : (s.tickSched).sent = s.sent := by
  unfold State.tickSched; split <;> rfl
@[simp] theorem tickSched_hostReads (s : State)  : (s.tickSched).hostReads = s.hostReads := by
  unfold State.tickSched; split <;> rfl
@[simp] theorem tickSched_unacked (s : State)  : (s.tickSched).unacked = s.unacked := by
  unfold State.tickSched; split <;> rfl
@[simp] theorem tickSched_saveSlots (s : State)  : (s.tickSched).saveSlots = s.saveSlots := by
  unfold State.tickSched; split <;> rfl
@[simp] theorem tickSched_replies (s : State)  : (s.tickSched).replies = s.replies := by
  unfold State.tickSched; split <;> rfl
@[simp] theorem tickSched_sentSeq (s : State)  : (s.tickSched).sentSeq = s.sentSeq := by
  unfold State.tickSched; split <;> rfl
@[simp] theorem tickSched_inputs (s : State)  : (s.tickSched).inputs = s.inputs := by
  unfold State.tickSched; split <;> rfl

@[simp] theorem tickSched_baristas (s : State) : s.tickSched.baristas = s.baristas := by
  unfold State.tickSched; split <;> rfl

@[simp] theorem retireTo_turn (s : State) (a : Word) : (s.retireTo a).turn = s.turn := by simp [State.retireTo]
@[simp] theorem retireTo_strandId (s : State) (a : Word) : (s.retireTo a).strandId = s.strandId := by simp [State.retireTo]
@[simp] theorem retireTo_others (s : State) (a : Word) : (s.retireTo a).others = s.others := by simp [State.retireTo]
@[simp] theorem retireTo_parked (s : State) (a : Word) : (s.retireTo a).parked = s.parked := by simp [State.retireTo]
@[simp] theorem retireTo_cores (s : State) (a : Word) : (s.retireTo a).cores = s.cores := by simp [State.retireTo]
@[simp] theorem retireTo_clusters (s : State) (a : Word) : (s.retireTo a).clusters = s.clusters := by simp [State.retireTo]
@[simp] theorem retireTo_dies (s : State) (a : Word) : (s.retireTo a).dies = s.dies := by simp [State.retireTo]
@[simp] theorem retireTo_mem (s : State) (a : Word) : (s.retireTo a).mem = s.mem := by simp [State.retireTo]
@[simp] theorem retireTo_hostMem (s : State) (a : Word) : (s.retireTo a).hostMem = s.hostMem := by simp [State.retireTo]
@[simp] theorem retireTo_hostTags (s : State) (a : Word) : (s.retireTo a).hostTags = s.hostTags := by simp [State.retireTo]
@[simp] theorem retireTo_busy (s : State) (a : Word) : (s.retireTo a).busy = s.busy := by simp [State.retireTo]
@[simp] theorem retireTo_frames (s : State) (a : Word) : (s.retireTo a).frames = s.frames := by simp [State.retireTo]
@[simp] theorem retireTo_llc (s : State) (a : Word) : (s.retireTo a).llc = s.llc := by simp [State.retireTo]
@[simp] theorem retireTo_pages (s : State) (a : Word) : (s.retireTo a).pages = s.pages := by simp [State.retireTo]
@[simp] theorem retireTo_unordered (s : State) (a : Word) : (s.retireTo a).unordered = s.unordered := by simp [State.retireTo]
@[simp] theorem retireTo_translations (s : State) (a : Word) : (s.retireTo a).translations = s.translations := by simp [State.retireTo]
@[simp] theorem retireTo_views (s : State) (a : Word) : (s.retireTo a).views = s.views := by simp [State.retireTo]
@[simp] theorem retireTo_forks (s : State) (a : Word) : (s.retireTo a).forks = s.forks := by simp [State.retireTo]
@[simp] theorem retireTo_forkSeq (s : State) (a : Word) : (s.retireTo a).forkSeq = s.forkSeq := by simp [State.retireTo]
@[simp] theorem retireTo_reclaims (s : State) (a : Word) : (s.retireTo a).reclaims = s.reclaims := by simp [State.retireTo]
@[simp] theorem retireTo_generations (s : State) (a : Word) : (s.retireTo a).generations = s.generations := by simp [State.retireTo]
@[simp] theorem retireTo_regions (s : State) (a : Word) : (s.retireTo a).regions = s.regions := by simp [State.retireTo]
@[simp] theorem retireTo_touchstone (s : State) (a : Word) : (s.retireTo a).touchstone = s.touchstone := by simp [State.retireTo]
@[simp] theorem retireTo_blocks (s : State) (a : Word) : (s.retireTo a).blocks = s.blocks := by simp [State.retireTo]
@[simp] theorem retireTo_blockSeq (s : State) (a : Word) : (s.retireTo a).blockSeq = s.blockSeq := by simp [State.retireTo]
@[simp] theorem retireTo_mgmt (s : State) (a : Word) : (s.retireTo a).mgmt = s.mgmt := by simp [State.retireTo]
@[simp] theorem retireTo_cycle (s : State) (a : Word) : (s.retireTo a).cycle = s.cycle := by simp [State.retireTo]
@[simp] theorem retireTo_freeTick (s : State) (a : Word) : (s.retireTo a).freeTick = s.freeTick := by simp [State.retireTo]
@[simp] theorem retireTo_collectives (s : State) (a : Word) : (s.retireTo a).collectives = s.collectives := by simp [State.retireTo]
@[simp] theorem retireTo_fragments (s : State) (a : Word) : (s.retireTo a).fragments = s.fragments := by simp [State.retireTo]
@[simp] theorem retireTo_mailbox (s : State) (a : Word) : (s.retireTo a).mailbox = s.mailbox := by simp [State.retireTo]
@[simp] theorem retireTo_ingress (s : State) (a : Word) : (s.retireTo a).ingress = s.ingress := by simp [State.retireTo]
@[simp] theorem retireTo_sent (s : State) (a : Word) : (s.retireTo a).sent = s.sent := by simp [State.retireTo]
@[simp] theorem retireTo_hostReads (s : State) (a : Word) : (s.retireTo a).hostReads = s.hostReads := by simp [State.retireTo]
@[simp] theorem retireTo_unacked (s : State) (a : Word) : (s.retireTo a).unacked = s.unacked := by simp [State.retireTo]
@[simp] theorem retireTo_saveSlots (s : State) (a : Word) : (s.retireTo a).saveSlots = s.saveSlots := by simp [State.retireTo]
@[simp] theorem retireTo_replies (s : State) (a : Word) : (s.retireTo a).replies = s.replies := by simp [State.retireTo]
@[simp] theorem retireTo_sentSeq (s : State) (a : Word) : (s.retireTo a).sentSeq = s.sentSeq := by simp [State.retireTo]
@[simp] theorem retireTo_inputs (s : State) (a : Word) : (s.retireTo a).inputs = s.inputs := by simp [State.retireTo]
@[simp] theorem retire_turn (s : State) : s.retire.turn = s.turn := by simp [State.retire]
@[simp] theorem retire_strandId (s : State) : s.retire.strandId = s.strandId := by simp [State.retire]
@[simp] theorem retire_others (s : State) : s.retire.others = s.others := by simp [State.retire]
@[simp] theorem retire_parked (s : State) : s.retire.parked = s.parked := by simp [State.retire]
@[simp] theorem retire_cores (s : State) : s.retire.cores = s.cores := by simp [State.retire]
@[simp] theorem retire_clusters (s : State) : s.retire.clusters = s.clusters := by simp [State.retire]
@[simp] theorem retire_dies (s : State) : s.retire.dies = s.dies := by simp [State.retire]
@[simp] theorem retire_mem (s : State) : s.retire.mem = s.mem := by simp [State.retire]
@[simp] theorem retire_hostMem (s : State) : s.retire.hostMem = s.hostMem := by simp [State.retire]
@[simp] theorem retire_hostTags (s : State) : s.retire.hostTags = s.hostTags := by simp [State.retire]
@[simp] theorem retire_busy (s : State) : s.retire.busy = s.busy := by simp [State.retire]
@[simp] theorem retire_frames (s : State) : s.retire.frames = s.frames := by simp [State.retire]
@[simp] theorem retire_llc (s : State) : s.retire.llc = s.llc := by simp [State.retire]
@[simp] theorem retire_pages (s : State) : s.retire.pages = s.pages := by simp [State.retire]
@[simp] theorem retire_unordered (s : State) : s.retire.unordered = s.unordered := by simp [State.retire]
@[simp] theorem retire_translations (s : State) : s.retire.translations = s.translations := by simp [State.retire]
@[simp] theorem retire_views (s : State) : s.retire.views = s.views := by simp [State.retire]
@[simp] theorem retire_forks (s : State) : s.retire.forks = s.forks := by simp [State.retire]
@[simp] theorem retire_forkSeq (s : State) : s.retire.forkSeq = s.forkSeq := by simp [State.retire]
@[simp] theorem retire_reclaims (s : State) : s.retire.reclaims = s.reclaims := by simp [State.retire]
@[simp] theorem retire_generations (s : State) : s.retire.generations = s.generations := by simp [State.retire]
@[simp] theorem retire_regions (s : State) : s.retire.regions = s.regions := by simp [State.retire]
@[simp] theorem retire_touchstone (s : State) : s.retire.touchstone = s.touchstone := by simp [State.retire]
@[simp] theorem retire_blocks (s : State) : s.retire.blocks = s.blocks := by simp [State.retire]
@[simp] theorem retire_blockSeq (s : State) : s.retire.blockSeq = s.blockSeq := by simp [State.retire]
@[simp] theorem retire_mgmt (s : State) : s.retire.mgmt = s.mgmt := by simp [State.retire]
@[simp] theorem retire_cycle (s : State) : s.retire.cycle = s.cycle := by simp [State.retire]
@[simp] theorem retire_freeTick (s : State) : s.retire.freeTick = s.freeTick := by simp [State.retire]
@[simp] theorem retire_collectives (s : State) : s.retire.collectives = s.collectives := by simp [State.retire]
@[simp] theorem retire_fragments (s : State) : s.retire.fragments = s.fragments := by simp [State.retire]
@[simp] theorem retire_mailbox (s : State) : s.retire.mailbox = s.mailbox := by simp [State.retire]
@[simp] theorem retire_ingress (s : State) : s.retire.ingress = s.ingress := by simp [State.retire]
@[simp] theorem retire_sent (s : State) : s.retire.sent = s.sent := by simp [State.retire]
@[simp] theorem retire_hostReads (s : State) : s.retire.hostReads = s.hostReads := by simp [State.retire]
@[simp] theorem retire_unacked (s : State) : s.retire.unacked = s.unacked := by simp [State.retire]
@[simp] theorem retire_saveSlots (s : State) : s.retire.saveSlots = s.saveSlots := by simp [State.retire]
@[simp] theorem retire_replies (s : State) : s.retire.replies = s.replies := by simp [State.retire]
@[simp] theorem retire_sentSeq (s : State) : s.retire.sentSeq = s.sentSeq := by simp [State.retire]
@[simp] theorem retire_inputs (s : State) : s.retire.inputs = s.inputs := by simp [State.retire]

/-! ### The fields of a strand -/

@[simp] theorem Strand.setS_phase (x : Strand) (r : SReg) (v : Word) : (x.setS r v).phase = x.phase := by
  unfold Strand.setS; split <;> rfl
@[simp] theorem Strand.setS_pc (x : Strand) (r : SReg) (v : Word) : (x.setS r v).pc = x.pc := by
  unfold Strand.setS; split <;> rfl
@[simp] theorem Strand.setS_v (x : Strand) (r : SReg) (v : Word) : (x.setS r v).v = x.v := by
  unfold Strand.setS; split <;> rfl
@[simp] theorem Strand.setS_p (x : Strand) (r : SReg) (v : Word) : (x.setS r v).p = x.p := by
  unfold Strand.setS; split <;> rfl
@[simp] theorem Strand.setS_tiles (x : Strand) (r : SReg) (v : Word) : (x.setS r v).tiles = x.tiles := by
  unfold Strand.setS; split <;> rfl
@[simp] theorem Strand.setS_q (x : Strand) (r : SReg) (v : Word) : (x.setS r v).q = x.q := by
  unfold Strand.setS; split <;> rfl
@[simp] theorem Strand.setS_h (x : Strand) (r : SReg) (v : Word) : (x.setS r v).h = x.h := by
  unfold Strand.setS; split <;> rfl
@[simp] theorem Strand.setS_sys (x : Strand) (r : SReg) (v : Word) : (x.setS r v).sys = x.sys := by
  unfold Strand.setS; split <;> rfl
@[simp] theorem Strand.setS_asid (x : Strand) (r : SReg) (v : Word) : (x.setS r v).asid = x.asid := by
  unfold Strand.setS; split <;> rfl
@[simp] theorem Strand.setS_eventFlag (x : Strand) (r : SReg) (v : Word) : (x.setS r v).eventFlag = x.eventFlag := by
  unfold Strand.setS; split <;> rfl
@[simp] theorem Strand.setS_monitors (x : Strand) (r : SReg) (v : Word) : (x.setS r v).monitors = x.monitors := by
  unfold Strand.setS; split <;> rfl
@[simp] theorem Strand.setS_watchHit (x : Strand) (r : SReg) (v : Word) : (x.setS r v).watchHit = x.watchHit := by
  unfold Strand.setS; split <;> rfl
@[simp] theorem Strand.setS_lent (x : Strand) (r : SReg) (v : Word) : (x.setS r v).lent = x.lent := by
  unfold Strand.setS; split <;> rfl
@[simp] theorem Strand.setS_loop (x : Strand) (r : SReg) (v : Word) : (x.setS r v).loop = x.loop := by
  unfold Strand.setS; split <;> rfl
@[simp] theorem Strand.setS_sched (x : Strand) (r : SReg) (v : Word) : (x.setS r v).sched = x.sched := by
  unfold Strand.setS; split <;> rfl
@[simp] theorem Strand.setS_heldRegion (x : Strand) (r : SReg) (v : Word) : (x.setS r v).heldRegion = x.heldRegion := by
  unfold Strand.setS; split <;> rfl
@[simp] theorem Strand.setS_tileState (x : Strand) (r : SReg) (v : Word) : (x.setS r v).tileState = x.tileState := by
  unfold Strand.setS; split <;> rfl
@[simp] theorem Strand.setS_weights (x : Strand) (r : SReg) (v : Word) : (x.setS r v).weights = x.weights := by
  unfold Strand.setS; split <;> rfl
@[simp] theorem Strand.setS_codebooks (x : Strand) (r : SReg) (v : Word) : (x.setS r v).codebooks = x.codebooks := by
  unfold Strand.setS; split <;> rfl
@[simp] theorem Strand.setS_pWritten (x : Strand) (r : SReg) (v : Word) : (x.setS r v).pWritten = x.pWritten := by
  unfold Strand.setS; split <;> rfl
@[simp] theorem Strand.setS_tileWritten (x : Strand) (r : SReg) (v : Word) : (x.setS r v).tileWritten = x.tileWritten := by
  unfold Strand.setS; split <;> rfl
@[simp] theorem Strand.setS_cbWritten (x : Strand) (r : SReg) (v : Word) : (x.setS r v).cbWritten = x.cbWritten := by
  unfold Strand.setS; split <;> rfl
@[simp] theorem Strand.setS_predRecord (x : Strand) (r : SReg) (v : Word) : (x.setS r v).predRecord = x.predRecord := by
  unfold Strand.setS; split <;> rfl
@[simp] theorem Strand.setS_tdir (x : Strand) (r : SReg) (v : Word) : (x.setS r v).tdir = x.tdir := by
  unfold Strand.setS; split <;> rfl
@[simp] theorem Strand.setS_cbh (x : Strand) (r : SReg) (v : Word) : (x.setS r v).cbh = x.cbh := by
  unfold Strand.setS; split <;> rfl
@[simp] theorem Strand.setS_wait (x : Strand) (r : SReg) (v : Word) : (x.setS r v).wait = x.wait := by
  unfold Strand.setS; split <;> rfl
@[simp] theorem Strand.setS_fork (x : Strand) (r : SReg) (v : Word) : (x.setS r v).fork = x.fork := by
  unfold Strand.setS; split <;> rfl
@[simp] theorem Strand.setS_notice (x : Strand) (r : SReg) (v : Word) : (x.setS r v).notice = x.notice := by
  unfold Strand.setS; split <;> rfl
@[simp] theorem Strand.setS_copyEvents (x : Strand) (r : SReg) (v : Word) : (x.setS r v).copyEvents = x.copyEvents := by
  unfold Strand.setS; split <;> rfl
@[simp] theorem Strand.setS_resumedReshaped (x : Strand) (r : SReg) (v : Word) : (x.setS r v).resumedReshaped = x.resumedReshaped := by
  unfold Strand.setS; split <;> rfl
@[simp] theorem Strand.setS_progress (x : Strand) (r : SReg) (v : Word) : (x.setS r v).progress = x.progress := by
  unfold Strand.setS; split <;> rfl
@[simp] theorem Strand.setS_age (x : Strand) (r : SReg) (v : Word) : (x.setS r v).age = x.age := by
  unfold Strand.setS; split <;> rfl
@[simp] theorem Strand.setS_leaseZero (x : Strand) (r : SReg) (v : Word) : (x.setS r v).leaseZero = x.leaseZero := by
  unfold Strand.setS; split <;> rfl
@[simp] theorem Strand.setS_strip (x : Strand) (r : SReg) (v : Word) : (x.setS r v).strip = x.strip := by
  unfold Strand.setS; split <;> rfl
@[simp] theorem Strand.setS_lastBoundary (x : Strand) (r : SReg) (v : Word) : (x.setS r v).lastBoundary = x.lastBoundary := by
  unfold Strand.setS; split <;> rfl
@[simp] theorem Strand.setS_aboveTargetSince (x : Strand) (r : SReg) (v : Word) : (x.setS r v).aboveTargetSince = x.aboveTargetSince := by
  unfold Strand.setS; split <;> rfl
@[simp] theorem Strand.setS_switchAsked (x : Strand) (r : SReg) (v : Word) : (x.setS r v).switchAsked = x.switchAsked := by
  unfold Strand.setS; split <;> rfl
@[simp] theorem Strand.setS_task (x : Strand) (r : SReg) (v : Word) : (x.setS r v).task = x.task := by
  unfold Strand.setS; split <;> rfl
@[simp] theorem Strand.setS_ticked (x : Strand) (r : SReg) (v : Word) : (x.setS r v).ticked = x.ticked := by
  unfold Strand.setS; split <;> rfl

@[simp] theorem Strand.setP_phase (x : Strand) (r : PReg) (v : PosBits) : (x.setP r v).phase = x.phase := by
  unfold Strand.setP; split <;> rfl
@[simp] theorem Strand.setP_pc (x : Strand) (r : PReg) (v : PosBits) : (x.setP r v).pc = x.pc := by
  unfold Strand.setP; split <;> rfl
@[simp] theorem Strand.setP_s (x : Strand) (r : PReg) (v : PosBits) : (x.setP r v).s = x.s := by
  unfold Strand.setP; split <;> rfl
@[simp] theorem Strand.setP_v (x : Strand) (r : PReg) (v : PosBits) : (x.setP r v).v = x.v := by
  unfold Strand.setP; split <;> rfl
@[simp] theorem Strand.setP_tiles (x : Strand) (r : PReg) (v : PosBits) : (x.setP r v).tiles = x.tiles := by
  unfold Strand.setP; split <;> rfl
@[simp] theorem Strand.setP_q (x : Strand) (r : PReg) (v : PosBits) : (x.setP r v).q = x.q := by
  unfold Strand.setP; split <;> rfl
@[simp] theorem Strand.setP_h (x : Strand) (r : PReg) (v : PosBits) : (x.setP r v).h = x.h := by
  unfold Strand.setP; split <;> rfl
@[simp] theorem Strand.setP_sys (x : Strand) (r : PReg) (v : PosBits) : (x.setP r v).sys = x.sys := by
  unfold Strand.setP; split <;> rfl
@[simp] theorem Strand.setP_asid (x : Strand) (r : PReg) (v : PosBits) : (x.setP r v).asid = x.asid := by
  unfold Strand.setP; split <;> rfl
@[simp] theorem Strand.setP_eventFlag (x : Strand) (r : PReg) (v : PosBits) : (x.setP r v).eventFlag = x.eventFlag := by
  unfold Strand.setP; split <;> rfl
@[simp] theorem Strand.setP_monitors (x : Strand) (r : PReg) (v : PosBits) : (x.setP r v).monitors = x.monitors := by
  unfold Strand.setP; split <;> rfl
@[simp] theorem Strand.setP_watchHit (x : Strand) (r : PReg) (v : PosBits) : (x.setP r v).watchHit = x.watchHit := by
  unfold Strand.setP; split <;> rfl
@[simp] theorem Strand.setP_lent (x : Strand) (r : PReg) (v : PosBits) : (x.setP r v).lent = x.lent := by
  unfold Strand.setP; split <;> rfl
@[simp] theorem Strand.setP_loop (x : Strand) (r : PReg) (v : PosBits) : (x.setP r v).loop = x.loop := by
  unfold Strand.setP; split <;> rfl
@[simp] theorem Strand.setP_sched (x : Strand) (r : PReg) (v : PosBits) : (x.setP r v).sched = x.sched := by
  unfold Strand.setP; split <;> rfl
@[simp] theorem Strand.setP_heldRegion (x : Strand) (r : PReg) (v : PosBits) : (x.setP r v).heldRegion = x.heldRegion := by
  unfold Strand.setP; split <;> rfl
@[simp] theorem Strand.setP_tileState (x : Strand) (r : PReg) (v : PosBits) : (x.setP r v).tileState = x.tileState := by
  unfold Strand.setP; split <;> rfl
@[simp] theorem Strand.setP_weights (x : Strand) (r : PReg) (v : PosBits) : (x.setP r v).weights = x.weights := by
  unfold Strand.setP; split <;> rfl
@[simp] theorem Strand.setP_codebooks (x : Strand) (r : PReg) (v : PosBits) : (x.setP r v).codebooks = x.codebooks := by
  unfold Strand.setP; split <;> rfl
@[simp] theorem Strand.setP_tileWritten (x : Strand) (r : PReg) (v : PosBits) : (x.setP r v).tileWritten = x.tileWritten := by
  unfold Strand.setP; split <;> rfl
@[simp] theorem Strand.setP_cbWritten (x : Strand) (r : PReg) (v : PosBits) : (x.setP r v).cbWritten = x.cbWritten := by
  unfold Strand.setP; split <;> rfl
@[simp] theorem Strand.setP_predRecord (x : Strand) (r : PReg) (v : PosBits) : (x.setP r v).predRecord = x.predRecord := by
  unfold Strand.setP; split <;> rfl
@[simp] theorem Strand.setP_tdir (x : Strand) (r : PReg) (v : PosBits) : (x.setP r v).tdir = x.tdir := by
  unfold Strand.setP; split <;> rfl
@[simp] theorem Strand.setP_cbh (x : Strand) (r : PReg) (v : PosBits) : (x.setP r v).cbh = x.cbh := by
  unfold Strand.setP; split <;> rfl
@[simp] theorem Strand.setP_wait (x : Strand) (r : PReg) (v : PosBits) : (x.setP r v).wait = x.wait := by
  unfold Strand.setP; split <;> rfl
@[simp] theorem Strand.setP_fork (x : Strand) (r : PReg) (v : PosBits) : (x.setP r v).fork = x.fork := by
  unfold Strand.setP; split <;> rfl
@[simp] theorem Strand.setP_notice (x : Strand) (r : PReg) (v : PosBits) : (x.setP r v).notice = x.notice := by
  unfold Strand.setP; split <;> rfl
@[simp] theorem Strand.setP_copyEvents (x : Strand) (r : PReg) (v : PosBits) : (x.setP r v).copyEvents = x.copyEvents := by
  unfold Strand.setP; split <;> rfl
@[simp] theorem Strand.setP_resumedReshaped (x : Strand) (r : PReg) (v : PosBits) : (x.setP r v).resumedReshaped = x.resumedReshaped := by
  unfold Strand.setP; split <;> rfl
@[simp] theorem Strand.setP_progress (x : Strand) (r : PReg) (v : PosBits) : (x.setP r v).progress = x.progress := by
  unfold Strand.setP; split <;> rfl
@[simp] theorem Strand.setP_age (x : Strand) (r : PReg) (v : PosBits) : (x.setP r v).age = x.age := by
  unfold Strand.setP; split <;> rfl
@[simp] theorem Strand.setP_leaseZero (x : Strand) (r : PReg) (v : PosBits) : (x.setP r v).leaseZero = x.leaseZero := by
  unfold Strand.setP; split <;> rfl
@[simp] theorem Strand.setP_strip (x : Strand) (r : PReg) (v : PosBits) : (x.setP r v).strip = x.strip := by
  unfold Strand.setP; split <;> rfl
@[simp] theorem Strand.setP_lastBoundary (x : Strand) (r : PReg) (v : PosBits) : (x.setP r v).lastBoundary = x.lastBoundary := by
  unfold Strand.setP; split <;> rfl
@[simp] theorem Strand.setP_aboveTargetSince (x : Strand) (r : PReg) (v : PosBits) : (x.setP r v).aboveTargetSince = x.aboveTargetSince := by
  unfold Strand.setP; split <;> rfl
@[simp] theorem Strand.setP_switchAsked (x : Strand) (r : PReg) (v : PosBits) : (x.setP r v).switchAsked = x.switchAsked := by
  unfold Strand.setP; split <;> rfl
@[simp] theorem Strand.setP_task (x : Strand) (r : PReg) (v : PosBits) : (x.setP r v).task = x.task := by
  unfold Strand.setP; split <;> rfl
@[simp] theorem Strand.setP_ticked (x : Strand) (r : PReg) (v : PosBits) : (x.setP r v).ticked = x.ticked := by
  unfold Strand.setP; split <;> rfl

@[simp] theorem Strand.setV_phase (x : Strand) (r : VIdx) (v : VReg) : (x.setV r v).phase = x.phase := rfl
@[simp] theorem Strand.setV_pc (x : Strand) (r : VIdx) (v : VReg) : (x.setV r v).pc = x.pc := rfl
@[simp] theorem Strand.setV_s (x : Strand) (r : VIdx) (v : VReg) : (x.setV r v).s = x.s := rfl
@[simp] theorem Strand.setV_p (x : Strand) (r : VIdx) (v : VReg) : (x.setV r v).p = x.p := rfl
@[simp] theorem Strand.setV_tiles (x : Strand) (r : VIdx) (v : VReg) : (x.setV r v).tiles = x.tiles := rfl
@[simp] theorem Strand.setV_q (x : Strand) (r : VIdx) (v : VReg) : (x.setV r v).q = x.q := rfl
@[simp] theorem Strand.setV_h (x : Strand) (r : VIdx) (v : VReg) : (x.setV r v).h = x.h := rfl
@[simp] theorem Strand.setV_sys (x : Strand) (r : VIdx) (v : VReg) : (x.setV r v).sys = x.sys := rfl
@[simp] theorem Strand.setV_asid (x : Strand) (r : VIdx) (v : VReg) : (x.setV r v).asid = x.asid := rfl
@[simp] theorem Strand.setV_eventFlag (x : Strand) (r : VIdx) (v : VReg) : (x.setV r v).eventFlag = x.eventFlag := rfl
@[simp] theorem Strand.setV_monitors (x : Strand) (r : VIdx) (v : VReg) : (x.setV r v).monitors = x.monitors := rfl
@[simp] theorem Strand.setV_watchHit (x : Strand) (r : VIdx) (v : VReg) : (x.setV r v).watchHit = x.watchHit := rfl
@[simp] theorem Strand.setV_lent (x : Strand) (r : VIdx) (v : VReg) : (x.setV r v).lent = x.lent := rfl
@[simp] theorem Strand.setV_loop (x : Strand) (r : VIdx) (v : VReg) : (x.setV r v).loop = x.loop := rfl
@[simp] theorem Strand.setV_sched (x : Strand) (r : VIdx) (v : VReg) : (x.setV r v).sched = x.sched := rfl
@[simp] theorem Strand.setV_heldRegion (x : Strand) (r : VIdx) (v : VReg) : (x.setV r v).heldRegion = x.heldRegion := rfl
@[simp] theorem Strand.setV_tileState (x : Strand) (r : VIdx) (v : VReg) : (x.setV r v).tileState = x.tileState := rfl
@[simp] theorem Strand.setV_weights (x : Strand) (r : VIdx) (v : VReg) : (x.setV r v).weights = x.weights := rfl
@[simp] theorem Strand.setV_codebooks (x : Strand) (r : VIdx) (v : VReg) : (x.setV r v).codebooks = x.codebooks := rfl
@[simp] theorem Strand.setV_pWritten (x : Strand) (r : VIdx) (v : VReg) : (x.setV r v).pWritten = x.pWritten := rfl
@[simp] theorem Strand.setV_tileWritten (x : Strand) (r : VIdx) (v : VReg) : (x.setV r v).tileWritten = x.tileWritten := rfl
@[simp] theorem Strand.setV_cbWritten (x : Strand) (r : VIdx) (v : VReg) : (x.setV r v).cbWritten = x.cbWritten := rfl
@[simp] theorem Strand.setV_predRecord (x : Strand) (r : VIdx) (v : VReg) : (x.setV r v).predRecord = x.predRecord := rfl
@[simp] theorem Strand.setV_tdir (x : Strand) (r : VIdx) (v : VReg) : (x.setV r v).tdir = x.tdir := rfl
@[simp] theorem Strand.setV_cbh (x : Strand) (r : VIdx) (v : VReg) : (x.setV r v).cbh = x.cbh := rfl
@[simp] theorem Strand.setV_wait (x : Strand) (r : VIdx) (v : VReg) : (x.setV r v).wait = x.wait := rfl
@[simp] theorem Strand.setV_fork (x : Strand) (r : VIdx) (v : VReg) : (x.setV r v).fork = x.fork := rfl
@[simp] theorem Strand.setV_notice (x : Strand) (r : VIdx) (v : VReg) : (x.setV r v).notice = x.notice := rfl
@[simp] theorem Strand.setV_copyEvents (x : Strand) (r : VIdx) (v : VReg) : (x.setV r v).copyEvents = x.copyEvents := rfl
@[simp] theorem Strand.setV_resumedReshaped (x : Strand) (r : VIdx) (v : VReg) : (x.setV r v).resumedReshaped = x.resumedReshaped := rfl
@[simp] theorem Strand.setV_progress (x : Strand) (r : VIdx) (v : VReg) : (x.setV r v).progress = x.progress := rfl
@[simp] theorem Strand.setV_age (x : Strand) (r : VIdx) (v : VReg) : (x.setV r v).age = x.age := rfl
@[simp] theorem Strand.setV_leaseZero (x : Strand) (r : VIdx) (v : VReg) : (x.setV r v).leaseZero = x.leaseZero := rfl
@[simp] theorem Strand.setV_strip (x : Strand) (r : VIdx) (v : VReg) : (x.setV r v).strip = x.strip := rfl
@[simp] theorem Strand.setV_lastBoundary (x : Strand) (r : VIdx) (v : VReg) : (x.setV r v).lastBoundary = x.lastBoundary := rfl
@[simp] theorem Strand.setV_aboveTargetSince (x : Strand) (r : VIdx) (v : VReg) : (x.setV r v).aboveTargetSince = x.aboveTargetSince := rfl
@[simp] theorem Strand.setV_switchAsked (x : Strand) (r : VIdx) (v : VReg) : (x.setV r v).switchAsked = x.switchAsked := rfl
@[simp] theorem Strand.setV_task (x : Strand) (r : VIdx) (v : VReg) : (x.setV r v).task = x.task := rfl
@[simp] theorem Strand.setV_ticked (x : Strand) (r : VIdx) (v : VReg) : (x.setV r v).ticked = x.ticked := rfl

@[simp] theorem Strand.setStatus_phase (x : Strand) (w : Word) : (x.setStatus w).phase = x.phase := rfl
@[simp] theorem Strand.setStatus_pc (x : Strand) (w : Word) : (x.setStatus w).pc = x.pc := rfl
@[simp] theorem Strand.setStatus_s (x : Strand) (w : Word) : (x.setStatus w).s = x.s := rfl
@[simp] theorem Strand.setStatus_v (x : Strand) (w : Word) : (x.setStatus w).v = x.v := rfl
@[simp] theorem Strand.setStatus_p (x : Strand) (w : Word) : (x.setStatus w).p = x.p := rfl
@[simp] theorem Strand.setStatus_tiles (x : Strand) (w : Word) : (x.setStatus w).tiles = x.tiles := rfl
@[simp] theorem Strand.setStatus_q (x : Strand) (w : Word) : (x.setStatus w).q = x.q := rfl
@[simp] theorem Strand.setStatus_h (x : Strand) (w : Word) : (x.setStatus w).h = x.h := rfl
@[simp] theorem Strand.setStatus_asid (x : Strand) (w : Word) : (x.setStatus w).asid = x.asid := rfl
@[simp] theorem Strand.setStatus_eventFlag (x : Strand) (w : Word) : (x.setStatus w).eventFlag = x.eventFlag := rfl
@[simp] theorem Strand.setStatus_monitors (x : Strand) (w : Word) : (x.setStatus w).monitors = x.monitors := rfl
@[simp] theorem Strand.setStatus_watchHit (x : Strand) (w : Word) : (x.setStatus w).watchHit = x.watchHit := rfl
@[simp] theorem Strand.setStatus_lent (x : Strand) (w : Word) : (x.setStatus w).lent = x.lent := rfl
@[simp] theorem Strand.setStatus_loop (x : Strand) (w : Word) : (x.setStatus w).loop = x.loop := rfl
@[simp] theorem Strand.setStatus_sched (x : Strand) (w : Word) : (x.setStatus w).sched = x.sched := rfl
@[simp] theorem Strand.setStatus_heldRegion (x : Strand) (w : Word) : (x.setStatus w).heldRegion = x.heldRegion := rfl
@[simp] theorem Strand.setStatus_tileState (x : Strand) (w : Word) : (x.setStatus w).tileState = x.tileState := rfl
@[simp] theorem Strand.setStatus_weights (x : Strand) (w : Word) : (x.setStatus w).weights = x.weights := rfl
@[simp] theorem Strand.setStatus_codebooks (x : Strand) (w : Word) : (x.setStatus w).codebooks = x.codebooks := rfl
@[simp] theorem Strand.setStatus_pWritten (x : Strand) (w : Word) : (x.setStatus w).pWritten = x.pWritten := rfl
@[simp] theorem Strand.setStatus_tileWritten (x : Strand) (w : Word) : (x.setStatus w).tileWritten = x.tileWritten := rfl
@[simp] theorem Strand.setStatus_cbWritten (x : Strand) (w : Word) : (x.setStatus w).cbWritten = x.cbWritten := rfl
@[simp] theorem Strand.setStatus_predRecord (x : Strand) (w : Word) : (x.setStatus w).predRecord = x.predRecord := rfl
@[simp] theorem Strand.setStatus_tdir (x : Strand) (w : Word) : (x.setStatus w).tdir = x.tdir := rfl
@[simp] theorem Strand.setStatus_cbh (x : Strand) (w : Word) : (x.setStatus w).cbh = x.cbh := rfl
@[simp] theorem Strand.setStatus_wait (x : Strand) (w : Word) : (x.setStatus w).wait = x.wait := rfl
@[simp] theorem Strand.setStatus_fork (x : Strand) (w : Word) : (x.setStatus w).fork = x.fork := rfl
@[simp] theorem Strand.setStatus_notice (x : Strand) (w : Word) : (x.setStatus w).notice = x.notice := rfl
@[simp] theorem Strand.setStatus_copyEvents (x : Strand) (w : Word) : (x.setStatus w).copyEvents = x.copyEvents := rfl
@[simp] theorem Strand.setStatus_resumedReshaped (x : Strand) (w : Word) : (x.setStatus w).resumedReshaped = x.resumedReshaped := rfl
@[simp] theorem Strand.setStatus_progress (x : Strand) (w : Word) : (x.setStatus w).progress = x.progress := rfl
@[simp] theorem Strand.setStatus_age (x : Strand) (w : Word) : (x.setStatus w).age = x.age := rfl
@[simp] theorem Strand.setStatus_leaseZero (x : Strand) (w : Word) : (x.setStatus w).leaseZero = x.leaseZero := rfl
@[simp] theorem Strand.setStatus_strip (x : Strand) (w : Word) : (x.setStatus w).strip = x.strip := rfl
@[simp] theorem Strand.setStatus_lastBoundary (x : Strand) (w : Word) : (x.setStatus w).lastBoundary = x.lastBoundary := rfl
@[simp] theorem Strand.setStatus_aboveTargetSince (x : Strand) (w : Word) : (x.setStatus w).aboveTargetSince = x.aboveTargetSince := rfl
@[simp] theorem Strand.setStatus_switchAsked (x : Strand) (w : Word) : (x.setStatus w).switchAsked = x.switchAsked := rfl
@[simp] theorem Strand.setStatus_task (x : Strand) (w : Word) : (x.setStatus w).task = x.task := rfl
@[simp] theorem Strand.setStatus_ticked (x : Strand) (w : Word) : (x.setStatus w).ticked = x.ticked := rfl
@[simp] theorem Strand.setStatus_sys_status (x : Strand) (w : Word) : (x.setStatus w).sys.status = w := rfl
@[simp] theorem Strand.setStatus_sys_cause (x : Strand) (w : Word) : (x.setStatus w).sys.cause = x.sys.cause := rfl
@[simp] theorem Strand.setStatus_sys_epc (x : Strand) (w : Word) : (x.setStatus w).sys.epc = x.sys.epc := rfl
@[simp] theorem Strand.setStatus_sys_edata (x : Strand) (w : Word) : (x.setStatus w).sys.edata = x.sys.edata := rfl
@[simp] theorem Strand.setStatus_sys_tvec (x : Strand) (w : Word) : (x.setStatus w).sys.tvec = x.sys.tvec := rfl
@[simp] theorem Strand.setStatus_sys_pfx (x : Strand) (w : Word) : (x.setStatus w).sys.pfx = x.sys.pfx := rfl
@[simp] theorem Strand.setStatus_sys_vcfg (x : Strand) (w : Word) : (x.setStatus w).sys.vcfg = x.sys.vcfg := rfl
@[simp] theorem Strand.setStatus_sys_vstart (x : Strand) (w : Word) : (x.setStatus w).sys.vstart = x.sys.vstart := rfl
@[simp] theorem Strand.setStatus_sys_lease (x : Strand) (w : Word) : (x.setStatus w).sys.lease = x.sys.lease := rfl
@[simp] theorem Strand.setStatus_sys_seed (x : Strand) (w : Word) : (x.setStatus w).sys.seed = x.sys.seed := rfl
@[simp] theorem Strand.setStatus_sys_stripbase (x : Strand) (w : Word) : (x.setStatus w).sys.stripbase = x.sys.stripbase := rfl
@[simp] theorem Strand.setStatus_sys_blend (x : Strand) (w : Word) : (x.setStatus w).sys.blend = x.sys.blend := rfl
@[simp] theorem Strand.setStatus_sys_view (x : Strand) (w : Word) : (x.setStatus w).sys.view = x.sys.view := rfl
@[simp] theorem Strand.setStatus_sys_inldepth (x : Strand) (w : Word) : (x.setStatus w).sys.inldepth = x.sys.inldepth := rfl

@[simp] theorem Strand.setVcfg_phase (x : Strand) (w : Word) : (x.setVcfg w).phase = x.phase := rfl
@[simp] theorem Strand.setVcfg_pc (x : Strand) (w : Word) : (x.setVcfg w).pc = x.pc := rfl
@[simp] theorem Strand.setVcfg_s (x : Strand) (w : Word) : (x.setVcfg w).s = x.s := rfl
@[simp] theorem Strand.setVcfg_v (x : Strand) (w : Word) : (x.setVcfg w).v = x.v := rfl
@[simp] theorem Strand.setVcfg_p (x : Strand) (w : Word) : (x.setVcfg w).p = x.p := rfl
@[simp] theorem Strand.setVcfg_tiles (x : Strand) (w : Word) : (x.setVcfg w).tiles = x.tiles := rfl
@[simp] theorem Strand.setVcfg_q (x : Strand) (w : Word) : (x.setVcfg w).q = x.q := rfl
@[simp] theorem Strand.setVcfg_h (x : Strand) (w : Word) : (x.setVcfg w).h = x.h := rfl
@[simp] theorem Strand.setVcfg_asid (x : Strand) (w : Word) : (x.setVcfg w).asid = x.asid := rfl
@[simp] theorem Strand.setVcfg_eventFlag (x : Strand) (w : Word) : (x.setVcfg w).eventFlag = x.eventFlag := rfl
@[simp] theorem Strand.setVcfg_monitors (x : Strand) (w : Word) : (x.setVcfg w).monitors = x.monitors := rfl
@[simp] theorem Strand.setVcfg_watchHit (x : Strand) (w : Word) : (x.setVcfg w).watchHit = x.watchHit := rfl
@[simp] theorem Strand.setVcfg_lent (x : Strand) (w : Word) : (x.setVcfg w).lent = x.lent := rfl
@[simp] theorem Strand.setVcfg_loop (x : Strand) (w : Word) : (x.setVcfg w).loop = x.loop := rfl
@[simp] theorem Strand.setVcfg_sched (x : Strand) (w : Word) : (x.setVcfg w).sched = x.sched := rfl
@[simp] theorem Strand.setVcfg_heldRegion (x : Strand) (w : Word) : (x.setVcfg w).heldRegion = x.heldRegion := rfl
@[simp] theorem Strand.setVcfg_tileState (x : Strand) (w : Word) : (x.setVcfg w).tileState = x.tileState := rfl
@[simp] theorem Strand.setVcfg_weights (x : Strand) (w : Word) : (x.setVcfg w).weights = x.weights := rfl
@[simp] theorem Strand.setVcfg_codebooks (x : Strand) (w : Word) : (x.setVcfg w).codebooks = x.codebooks := rfl
@[simp] theorem Strand.setVcfg_pWritten (x : Strand) (w : Word) : (x.setVcfg w).pWritten = x.pWritten := rfl
@[simp] theorem Strand.setVcfg_tileWritten (x : Strand) (w : Word) : (x.setVcfg w).tileWritten = x.tileWritten := rfl
@[simp] theorem Strand.setVcfg_cbWritten (x : Strand) (w : Word) : (x.setVcfg w).cbWritten = x.cbWritten := rfl
@[simp] theorem Strand.setVcfg_predRecord (x : Strand) (w : Word) : (x.setVcfg w).predRecord = x.predRecord := rfl
@[simp] theorem Strand.setVcfg_tdir (x : Strand) (w : Word) : (x.setVcfg w).tdir = x.tdir := rfl
@[simp] theorem Strand.setVcfg_cbh (x : Strand) (w : Word) : (x.setVcfg w).cbh = x.cbh := rfl
@[simp] theorem Strand.setVcfg_wait (x : Strand) (w : Word) : (x.setVcfg w).wait = x.wait := rfl
@[simp] theorem Strand.setVcfg_fork (x : Strand) (w : Word) : (x.setVcfg w).fork = x.fork := rfl
@[simp] theorem Strand.setVcfg_notice (x : Strand) (w : Word) : (x.setVcfg w).notice = x.notice := rfl
@[simp] theorem Strand.setVcfg_copyEvents (x : Strand) (w : Word) : (x.setVcfg w).copyEvents = x.copyEvents := rfl
@[simp] theorem Strand.setVcfg_resumedReshaped (x : Strand) (w : Word) : (x.setVcfg w).resumedReshaped = x.resumedReshaped := rfl
@[simp] theorem Strand.setVcfg_progress (x : Strand) (w : Word) : (x.setVcfg w).progress = x.progress := rfl
@[simp] theorem Strand.setVcfg_age (x : Strand) (w : Word) : (x.setVcfg w).age = x.age := rfl
@[simp] theorem Strand.setVcfg_leaseZero (x : Strand) (w : Word) : (x.setVcfg w).leaseZero = x.leaseZero := rfl
@[simp] theorem Strand.setVcfg_strip (x : Strand) (w : Word) : (x.setVcfg w).strip = x.strip := rfl
@[simp] theorem Strand.setVcfg_lastBoundary (x : Strand) (w : Word) : (x.setVcfg w).lastBoundary = x.lastBoundary := rfl
@[simp] theorem Strand.setVcfg_aboveTargetSince (x : Strand) (w : Word) : (x.setVcfg w).aboveTargetSince = x.aboveTargetSince := rfl
@[simp] theorem Strand.setVcfg_switchAsked (x : Strand) (w : Word) : (x.setVcfg w).switchAsked = x.switchAsked := rfl
@[simp] theorem Strand.setVcfg_task (x : Strand) (w : Word) : (x.setVcfg w).task = x.task := rfl
@[simp] theorem Strand.setVcfg_ticked (x : Strand) (w : Word) : (x.setVcfg w).ticked = x.ticked := rfl
@[simp] theorem Strand.setVcfg_sys_status (x : Strand) (w : Word) : (x.setVcfg w).sys.status = x.sys.status := rfl
@[simp] theorem Strand.setVcfg_sys_cause (x : Strand) (w : Word) : (x.setVcfg w).sys.cause = x.sys.cause := rfl
@[simp] theorem Strand.setVcfg_sys_epc (x : Strand) (w : Word) : (x.setVcfg w).sys.epc = x.sys.epc := rfl
@[simp] theorem Strand.setVcfg_sys_edata (x : Strand) (w : Word) : (x.setVcfg w).sys.edata = x.sys.edata := rfl
@[simp] theorem Strand.setVcfg_sys_tvec (x : Strand) (w : Word) : (x.setVcfg w).sys.tvec = x.sys.tvec := rfl
@[simp] theorem Strand.setVcfg_sys_pfx (x : Strand) (w : Word) : (x.setVcfg w).sys.pfx = x.sys.pfx := rfl
@[simp] theorem Strand.setVcfg_sys_vcfg (x : Strand) (w : Word) : (x.setVcfg w).sys.vcfg = w := rfl
@[simp] theorem Strand.setVcfg_sys_vstart (x : Strand) (w : Word) : (x.setVcfg w).sys.vstart = x.sys.vstart := rfl
@[simp] theorem Strand.setVcfg_sys_lease (x : Strand) (w : Word) : (x.setVcfg w).sys.lease = x.sys.lease := rfl
@[simp] theorem Strand.setVcfg_sys_seed (x : Strand) (w : Word) : (x.setVcfg w).sys.seed = x.sys.seed := rfl
@[simp] theorem Strand.setVcfg_sys_stripbase (x : Strand) (w : Word) : (x.setVcfg w).sys.stripbase = x.sys.stripbase := rfl
@[simp] theorem Strand.setVcfg_sys_blend (x : Strand) (w : Word) : (x.setVcfg w).sys.blend = x.sys.blend := rfl
@[simp] theorem Strand.setVcfg_sys_view (x : Strand) (w : Word) : (x.setVcfg w).sys.view = x.sys.view := rfl
@[simp] theorem Strand.setVcfg_sys_inldepth (x : Strand) (w : Word) : (x.setVcfg w).sys.inldepth = x.sys.inldepth := rfl

@[simp] theorem Strand.setLease_phase (x : Strand) (w : Word) : (x.setLease w).phase = x.phase := rfl
@[simp] theorem Strand.setLease_pc (x : Strand) (w : Word) : (x.setLease w).pc = x.pc := rfl
@[simp] theorem Strand.setLease_s (x : Strand) (w : Word) : (x.setLease w).s = x.s := rfl
@[simp] theorem Strand.setLease_v (x : Strand) (w : Word) : (x.setLease w).v = x.v := rfl
@[simp] theorem Strand.setLease_p (x : Strand) (w : Word) : (x.setLease w).p = x.p := rfl
@[simp] theorem Strand.setLease_tiles (x : Strand) (w : Word) : (x.setLease w).tiles = x.tiles := rfl
@[simp] theorem Strand.setLease_q (x : Strand) (w : Word) : (x.setLease w).q = x.q := rfl
@[simp] theorem Strand.setLease_h (x : Strand) (w : Word) : (x.setLease w).h = x.h := rfl
@[simp] theorem Strand.setLease_asid (x : Strand) (w : Word) : (x.setLease w).asid = x.asid := rfl
@[simp] theorem Strand.setLease_eventFlag (x : Strand) (w : Word) : (x.setLease w).eventFlag = x.eventFlag := rfl
@[simp] theorem Strand.setLease_monitors (x : Strand) (w : Word) : (x.setLease w).monitors = x.monitors := rfl
@[simp] theorem Strand.setLease_watchHit (x : Strand) (w : Word) : (x.setLease w).watchHit = x.watchHit := rfl
@[simp] theorem Strand.setLease_lent (x : Strand) (w : Word) : (x.setLease w).lent = x.lent := rfl
@[simp] theorem Strand.setLease_loop (x : Strand) (w : Word) : (x.setLease w).loop = x.loop := rfl
@[simp] theorem Strand.setLease_sched (x : Strand) (w : Word) : (x.setLease w).sched = x.sched := rfl
@[simp] theorem Strand.setLease_heldRegion (x : Strand) (w : Word) : (x.setLease w).heldRegion = x.heldRegion := rfl
@[simp] theorem Strand.setLease_tileState (x : Strand) (w : Word) : (x.setLease w).tileState = x.tileState := rfl
@[simp] theorem Strand.setLease_weights (x : Strand) (w : Word) : (x.setLease w).weights = x.weights := rfl
@[simp] theorem Strand.setLease_codebooks (x : Strand) (w : Word) : (x.setLease w).codebooks = x.codebooks := rfl
@[simp] theorem Strand.setLease_pWritten (x : Strand) (w : Word) : (x.setLease w).pWritten = x.pWritten := rfl
@[simp] theorem Strand.setLease_tileWritten (x : Strand) (w : Word) : (x.setLease w).tileWritten = x.tileWritten := rfl
@[simp] theorem Strand.setLease_cbWritten (x : Strand) (w : Word) : (x.setLease w).cbWritten = x.cbWritten := rfl
@[simp] theorem Strand.setLease_predRecord (x : Strand) (w : Word) : (x.setLease w).predRecord = x.predRecord := rfl
@[simp] theorem Strand.setLease_tdir (x : Strand) (w : Word) : (x.setLease w).tdir = x.tdir := rfl
@[simp] theorem Strand.setLease_cbh (x : Strand) (w : Word) : (x.setLease w).cbh = x.cbh := rfl
@[simp] theorem Strand.setLease_wait (x : Strand) (w : Word) : (x.setLease w).wait = x.wait := rfl
@[simp] theorem Strand.setLease_fork (x : Strand) (w : Word) : (x.setLease w).fork = x.fork := rfl
@[simp] theorem Strand.setLease_notice (x : Strand) (w : Word) : (x.setLease w).notice = x.notice := rfl
@[simp] theorem Strand.setLease_copyEvents (x : Strand) (w : Word) : (x.setLease w).copyEvents = x.copyEvents := rfl
@[simp] theorem Strand.setLease_resumedReshaped (x : Strand) (w : Word) : (x.setLease w).resumedReshaped = x.resumedReshaped := rfl
@[simp] theorem Strand.setLease_progress (x : Strand) (w : Word) : (x.setLease w).progress = x.progress := rfl
@[simp] theorem Strand.setLease_age (x : Strand) (w : Word) : (x.setLease w).age = x.age := rfl
@[simp] theorem Strand.setLease_leaseZero (x : Strand) (w : Word) : (x.setLease w).leaseZero = x.leaseZero := rfl
@[simp] theorem Strand.setLease_strip (x : Strand) (w : Word) : (x.setLease w).strip = x.strip := rfl
@[simp] theorem Strand.setLease_lastBoundary (x : Strand) (w : Word) : (x.setLease w).lastBoundary = x.lastBoundary := rfl
@[simp] theorem Strand.setLease_aboveTargetSince (x : Strand) (w : Word) : (x.setLease w).aboveTargetSince = x.aboveTargetSince := rfl
@[simp] theorem Strand.setLease_switchAsked (x : Strand) (w : Word) : (x.setLease w).switchAsked = x.switchAsked := rfl
@[simp] theorem Strand.setLease_task (x : Strand) (w : Word) : (x.setLease w).task = x.task := rfl
@[simp] theorem Strand.setLease_ticked (x : Strand) (w : Word) : (x.setLease w).ticked = x.ticked := rfl
@[simp] theorem Strand.setLease_sys_status (x : Strand) (w : Word) : (x.setLease w).sys.status = x.sys.status := rfl
@[simp] theorem Strand.setLease_sys_cause (x : Strand) (w : Word) : (x.setLease w).sys.cause = x.sys.cause := rfl
@[simp] theorem Strand.setLease_sys_epc (x : Strand) (w : Word) : (x.setLease w).sys.epc = x.sys.epc := rfl
@[simp] theorem Strand.setLease_sys_edata (x : Strand) (w : Word) : (x.setLease w).sys.edata = x.sys.edata := rfl
@[simp] theorem Strand.setLease_sys_tvec (x : Strand) (w : Word) : (x.setLease w).sys.tvec = x.sys.tvec := rfl
@[simp] theorem Strand.setLease_sys_pfx (x : Strand) (w : Word) : (x.setLease w).sys.pfx = x.sys.pfx := rfl
@[simp] theorem Strand.setLease_sys_vcfg (x : Strand) (w : Word) : (x.setLease w).sys.vcfg = x.sys.vcfg := rfl
@[simp] theorem Strand.setLease_sys_vstart (x : Strand) (w : Word) : (x.setLease w).sys.vstart = x.sys.vstart := rfl
@[simp] theorem Strand.setLease_sys_lease (x : Strand) (w : Word) : (x.setLease w).sys.lease = w := rfl
@[simp] theorem Strand.setLease_sys_seed (x : Strand) (w : Word) : (x.setLease w).sys.seed = x.sys.seed := rfl
@[simp] theorem Strand.setLease_sys_stripbase (x : Strand) (w : Word) : (x.setLease w).sys.stripbase = x.sys.stripbase := rfl
@[simp] theorem Strand.setLease_sys_blend (x : Strand) (w : Word) : (x.setLease w).sys.blend = x.sys.blend := rfl
@[simp] theorem Strand.setLease_sys_view (x : Strand) (w : Word) : (x.setLease w).sys.view = x.sys.view := rfl
@[simp] theorem Strand.setLease_sys_inldepth (x : Strand) (w : Word) : (x.setLease w).sys.inldepth = x.sys.inldepth := rfl

@[simp] theorem Strand.setView_phase (x : Strand) (w : Word) : (x.setView w).phase = x.phase := rfl
@[simp] theorem Strand.setView_pc (x : Strand) (w : Word) : (x.setView w).pc = x.pc := rfl
@[simp] theorem Strand.setView_s (x : Strand) (w : Word) : (x.setView w).s = x.s := rfl
@[simp] theorem Strand.setView_v (x : Strand) (w : Word) : (x.setView w).v = x.v := rfl
@[simp] theorem Strand.setView_p (x : Strand) (w : Word) : (x.setView w).p = x.p := rfl
@[simp] theorem Strand.setView_tiles (x : Strand) (w : Word) : (x.setView w).tiles = x.tiles := rfl
@[simp] theorem Strand.setView_q (x : Strand) (w : Word) : (x.setView w).q = x.q := rfl
@[simp] theorem Strand.setView_h (x : Strand) (w : Word) : (x.setView w).h = x.h := rfl
@[simp] theorem Strand.setView_asid (x : Strand) (w : Word) : (x.setView w).asid = x.asid := rfl
@[simp] theorem Strand.setView_eventFlag (x : Strand) (w : Word) : (x.setView w).eventFlag = x.eventFlag := rfl
@[simp] theorem Strand.setView_monitors (x : Strand) (w : Word) : (x.setView w).monitors = x.monitors := rfl
@[simp] theorem Strand.setView_watchHit (x : Strand) (w : Word) : (x.setView w).watchHit = x.watchHit := rfl
@[simp] theorem Strand.setView_lent (x : Strand) (w : Word) : (x.setView w).lent = x.lent := rfl
@[simp] theorem Strand.setView_loop (x : Strand) (w : Word) : (x.setView w).loop = x.loop := rfl
@[simp] theorem Strand.setView_sched (x : Strand) (w : Word) : (x.setView w).sched = x.sched := rfl
@[simp] theorem Strand.setView_heldRegion (x : Strand) (w : Word) : (x.setView w).heldRegion = x.heldRegion := rfl
@[simp] theorem Strand.setView_tileState (x : Strand) (w : Word) : (x.setView w).tileState = x.tileState := rfl
@[simp] theorem Strand.setView_weights (x : Strand) (w : Word) : (x.setView w).weights = x.weights := rfl
@[simp] theorem Strand.setView_codebooks (x : Strand) (w : Word) : (x.setView w).codebooks = x.codebooks := rfl
@[simp] theorem Strand.setView_pWritten (x : Strand) (w : Word) : (x.setView w).pWritten = x.pWritten := rfl
@[simp] theorem Strand.setView_tileWritten (x : Strand) (w : Word) : (x.setView w).tileWritten = x.tileWritten := rfl
@[simp] theorem Strand.setView_cbWritten (x : Strand) (w : Word) : (x.setView w).cbWritten = x.cbWritten := rfl
@[simp] theorem Strand.setView_predRecord (x : Strand) (w : Word) : (x.setView w).predRecord = x.predRecord := rfl
@[simp] theorem Strand.setView_tdir (x : Strand) (w : Word) : (x.setView w).tdir = x.tdir := rfl
@[simp] theorem Strand.setView_cbh (x : Strand) (w : Word) : (x.setView w).cbh = x.cbh := rfl
@[simp] theorem Strand.setView_wait (x : Strand) (w : Word) : (x.setView w).wait = x.wait := rfl
@[simp] theorem Strand.setView_fork (x : Strand) (w : Word) : (x.setView w).fork = x.fork := rfl
@[simp] theorem Strand.setView_notice (x : Strand) (w : Word) : (x.setView w).notice = x.notice := rfl
@[simp] theorem Strand.setView_copyEvents (x : Strand) (w : Word) : (x.setView w).copyEvents = x.copyEvents := rfl
@[simp] theorem Strand.setView_resumedReshaped (x : Strand) (w : Word) : (x.setView w).resumedReshaped = x.resumedReshaped := rfl
@[simp] theorem Strand.setView_progress (x : Strand) (w : Word) : (x.setView w).progress = x.progress := rfl
@[simp] theorem Strand.setView_age (x : Strand) (w : Word) : (x.setView w).age = x.age := rfl
@[simp] theorem Strand.setView_leaseZero (x : Strand) (w : Word) : (x.setView w).leaseZero = x.leaseZero := rfl
@[simp] theorem Strand.setView_strip (x : Strand) (w : Word) : (x.setView w).strip = x.strip := rfl
@[simp] theorem Strand.setView_lastBoundary (x : Strand) (w : Word) : (x.setView w).lastBoundary = x.lastBoundary := rfl
@[simp] theorem Strand.setView_aboveTargetSince (x : Strand) (w : Word) : (x.setView w).aboveTargetSince = x.aboveTargetSince := rfl
@[simp] theorem Strand.setView_switchAsked (x : Strand) (w : Word) : (x.setView w).switchAsked = x.switchAsked := rfl
@[simp] theorem Strand.setView_task (x : Strand) (w : Word) : (x.setView w).task = x.task := rfl
@[simp] theorem Strand.setView_ticked (x : Strand) (w : Word) : (x.setView w).ticked = x.ticked := rfl
@[simp] theorem Strand.setView_sys_status (x : Strand) (w : Word) : (x.setView w).sys.status = x.sys.status := rfl
@[simp] theorem Strand.setView_sys_cause (x : Strand) (w : Word) : (x.setView w).sys.cause = x.sys.cause := rfl
@[simp] theorem Strand.setView_sys_epc (x : Strand) (w : Word) : (x.setView w).sys.epc = x.sys.epc := rfl
@[simp] theorem Strand.setView_sys_edata (x : Strand) (w : Word) : (x.setView w).sys.edata = x.sys.edata := rfl
@[simp] theorem Strand.setView_sys_tvec (x : Strand) (w : Word) : (x.setView w).sys.tvec = x.sys.tvec := rfl
@[simp] theorem Strand.setView_sys_pfx (x : Strand) (w : Word) : (x.setView w).sys.pfx = x.sys.pfx := rfl
@[simp] theorem Strand.setView_sys_vcfg (x : Strand) (w : Word) : (x.setView w).sys.vcfg = x.sys.vcfg := rfl
@[simp] theorem Strand.setView_sys_vstart (x : Strand) (w : Word) : (x.setView w).sys.vstart = x.sys.vstart := rfl
@[simp] theorem Strand.setView_sys_lease (x : Strand) (w : Word) : (x.setView w).sys.lease = x.sys.lease := rfl
@[simp] theorem Strand.setView_sys_seed (x : Strand) (w : Word) : (x.setView w).sys.seed = x.sys.seed := rfl
@[simp] theorem Strand.setView_sys_stripbase (x : Strand) (w : Word) : (x.setView w).sys.stripbase = x.sys.stripbase := rfl
@[simp] theorem Strand.setView_sys_blend (x : Strand) (w : Word) : (x.setView w).sys.blend = x.sys.blend := rfl
@[simp] theorem Strand.setView_sys_view (x : Strand) (w : Word) : (x.setView w).sys.view = w := rfl
@[simp] theorem Strand.setView_sys_inldepth (x : Strand) (w : Word) : (x.setView w).sys.inldepth = x.sys.inldepth := rfl

@[simp] theorem Strand.setVstart_phase (x : Strand) (n : Nat) : (x.setVstart n).phase = x.phase := rfl
@[simp] theorem Strand.setVstart_pc (x : Strand) (n : Nat) : (x.setVstart n).pc = x.pc := rfl
@[simp] theorem Strand.setVstart_s (x : Strand) (n : Nat) : (x.setVstart n).s = x.s := rfl
@[simp] theorem Strand.setVstart_v (x : Strand) (n : Nat) : (x.setVstart n).v = x.v := rfl
@[simp] theorem Strand.setVstart_p (x : Strand) (n : Nat) : (x.setVstart n).p = x.p := rfl
@[simp] theorem Strand.setVstart_tiles (x : Strand) (n : Nat) : (x.setVstart n).tiles = x.tiles := rfl
@[simp] theorem Strand.setVstart_q (x : Strand) (n : Nat) : (x.setVstart n).q = x.q := rfl
@[simp] theorem Strand.setVstart_h (x : Strand) (n : Nat) : (x.setVstart n).h = x.h := rfl
@[simp] theorem Strand.setVstart_asid (x : Strand) (n : Nat) : (x.setVstart n).asid = x.asid := rfl
@[simp] theorem Strand.setVstart_eventFlag (x : Strand) (n : Nat) : (x.setVstart n).eventFlag = x.eventFlag := rfl
@[simp] theorem Strand.setVstart_monitors (x : Strand) (n : Nat) : (x.setVstart n).monitors = x.monitors := rfl
@[simp] theorem Strand.setVstart_watchHit (x : Strand) (n : Nat) : (x.setVstart n).watchHit = x.watchHit := rfl
@[simp] theorem Strand.setVstart_lent (x : Strand) (n : Nat) : (x.setVstart n).lent = x.lent := rfl
@[simp] theorem Strand.setVstart_loop (x : Strand) (n : Nat) : (x.setVstart n).loop = x.loop := rfl
@[simp] theorem Strand.setVstart_sched (x : Strand) (n : Nat) : (x.setVstart n).sched = x.sched := rfl
@[simp] theorem Strand.setVstart_heldRegion (x : Strand) (n : Nat) : (x.setVstart n).heldRegion = x.heldRegion := rfl
@[simp] theorem Strand.setVstart_tileState (x : Strand) (n : Nat) : (x.setVstart n).tileState = x.tileState := rfl
@[simp] theorem Strand.setVstart_weights (x : Strand) (n : Nat) : (x.setVstart n).weights = x.weights := rfl
@[simp] theorem Strand.setVstart_codebooks (x : Strand) (n : Nat) : (x.setVstart n).codebooks = x.codebooks := rfl
@[simp] theorem Strand.setVstart_pWritten (x : Strand) (n : Nat) : (x.setVstart n).pWritten = x.pWritten := rfl
@[simp] theorem Strand.setVstart_tileWritten (x : Strand) (n : Nat) : (x.setVstart n).tileWritten = x.tileWritten := rfl
@[simp] theorem Strand.setVstart_cbWritten (x : Strand) (n : Nat) : (x.setVstart n).cbWritten = x.cbWritten := rfl
@[simp] theorem Strand.setVstart_predRecord (x : Strand) (n : Nat) : (x.setVstart n).predRecord = x.predRecord := rfl
@[simp] theorem Strand.setVstart_tdir (x : Strand) (n : Nat) : (x.setVstart n).tdir = x.tdir := rfl
@[simp] theorem Strand.setVstart_cbh (x : Strand) (n : Nat) : (x.setVstart n).cbh = x.cbh := rfl
@[simp] theorem Strand.setVstart_wait (x : Strand) (n : Nat) : (x.setVstart n).wait = x.wait := rfl
@[simp] theorem Strand.setVstart_fork (x : Strand) (n : Nat) : (x.setVstart n).fork = x.fork := rfl
@[simp] theorem Strand.setVstart_notice (x : Strand) (n : Nat) : (x.setVstart n).notice = x.notice := rfl
@[simp] theorem Strand.setVstart_copyEvents (x : Strand) (n : Nat) : (x.setVstart n).copyEvents = x.copyEvents := rfl
@[simp] theorem Strand.setVstart_resumedReshaped (x : Strand) (n : Nat) : (x.setVstart n).resumedReshaped = x.resumedReshaped := rfl
@[simp] theorem Strand.setVstart_progress (x : Strand) (n : Nat) : (x.setVstart n).progress = x.progress := rfl
@[simp] theorem Strand.setVstart_age (x : Strand) (n : Nat) : (x.setVstart n).age = x.age := rfl
@[simp] theorem Strand.setVstart_leaseZero (x : Strand) (n : Nat) : (x.setVstart n).leaseZero = x.leaseZero := rfl
@[simp] theorem Strand.setVstart_strip (x : Strand) (n : Nat) : (x.setVstart n).strip = x.strip := rfl
@[simp] theorem Strand.setVstart_lastBoundary (x : Strand) (n : Nat) : (x.setVstart n).lastBoundary = x.lastBoundary := rfl
@[simp] theorem Strand.setVstart_aboveTargetSince (x : Strand) (n : Nat) : (x.setVstart n).aboveTargetSince = x.aboveTargetSince := rfl
@[simp] theorem Strand.setVstart_switchAsked (x : Strand) (n : Nat) : (x.setVstart n).switchAsked = x.switchAsked := rfl
@[simp] theorem Strand.setVstart_task (x : Strand) (n : Nat) : (x.setVstart n).task = x.task := rfl
@[simp] theorem Strand.setVstart_ticked (x : Strand) (n : Nat) : (x.setVstart n).ticked = x.ticked := rfl
@[simp] theorem Strand.setVstart_sys_status (x : Strand) (n : Nat) : (x.setVstart n).sys.status = x.sys.status := rfl
@[simp] theorem Strand.setVstart_sys_cause (x : Strand) (n : Nat) : (x.setVstart n).sys.cause = x.sys.cause := rfl
@[simp] theorem Strand.setVstart_sys_epc (x : Strand) (n : Nat) : (x.setVstart n).sys.epc = x.sys.epc := rfl
@[simp] theorem Strand.setVstart_sys_edata (x : Strand) (n : Nat) : (x.setVstart n).sys.edata = x.sys.edata := rfl
@[simp] theorem Strand.setVstart_sys_tvec (x : Strand) (n : Nat) : (x.setVstart n).sys.tvec = x.sys.tvec := rfl
@[simp] theorem Strand.setVstart_sys_pfx (x : Strand) (n : Nat) : (x.setVstart n).sys.pfx = x.sys.pfx := rfl
@[simp] theorem Strand.setVstart_sys_vcfg (x : Strand) (n : Nat) : (x.setVstart n).sys.vcfg = x.sys.vcfg := rfl
@[simp] theorem Strand.setVstart_sys_vstart (x : Strand) (n : Nat) : (x.setVstart n).sys.vstart = BitVec.ofNat 64 n := rfl
@[simp] theorem Strand.setVstart_sys_lease (x : Strand) (n : Nat) : (x.setVstart n).sys.lease = x.sys.lease := rfl
@[simp] theorem Strand.setVstart_sys_seed (x : Strand) (n : Nat) : (x.setVstart n).sys.seed = x.sys.seed := rfl
@[simp] theorem Strand.setVstart_sys_stripbase (x : Strand) (n : Nat) : (x.setVstart n).sys.stripbase = x.sys.stripbase := rfl
@[simp] theorem Strand.setVstart_sys_blend (x : Strand) (n : Nat) : (x.setVstart n).sys.blend = x.sys.blend := rfl
@[simp] theorem Strand.setVstart_sys_view (x : Strand) (n : Nat) : (x.setVstart n).sys.view = x.sys.view := rfl
@[simp] theorem Strand.setVstart_sys_inldepth (x : Strand) (n : Nat) : (x.setVstart n).sys.inldepth = x.sys.inldepth := rfl

@[simp] theorem Strand.raise_phase (x : Strand) (fl : Sticky) : (x.raise fl).phase = x.phase := rfl
@[simp] theorem Strand.raise_pc (x : Strand) (fl : Sticky) : (x.raise fl).pc = x.pc := rfl
@[simp] theorem Strand.raise_s (x : Strand) (fl : Sticky) : (x.raise fl).s = x.s := rfl
@[simp] theorem Strand.raise_v (x : Strand) (fl : Sticky) : (x.raise fl).v = x.v := rfl
@[simp] theorem Strand.raise_p (x : Strand) (fl : Sticky) : (x.raise fl).p = x.p := rfl
@[simp] theorem Strand.raise_tiles (x : Strand) (fl : Sticky) : (x.raise fl).tiles = x.tiles := rfl
@[simp] theorem Strand.raise_q (x : Strand) (fl : Sticky) : (x.raise fl).q = x.q := rfl
@[simp] theorem Strand.raise_h (x : Strand) (fl : Sticky) : (x.raise fl).h = x.h := rfl
@[simp] theorem Strand.raise_asid (x : Strand) (fl : Sticky) : (x.raise fl).asid = x.asid := rfl
@[simp] theorem Strand.raise_eventFlag (x : Strand) (fl : Sticky) : (x.raise fl).eventFlag = x.eventFlag := rfl
@[simp] theorem Strand.raise_monitors (x : Strand) (fl : Sticky) : (x.raise fl).monitors = x.monitors := rfl
@[simp] theorem Strand.raise_watchHit (x : Strand) (fl : Sticky) : (x.raise fl).watchHit = x.watchHit := rfl
@[simp] theorem Strand.raise_lent (x : Strand) (fl : Sticky) : (x.raise fl).lent = x.lent := rfl
@[simp] theorem Strand.raise_loop (x : Strand) (fl : Sticky) : (x.raise fl).loop = x.loop := rfl
@[simp] theorem Strand.raise_sched (x : Strand) (fl : Sticky) : (x.raise fl).sched = x.sched := rfl
@[simp] theorem Strand.raise_heldRegion (x : Strand) (fl : Sticky) : (x.raise fl).heldRegion = x.heldRegion := rfl
@[simp] theorem Strand.raise_tileState (x : Strand) (fl : Sticky) : (x.raise fl).tileState = x.tileState := rfl
@[simp] theorem Strand.raise_weights (x : Strand) (fl : Sticky) : (x.raise fl).weights = x.weights := rfl
@[simp] theorem Strand.raise_codebooks (x : Strand) (fl : Sticky) : (x.raise fl).codebooks = x.codebooks := rfl
@[simp] theorem Strand.raise_pWritten (x : Strand) (fl : Sticky) : (x.raise fl).pWritten = x.pWritten := rfl
@[simp] theorem Strand.raise_tileWritten (x : Strand) (fl : Sticky) : (x.raise fl).tileWritten = x.tileWritten := rfl
@[simp] theorem Strand.raise_cbWritten (x : Strand) (fl : Sticky) : (x.raise fl).cbWritten = x.cbWritten := rfl
@[simp] theorem Strand.raise_predRecord (x : Strand) (fl : Sticky) : (x.raise fl).predRecord = x.predRecord := rfl
@[simp] theorem Strand.raise_tdir (x : Strand) (fl : Sticky) : (x.raise fl).tdir = x.tdir := rfl
@[simp] theorem Strand.raise_cbh (x : Strand) (fl : Sticky) : (x.raise fl).cbh = x.cbh := rfl
@[simp] theorem Strand.raise_wait (x : Strand) (fl : Sticky) : (x.raise fl).wait = x.wait := rfl
@[simp] theorem Strand.raise_fork (x : Strand) (fl : Sticky) : (x.raise fl).fork = x.fork := rfl
@[simp] theorem Strand.raise_notice (x : Strand) (fl : Sticky) : (x.raise fl).notice = x.notice := rfl
@[simp] theorem Strand.raise_copyEvents (x : Strand) (fl : Sticky) : (x.raise fl).copyEvents = x.copyEvents := rfl
@[simp] theorem Strand.raise_resumedReshaped (x : Strand) (fl : Sticky) : (x.raise fl).resumedReshaped = x.resumedReshaped := rfl
@[simp] theorem Strand.raise_progress (x : Strand) (fl : Sticky) : (x.raise fl).progress = x.progress := rfl
@[simp] theorem Strand.raise_age (x : Strand) (fl : Sticky) : (x.raise fl).age = x.age := rfl
@[simp] theorem Strand.raise_leaseZero (x : Strand) (fl : Sticky) : (x.raise fl).leaseZero = x.leaseZero := rfl
@[simp] theorem Strand.raise_strip (x : Strand) (fl : Sticky) : (x.raise fl).strip = x.strip := rfl
@[simp] theorem Strand.raise_lastBoundary (x : Strand) (fl : Sticky) : (x.raise fl).lastBoundary = x.lastBoundary := rfl
@[simp] theorem Strand.raise_aboveTargetSince (x : Strand) (fl : Sticky) : (x.raise fl).aboveTargetSince = x.aboveTargetSince := rfl
@[simp] theorem Strand.raise_switchAsked (x : Strand) (fl : Sticky) : (x.raise fl).switchAsked = x.switchAsked := rfl
@[simp] theorem Strand.raise_task (x : Strand) (fl : Sticky) : (x.raise fl).task = x.task := rfl
@[simp] theorem Strand.raise_ticked (x : Strand) (fl : Sticky) : (x.raise fl).ticked = x.ticked := rfl

/-! ### Registers of a strand -/

@[simp] theorem Strand.setS_zero (x : Strand) (v : Word) : x.setS 0 v = x := by simp [Strand.setS]
@[simp] theorem Strand.setP_zero (x : Strand) (v : PosBits) : x.setP 0 v = x := by simp [Strand.setP]

/-- A scalar register reads as it was written; the others keep their values (R19). -/
theorem Strand.setS_read (x : Strand) (d r : SReg) (v : Word) (h : d ≠ 0) :
    (x.setS d v).s[r.toNat] = if r = d then v else x.s[r.toNat] := by
  by_cases e : r = d
  · subst e; simp only [Strand.setS, if_neg h]; simp
  · have n : d.toNat ≠ r.toNat := fun c => e (BitVec.eq_of_toNat_eq c.symm)
    simp only [Strand.setS, if_neg h, if_neg e]; simp [n]

theorem Strand.setP_read (x : Strand) (d r : PReg) (v : PosBits) (h : d ≠ 0) :
    (x.setP d v).p[r.toNat] = if r = d then v else x.p[r.toNat] := by
  by_cases e : r = d
  · subst e; simp only [Strand.setP, if_neg h]; simp
  · have n : d.toNat ≠ r.toNat := fun c => e (BitVec.eq_of_toNat_eq c.symm)
    simp only [Strand.setP, if_neg h, if_neg e]; simp [n]

theorem Strand.setV_read (x : Strand) (d r : VIdx) (v : VReg) : (x.setV d v).v[r.toNat] = if r = d then v else x.v[r.toNat] := by
  by_cases e : r = d
  · subst e; simp [Strand.setV]
  · have n : d.toNat ≠ r.toNat := fun c => e (BitVec.eq_of_toNat_eq c.symm)
    simp [Strand.setV, e, n]

end Sys2Proof.Machine
end

