-- ==== Sys2Proof/Laws/Ops.lean ====
section
/-! SUPPORT. One lemma for each shared operation of Machine/Ops.lean, Operands.lean and System.lean: everything it can do. -/

namespace Sys2Proof.Machine

/-! ### Reading registers -/

@[simp] theorem rdS_zero (s : State) : s.rdS 0 = 0 := by simp [State.rdS]
@[simp] theorem rdP_zero (s : State) : s.rdP 0 = BitVec.allOnes 131072 := by simp [State.rdP]

theorem rdS_strand {s : State} (h : s.turn = none) {r : SReg} (n : r ≠ 0) : s.rdS r = s.strand.s[r.toNat] := by
  simp only [State.rdS, if_neg n, h]

theorem rdP_strand {s : State} (h : s.turn = none) {r : PReg} (n : r ≠ 0) : s.rdP r = s.strand.p[r.toNat] := by
  simp only [State.rdP, if_neg n, h]

/-- The agent's own fields, by who has the turn. -/
theorem pc_strand {s : State} (h : s.turn = none) : s.pc = s.strand.pc := by simp [State.pc, h]
theorem pc_barista {s : State} {b : Nat} (h : s.turn = some b) : s.pc = (s.barista b).pc := by simp [State.pc, h]
theorem lent_strand {s : State} (h : s.turn = none) : s.lent = s.strand.lent := by simp [State.lent, h]
theorem lent_barista {s : State} {b : Nat} (h : s.turn = some b) : s.lent = (s.barista b).lent := by simp [State.lent, h]
theorem exposed_strand {s : State} (h : s.turn = none) : s.exposed = s.strand.mode := by simp [State.exposed, h]
theorem exposed_barista {s : State} {b : Nat} (h : s.turn = some b) : s.exposed = false := by simp [State.exposed, h]
theorem exposed_turn {s : State} (h : s.exposed = true) : s.turn = none := by
  cases t : s.turn with
  | none => rfl
  | some b => simp [State.exposed, t] at h

/-- Nothing is lent: the guard of every position is 1 and no copy is made (R71, R72). -/
theorem guardAt_unlent {s : State} (h : s.lent = none) (i : Nat) : s.guardAt i = true := by simp [State.guardAt, h]
theorem copyTo_unlent {s : State} (h : s.lent = none) : s.copyTo = none := by simp [State.copyTo, h]

/-! ### The end of an instruction -/

/-- A strand's instruction that ends at `a` changes its pc, its lent prefix and, in an exposed region, its clock, once in a turn (R7). -/
theorem retireTo_strand {s : State} (h : s.turn = none) (a : Word) :
    s.retireTo a = { s with strand := { s.strand with
      pc := a, lent := none
      sched := if s.exposed then { s.strand.sched with clock := s.strand.sched.clock + 1 } else s.strand.sched
      ticked := s.exposed || s.strand.ticked } } := by
  unfold State.retireTo State.tickSched
  split <;> simp_all [State.setLent, State.setPc]

theorem retire_strand {s : State} (h : s.turn = none) :
    s.retire = { s with strand := { s.strand with
      pc := s.strand.pc + 4, lent := none
      sched := if s.exposed then { s.strand.sched with clock := s.strand.sched.clock + 1 } else s.strand.sched
      ticked := s.exposed || s.strand.ticked } } := by
  rw [State.retire, retireTo_strand h, pc_strand h]

/-- A handler's instruction that ends at `a` changes its pc and its lent prefix. -/
theorem retireTo_barista {s : State} {b : Nat} (h : s.turn = some b) (a : Word) :
    s.retireTo a = (s.setBarista b { s.barista b with lent := none }).setBarista b { s.barista b with lent := none, pc := a } := by
  simp [State.retireTo, State.tickSched, exposed_barista h, State.setLent, State.setPc, h]

/-- An instruction under its guard (R71). -/
theorem guarded_on {s : State} (h : s.guard0 = true) (f : State → State) : s.guarded f = f s := by simp [State.guarded, h]
theorem guarded_off {s : State} (h : s.guard0 = false) (f : State → State) : s.guarded f = s.retire := by simp [State.guarded, h]

/-! ### Results -/

/-- In an interlocked region results land at once (R24). -/
theorem put_interlocked {s : State} (h : s.exposed = false) (n : Nat) (l : List Dest) (fl : Sticky) (vec : Bool) :
    s.put n l fl vec = applyCommit s { due := 0, dests := l, flags := fl, vec := vec } := by simp [State.put, h]

/-- In an exposed region results stand in the commit buffer until their clock (R24, R235). -/
theorem put_exposed {s : State} (h : s.exposed = true) (n : Nat) (l : List Dest) (fl : Sticky) (vec : Bool) (ne : l ≠ [] ∨ fl ≠ 0) :
    s.put n l fl vec = { s with strand := { s.strand with sched := { s.strand.sched with
      commits := s.strand.sched.commits ++ [{ due := s.strand.sched.clock + n, dests := l, flags := fl, vec := vec
                                              issued := some s.strand.sched.clock }] } } } := by
  cases l <;> simp_all [State.put]

/-- A result without a destination and without a flag leaves nothing behind in an exposed region. -/
theorem put_nothing {s : State} (h : s.exposed = true) (n : Nat) (vec : Bool) : s.put n [] 0 vec = s := by simp [State.put, h]

/-- A destination of a commit changes neither memory nor whose turn it is. -/
theorem applyDest_frame (s : State) (d : Dest) :
    (applyDest s d).mem = s.mem ∧ (applyDest s d).turn = s.turn ∧ (applyDest s d).strandId = s.strandId ∧
    (applyDest s d).others = s.others := by
  cases d <;> simp [applyDest, State.setQueue]
  split <;> simp

theorem applyCommit_frame (s : State) (c : Commit) :
    (applyCommit s c).mem = s.mem ∧ (applyCommit s c).turn = s.turn ∧ (applyCommit s c).strandId = s.strandId ∧
    (applyCommit s c).others = s.others := by
  have h : ∀ (l : List Dest) (t : State), (l.foldl applyDest t).mem = t.mem ∧ (l.foldl applyDest t).turn = t.turn ∧
      (l.foldl applyDest t).strandId = t.strandId ∧ (l.foldl applyDest t).others = t.others := by
    intro l
    induction l with
    | nil => simp
    | cons d l ih =>
      intro t
      obtain ⟨a1, a2, a3, a4⟩ := ih (applyDest t d)
      obtain ⟨b1, b2, b3, b4⟩ := applyDest_frame t d
      exact ⟨a1.trans b1, a2.trans b2, a3.trans b3, a4.trans b4⟩
  exact h c.dests s

/-- A result changes neither memory nor whose turn it is. -/
theorem put_frame (s : State) (n : Nat) (l : List Dest) (fl : Sticky) (vec : Bool) :
    (s.put n l fl vec).mem = s.mem ∧ (s.put n l fl vec).turn = s.turn ∧ (s.put n l fl vec).strandId = s.strandId ∧
    (s.put n l fl vec).others = s.others := by
  unfold State.put
  split
  · split <;> simp
  · exact applyCommit_frame _ _

/-- A scalar result of an interlocked strand: its register, the register of a lent copy, its flags (R72). -/
theorem putS_interlocked {s : State} (h : s.turn = none) (e : s.exposed = false) (n : Nat) (d : SReg) (v : Word) (fl : Sticky) (vec : Bool) :
    s.putS n d v fl vec = { s with strand := (match s.copyTo with
      | some c => if c = d then s.strand.setS d v else (s.strand.setS d v).setS c v
      | none => s.strand.setS d v).raise fl } := by
  simp only [State.putS, h, put_interlocked e, applyCommit]
  cases s.copyTo with
  | none => simp [applyDest, h]
  | some c => by_cases k : c = d <;> simp [k, applyDest, h]

/-- A scalar result of an exposed strand stands in the commit buffer. -/
theorem putS_exposed {s : State} (e : s.exposed = true) (n : Nat) (d : SReg) (v : Word) (fl : Sticky) (vec : Bool) :
    s.putS n d v fl vec = { s with strand := { s.strand with sched := { s.strand.sched with
      commits := s.strand.sched.commits ++ [{ due := s.strand.sched.clock + n
                                              dests := .s d v :: (match s.copyTo with
                                                | some c => if c = d then [] else [.s c v]
                                                | none => [])
                                              flags := fl, vec := vec, issued := some s.strand.sched.clock }] } } } := by
  simp only [State.putS, exposed_turn e, put_exposed e _ _ _ _ (.inl (List.cons_ne_nil _ _))]
  all_goals (cases s.copyTo <;> rfl)

theorem putS_mem (s : State) (n : Nat) (d : SReg) (v : Word) (fl : Sticky) (vec : Bool) : (s.putS n d v fl vec).mem = s.mem := by
  unfold State.putS
  split
  · exact (put_frame _ _ _ _ _).1
  · rfl

theorem putP_mem (s : State) (n : Nat) (d : PReg) (v : PosBits) (fl : Sticky) (vec : Bool) : (s.putP n d v fl vec).mem = s.mem := by
  unfold State.putP
  split
  · exact (put_frame _ _ _ _ _).1
  · split <;> rfl

theorem putV_mem (s : State) (n : Nat) (d : VIdx) (v : VReg) (fl : Sticky) : (s.putV n d v fl).mem = s.mem := (put_frame _ _ _ _ _).1

/-- The parts of a result that are complete at a stop change neither memory nor whose turn it is (R123). -/
theorem landV_frame (s : State) (d : VIdx) (v : VReg) (fl : Sticky) :
    (s.landV d v fl).mem = s.mem ∧ (s.landV d v fl).turn = s.turn ∧ (s.landV d v fl).strandId = s.strandId ∧
    (s.landV d v fl).others = s.others := applyCommit_frame _ _

/-! ### Ends and stops -/

@[simp] theorem finish_ok (s t : State) : s.finish (.ok t) = t := rfl
@[simp] theorem finish_error (s : State) (x : Stop) : s.finish (.error x) = s.stop x := rfl

theorem stop_trap {s : State} (h : s.turn = none) (t : TrapInfo) : s.stop (.trap t) = s.takeTrap t := by simp [State.stop, h]
theorem stop_wait {s : State} (h : s.turn = none) (w : Wait) :
    s.stop (.wait w) = { s with strand := { s.strand with wait := some w } } := by simp [State.stop, h]
theorem stop_trap_barista {s : State} {b : Nat} (h : s.turn = some b) (t : TrapInfo) :
    s.stop (.trap t) = (s.asked t).abortHandler b 0xFD := by
  simp [State.stop, h]
theorem stop_abort_barista {s : State} {b : Nat} (h : s.turn = some b) (c : Byte) : s.stop (.abort c) = s.abortHandler b c := by
  simp [State.stop, h]

/-- A meaning that only a strand has (R325). -/
theorem onStrand_strand {s : State} (h : s.turn = none) (f : State → State) : s.onStrand f = f s := by simp [State.onStrand, h]
theorem onStrand_barista {s : State} {b : Nat} (h : s.turn = some b) (f : State → State) : s.onStrand f = s.abortHandler b 0xFE := by
  simp [State.onStrand, h, State.stop]

/-- A privileged instruction (R77, R119). -/
theorem privileged_on {s : State} (h : s.turn = none) (p : s.strand.priv = true) (i : Instr) (f : State → State) : s.privileged i f = f s := by
  simp [State.privileged, State.onStrand, h, p]
theorem privileged_off {s : State} (h : s.turn = none) (p : s.strand.priv = false) (i : Instr) (f : State → State) :
    s.privileged i f = s.stop (privilege i) := by
  simp [State.privileged, State.onStrand, h, p]

/-- An instruction that drains first (R26). -/
theorem afterDrain_drained {s : State} (h : drained s s.strandId = true) (f : State → State) : s.afterDrain f = f s := by
  simp [State.afterDrain, h]
theorem afterDrain_waits {s : State} (h : drained s s.strandId = false) (f : State → State) : s.afterDrain f = s.stop (.wait .drain) := by
  simp [State.afterDrain, h]

/-- An event on a strand in a state of its wait. -/
theorem onWait_ready {s : State} {g : Nat} {ready : Strand → Bool} (h : (s.strandAt g).phase = .running) (r : ready (s.strandAt g) = true)
    (f : Strand → Strand) : s.onWait g ready f = s.setStrandAt g (f (s.strandAt g)) := by simp [State.onWait, h, r]
theorem onWait_unready {s : State} {g : Nat} {ready : Strand → Bool} (r : ready (s.strandAt g) = false) (f : Strand → Strand) :
    s.onWait g ready f = s := by simp [State.onWait, r]

/-- A scalar memory instruction under its guard. -/
theorem memory_ok {s t : State} {f : State → Except Stop State} (h : s.guard0 = true) (e : f s = .ok t) : s.memory f = t.retire := by
  simp [State.memory, State.guarded, h, e]
theorem memory_error {s : State} {x : Stop} {f : State → Except Stop State} (h : s.guard0 = true) (e : f s = .error x) :
    s.memory f = s.stop x := by
  simp [State.memory, State.guarded, h, e]

/-! ### Traps -/

/-- TakeTrap changes the strand, and what its copies in flight count as (R26, R29). -/
theorem enterTrap_device {s : State} (h : s.strand.tip = false) (t : TrapInfo) (a : Bool) :
    s.enterTrap t a = { s with strand := (s.enterTrap t a).strand, cores := handlerCopies s.cores s.strandId } := by simp [State.enterTrap, h]

/-- Where a trap leads and what it saves (R29). -/
theorem enterTrap_saves {s : State} (h : s.strand.tip = false) (t : TrapInfo) (a : Bool) :
    (s.enterTrap t a).strand.pc = s.strand.sys.tvec ∧ (s.enterTrap t a).strand.sys.epc = s.strand.pc ∧
    (s.enterTrap t a).strand.sys.edata = t.data ∧ (s.enterTrap t a).strand.sys.cause = causeWord t.code a t.vec ∧
    (s.enterTrap t a).strand.lent = none ∧ (s.enterTrap t a).strand.s = s.strand.s ∧ (s.enterTrap t a).strand.v = s.strand.v ∧
    (s.enterTrap t a).strand.p = s.strand.p := by simp [State.enterTrap, h]

theorem enterTrap_double {s : State} (h : s.strand.tip = true) (t : TrapInfo) (a : Bool) : s.enterTrap t a = s.doubleTrap t := by
  simp [State.enterTrap, h]

/-- A trap whose cause posts no record enters at once (R360). -/
theorem takeTrap_unposted {s : State} {t : TrapInfo} (h : postsRecord t.code = false) :
    s.takeTrap t = (s.asked t).enterTrap t false := by
  simp [State.takeTrap, h]

/-! ### Memory -/

/-- What a module reset in replay keeps of memory is canonical (R299, R409). -/
theorem wf_noScratch {m : Memory} (h : m.wf = true) : m.noScratch.wf = true := by
  simp only [Memory.wf, Memory.noScratch, Bool.and_eq_true] at h ⊢
  exact ⟨⟨rising_filter _ h.1.1, all_filter h.1.2⟩, ⟨rising_filter _ h.2.1, all_filter h.2.2⟩⟩

@[simp] theorem modLlc_mem (s : State) (k : Nat) (f : LlcLine → LlcLine) : (s.modLlc k f).mem = s.mem := by
  unfold State.modLlc; split <;> rfl
@[simp] theorem modLlc_turn (s : State) (k : Nat) (f : LlcLine → LlcLine) : (s.modLlc k f).turn = s.turn := by
  unfold State.modLlc; split <;> rfl

/-- A write to an armed line changes the strands that watch it. -/
@[simp] theorem notifyLine_mem (s : State) (line v : Nat) : (s.notifyLine line v).mem = s.mem := rfl
@[simp] theorem notifyLine_turn (s : State) (line v : Nat) : (s.notifyLine line v).turn = s.turn := rfl

/-- A write of a sector keeps memory canonical. -/
theorem writeBase_wf {s : State} (die : Option Nat) (sec : Nat) (x : Sector) (o : Option (BitVec 12 × Word)) (h : s.mem.wf = true) :
    (s.writeBase die sec x o).mem.wf = true := by
  cases e : physClass (128 * sec) <;> simp [State.writeBase, e, h, wf_setSector]

/-- A write outside the fabric window changes the sector it names. -/
theorem writeBase_mem {s : State} (die : Option Nat) (sec : Nat) (x : Sector) (o : Option (BitVec 12 × Word))
    (h : ∀ k, physClass (128 * sec) ≠ .window k) : (s.writeBase die sec x o).mem = s.mem.setSector sec x := by
  cases e : physClass (128 * sec) with
  | window k => exact absurd e (h k)
  | _ => simp [State.writeBase, e]

end Sys2Proof.Machine
end

