-- ==== Sys2Proof/Laws/PerInstr.lean ====
section
/-! SUPPORT. For each instruction: its word decodes to it. Family Encoding of LAWS.json. -/

set_option linter.unusedSimpArgs false
set_option linter.unusedVariables false

namespace Sys2Proof

/-! ### The decoder of each major (R79) -/

theorem decode01_of_major (f : Fields) (h : f.major = 0x01) : decodeFields f = decode01 f := by
  unfold decodeFields decodeLow; rw [h]; rfl
theorem decode02_of_major (f : Fields) (h : f.major = 0x02) : decodeFields f = decode02 f := by
  unfold decodeFields decodeLow; rw [h]; rfl
theorem decode03_of_major (f : Fields) (h : f.major = 0x03) : decodeFields f = decode03 f := by
  unfold decodeFields decodeLow; rw [h]; rfl
theorem decode04_of_major (f : Fields) (h : f.major = 0x04) : decodeFields f = decode04 f := by
  unfold decodeFields decodeLow; rw [h]; rfl
theorem decode05_of_major (f : Fields) (h : f.major = 0x05) : decodeFields f = decode05 f := by
  unfold decodeFields decodeLow; rw [h]; rfl
theorem decode06_of_major (f : Fields) (h : f.major = 0x06) : decodeFields f = decode06 f := by
  unfold decodeFields decodeLow; rw [h]; rfl
theorem decode07_of_major (f : Fields) (h : f.major = 0x07) : decodeFields f = decode07 f := by
  unfold decodeFields decodeLow; rw [h]; rfl
theorem decode08_of_major (f : Fields) (h : f.major = 0x08) : decodeFields f = decode08 f := by
  unfold decodeFields decodeLow; rw [h]; rfl
theorem decode09_of_major (f : Fields) (h : f.major = 0x09) : decodeFields f = decode09 f := by
  unfold decodeFields decodeLow; rw [h]; rfl
theorem decode0A_of_major (f : Fields) (h : f.major = 0x0A) : decodeFields f = decode0A f := by
  unfold decodeFields decodeLow; rw [h]; rfl
theorem decode0B_of_major (f : Fields) (h : f.major = 0x0B) : decodeFields f = decode0B f := by
  unfold decodeFields decodeLow; rw [h]; rfl
theorem decode0C_of_major (f : Fields) (h : f.major = 0x0C) : decodeFields f = decode0C f := by
  unfold decodeFields decodeLow; rw [h]; rfl
theorem decode0D_of_major (f : Fields) (h : f.major = 0x0D) : decodeFields f = decode0D f := by
  unfold decodeFields decodeLow; rw [h]; rfl
theorem decode0E_of_major (f : Fields) (h : f.major = 0x0E) : decodeFields f = decode0E f := by
  unfold decodeFields decodeLow; rw [h]; rfl
theorem decode0F_of_major (f : Fields) (h : f.major = 0x0F) : decodeFields f = decode0F f := by
  unfold decodeFields decodeLow; rw [h]; rfl
theorem decode10_of_major (f : Fields) (h : f.major = 0x10) : decodeFields f = decode10 f := by
  unfold decodeFields decodeLow; rw [h]; rfl
theorem decode11_of_major (f : Fields) (h : f.major = 0x11) : decodeFields f = decode11 f := by
  unfold decodeFields decodeLow; rw [h]; rfl
theorem decode12_of_major (f : Fields) (h : f.major = 0x12) : decodeFields f = decode12 f := by
  unfold decodeFields decodeLow; rw [h]; rfl
theorem decode13_of_major (f : Fields) (h : f.major = 0x13) : decodeFields f = decode13 f := by
  unfold decodeFields decodeLow; rw [h]; rfl
theorem decode14_of_major (f : Fields) (h : f.major = 0x14) : decodeFields f = decode14 f := by
  unfold decodeFields decodeLow; rw [h]; rfl
theorem decode15_of_major (f : Fields) (h : f.major = 0x15) : decodeFields f = decode15 f := by
  unfold decodeFields decodeLow; rw [h]; rfl
theorem decode16_of_major (f : Fields) (h : f.major = 0x16) : decodeFields f = decode16 f := by
  unfold decodeFields decodeLow; rw [h]; rfl
theorem decode17_of_major (f : Fields) (h : f.major = 0x17) : decodeFields f = decode17 f := by
  unfold decodeFields decodeLow; rw [h]; rfl
theorem decode18_of_major (f : Fields) (h : f.major = 0x18) : decodeFields f = decode18 f := by
  unfold decodeFields decodeLow; rw [h]; rfl
theorem decode19_of_major (f : Fields) (h : f.major = 0x19) : decodeFields f = decode19 f := by
  unfold decodeFields decodeLow; rw [h]; rfl
theorem decode1A_of_major (f : Fields) (h : f.major = 0x1A) : decodeFields f = decode1A f := by
  unfold decodeFields decodeLow; rw [h]; rfl
theorem decode1B_of_major (f : Fields) (h : f.major = 0x1B) : decodeFields f = decode1B f := by
  unfold decodeFields decodeLow; rw [h]; rfl
theorem decode1C_of_major (f : Fields) (h : f.major = 0x1C) : decodeFields f = decode1C f := by
  unfold decodeFields decodeLow; rw [h]; rfl
theorem decode1D_of_major (f : Fields) (h : f.major = 0x1D) : decodeFields f = decode1D f := by
  unfold decodeFields decodeLow; rw [h]; rfl
theorem decode1E_of_major (f : Fields) (h : f.major = 0x1E) : decodeFields f = decode1E f := by
  unfold decodeFields decodeLow; rw [h]; rfl
theorem decode1F_of_major (f : Fields) (h : f.major = 0x1F) : decodeFields f = decode1F f := by
  unfold decodeFields decodeLow; rw [h]; rfl
theorem decode20_of_major (f : Fields) (h : f.major = 0x20) : decodeFields f = decode20 f := by
  unfold decodeFields decodeLow; rw [h]; rfl
theorem decode21_of_major (f : Fields) (h : f.major = 0x21) : decodeFields f = decode21 f := by
  unfold decodeFields decodeLow; rw [h]; rfl
theorem decode22_of_major (f : Fields) (h : f.major = 0x22) : decodeFields f = decode22 f := by
  unfold decodeFields decodeLow; rw [h]; rfl
theorem decode23_of_major (f : Fields) (h : f.major = 0x23) : decodeFields f = decode23 f := by
  unfold decodeFields decodeLow; rw [h]; rfl
theorem decode24_of_major (f : Fields) (h : f.major = 0x24) : decodeFields f = decode24 f := by
  unfold decodeFields decodeLow; rw [h]; rfl
theorem decode25_of_major (f : Fields) (h : f.major = 0x25) : decodeFields f = decode25 f := by
  unfold decodeFields decodeLow; rw [h]; rfl
theorem decode26_of_major (f : Fields) (h : f.major = 0x26) : decodeFields f = decode26 f := by
  unfold decodeFields decodeLow; rw [h]; rfl
theorem decode27_of_major (f : Fields) (h : f.major = 0x27) : decodeFields f = decode27 f := by
  unfold decodeFields decodeLow; rw [h]; rfl
theorem decode28_of_major (f : Fields) (h : f.major = 0x28) : decodeFields f = decode28 f := by
  unfold decodeFields decodeLow; rw [h]; rfl
theorem decode30_of_major (f : Fields) (h : f.major = 0x30) : decodeFields f = decode30 f := by
  unfold decodeFields decodeLow; rw [h]; rfl
theorem decode31_of_major (f : Fields) (h : f.major = 0x31) : decodeFields f = decode31 f := by
  unfold decodeFields decodeLow; rw [h]; rfl
theorem decode32_of_major (f : Fields) (h : f.major = 0x32) : decodeFields f = decode32 f := by
  unfold decodeFields decodeLow; rw [h]; rfl
theorem decode33_of_major (f : Fields) (h : f.major = 0x33) : decodeFields f = decode33 f := by
  unfold decodeFields decodeLow; rw [h]; rfl
theorem decode34_of_major (f : Fields) (h : f.major = 0x34) : decodeFields f = decode34 f := by
  unfold decodeFields decodeLow; rw [h]; rfl
theorem decode35_of_major (f : Fields) (h : f.major = 0x35) : decodeFields f = decode35 f := by
  unfold decodeFields decodeLow; rw [h]; rfl
theorem decode36_of_major (f : Fields) (h : f.major = 0x36) : decodeFields f = decode36 f := by
  unfold decodeFields decodeLow; rw [h]; rfl
theorem decode38_of_major (f : Fields) (h : f.major = 0x38) : decodeFields f = decode38 f := by
  unfold decodeFields decodeLow; rw [h]; rfl
theorem decode39_of_major (f : Fields) (h : f.major = 0x39) : decodeFields f = decode39 f := by
  unfold decodeFields decodeLow; rw [h]; rfl
theorem decode40_of_major (f : Fields) (h : f.major = 0x40) : decodeFields f = decode40 f := by
  unfold decodeFields decodeLow; rw [h]; rfl
theorem decode41_of_major (f : Fields) (h : f.major = 0x41) : decodeFields f = decode41 f := by
  unfold decodeFields decodeLow; rw [h]; rfl
theorem decode42_of_major (f : Fields) (h : f.major = 0x42) : decodeFields f = decode42 f := by
  unfold decodeFields decodeLow; rw [h]; rfl
theorem decode43_of_major (f : Fields) (h : f.major = 0x43) : decodeFields f = decode43 f := by
  unfold decodeFields decodeLow; rw [h]; rfl
theorem decode44_of_major (f : Fields) (h : f.major = 0x44) : decodeFields f = decode44 f := by
  unfold decodeFields decodeLow; rw [h]; rfl
theorem decode45_of_major (f : Fields) (h : f.major = 0x45) : decodeFields f = decode45 f := by
  unfold decodeFields decodeLow; rw [h]; rfl
theorem decode46_of_major (f : Fields) (h : f.major = 0x46) : decodeFields f = decode46 f := by
  unfold decodeFields decodeLow; rw [h]; rfl
theorem decode47_of_major (f : Fields) (h : f.major = 0x47) : decodeFields f = decode47 f := by
  unfold decodeFields decodeLow; rw [h]; rfl
theorem decode48_of_major (f : Fields) (h : f.major = 0x48) : decodeFields f = decode48 f := by
  unfold decodeFields decodeLow; rw [h]; rfl
theorem decode49_of_major (f : Fields) (h : f.major = 0x49) : decodeFields f = decode49 f := by
  unfold decodeFields decodeLow; rw [h]; rfl
theorem decode4A_of_major (f : Fields) (h : f.major = 0x4A) : decodeFields f = decode4A f := by
  unfold decodeFields decodeLow; rw [h]; rfl
theorem decode4B_of_major (f : Fields) (h : f.major = 0x4B) : decodeFields f = decode4B f := by
  unfold decodeFields decodeLow; rw [h]; rfl
theorem decode4C_of_major (f : Fields) (h : f.major = 0x4C) : decodeFields f = decode4C f := by
  unfold decodeFields decodeLow; rw [h]; rfl
theorem decode4D_of_major (f : Fields) (h : f.major = 0x4D) : decodeFields f = decode4D f := by
  unfold decodeFields decodeLow; rw [h]; rfl
theorem decode4E_of_major (f : Fields) (h : f.major = 0x4E) : decodeFields f = decode4E f := by
  unfold decodeFields decodeLow; rw [h]; rfl
theorem decode4F_of_major (f : Fields) (h : f.major = 0x4F) : decodeFields f = decode4F f := by
  unfold decodeFields decodeLow; rw [h]; rfl
theorem decode50_of_major (f : Fields) (h : f.major = 0x50) : decodeFields f = decode50 f := by
  unfold decodeFields decodeLow; rw [h]; rfl
theorem decode51_of_major (f : Fields) (h : f.major = 0x51) : decodeFields f = decode51 f := by
  unfold decodeFields decodeLow; rw [h]; rfl
theorem decode52_of_major (f : Fields) (h : f.major = 0x52) : decodeFields f = decode52 f := by
  unfold decodeFields decodeLow; rw [h]; rfl
theorem decode53_of_major (f : Fields) (h : f.major = 0x53) : decodeFields f = decode53 f := by
  unfold decodeFields decodeLow; rw [h]; rfl
theorem decode54_of_major (f : Fields) (h : f.major = 0x54) : decodeFields f = decode54 f := by
  unfold decodeFields decodeLow; rw [h]; rfl
theorem decode55_of_major (f : Fields) (h : f.major = 0x55) : decodeFields f = decode55 f := by
  unfold decodeFields decodeLow; rw [h]; rfl
theorem decode56_of_major (f : Fields) (h : f.major = 0x56) : decodeFields f = decode56 f := by
  unfold decodeFields decodeLow; rw [h]; rfl
theorem decode57_of_major (f : Fields) (h : f.major = 0x57) : decodeFields f = decode57 f := by
  unfold decodeFields decodeLow; rw [h]; rfl
theorem decode58_of_major (f : Fields) (h : f.major = 0x58) : decodeFields f = decode58 f := by
  unfold decodeFields decodeLow; rw [h]; rfl
theorem decode59_of_major (f : Fields) (h : f.major = 0x59) : decodeFields f = decode59 f := by
  unfold decodeFields decodeLow; rw [h]; rfl
theorem decode5A_of_major (f : Fields) (h : f.major = 0x5A) : decodeFields f = decode5A f := by
  unfold decodeFields decodeLow; rw [h]; rfl
theorem decode5B_of_major (f : Fields) (h : f.major = 0x5B) : decodeFields f = decode5B f := by
  unfold decodeFields decodeLow; rw [h]; rfl
theorem decode5C_of_major (f : Fields) (h : f.major = 0x5C) : decodeFields f = decode5C f := by
  unfold decodeFields decodeLow; rw [h]; rfl
theorem decode5D_of_major (f : Fields) (h : f.major = 0x5D) : decodeFields f = decode5D f := by
  unfold decodeFields decodeLow; rw [h]; rfl
theorem decode5E_of_major (f : Fields) (h : f.major = 0x5E) : decodeFields f = decode5E f := by
  unfold decodeFields decodeLow; rw [h]; rfl
theorem decode5F_of_major (f : Fields) (h : f.major = 0x5F) : decodeFields f = decode5F f := by
  unfold decodeFields decodeLow; rw [h]; rfl
theorem decode60_of_major (f : Fields) (h : f.major = 0x60) : decodeFields f = decode60 f := by
  unfold decodeFields decodeLow; rw [h]; rfl
theorem decode61_of_major (f : Fields) (h : f.major = 0x61) : decodeFields f = decode61 f := by
  unfold decodeFields decodeLow; rw [h]; rfl
theorem decode62_of_major (f : Fields) (h : f.major = 0x62) : decodeFields f = decode62 f := by
  unfold decodeFields decodeLow; rw [h]; rfl
theorem decode63_of_major (f : Fields) (h : f.major = 0x63) : decodeFields f = decode63 f := by
  unfold decodeFields decodeLow; rw [h]; rfl
theorem decode64_of_major (f : Fields) (h : f.major = 0x64) : decodeFields f = decode64 f := by
  unfold decodeFields decodeLow; rw [h]; rfl
theorem decode65_of_major (f : Fields) (h : f.major = 0x65) : decodeFields f = decode65 f := by
  unfold decodeFields decodeLow; rw [h]; rfl
theorem decode66_of_major (f : Fields) (h : f.major = 0x66) : decodeFields f = decode66 f := by
  unfold decodeFields decodeLow; rw [h]; rfl
theorem decode67_of_major (f : Fields) (h : f.major = 0x67) : decodeFields f = decode67 f := by
  unfold decodeFields decodeLow; rw [h]; rfl
theorem decode68_of_major (f : Fields) (h : f.major = 0x68) : decodeFields f = decode68 f := by
  unfold decodeFields decodeLow; rw [h]; rfl
theorem decode69_of_major (f : Fields) (h : f.major = 0x69) : decodeFields f = decode69 f := by
  unfold decodeFields decodeLow; rw [h]; rfl
theorem decode6A_of_major (f : Fields) (h : f.major = 0x6A) : decodeFields f = decode6A f := by
  unfold decodeFields decodeLow; rw [h]; rfl
theorem decode6B_of_major (f : Fields) (h : f.major = 0x6B) : decodeFields f = decode6B f := by
  unfold decodeFields decodeLow; rw [h]; rfl
theorem decode6C_of_major (f : Fields) (h : f.major = 0x6C) : decodeFields f = decode6C f := by
  unfold decodeFields decodeLow; rw [h]; rfl
theorem decode7E_of_major (f : Fields) (h : f.major = 0x7E) : decodeFields f = decode7E f := by
  unfold decodeFields decodeLow; rw [h]; rfl
theorem decode6D_of_major (f : Fields) (h : f.major = 0x6D) : decodeFields f = decode6D f := by
  unfold decodeFields; rw [h]; rfl
theorem decode6E_of_major (f : Fields) (h : f.major = 0x6E) : decodeFields f = decode6E f := by
  unfold decodeFields; rw [h]; rfl
theorem decode6F_of_major (f : Fields) (h : f.major = 0x6F) : decodeFields f = decode6F f := by
  unfold decodeFields; rw [h]; rfl
theorem decode70_of_major (f : Fields) (h : f.major = 0x70) : decodeFields f = decode70 f := by
  unfold decodeFields; rw [h]; rfl
theorem decode71_of_major (f : Fields) (h : f.major = 0x71) : decodeFields f = decode71 f := by
  unfold decodeFields; rw [h]; rfl
theorem decode72_of_major (f : Fields) (h : f.major = 0x72) : decodeFields f = decode72 f := by
  unfold decodeFields; rw [h]; rfl

/-- The decoder reads the fields of a well-formed instruction as that instruction; a device event has no fields. -/
def Laws.Encoding.Statement (i : Instr) : Prop := i.wf = true → ∀ f, encodeFields i = some f → decodeFields f = .ok i

namespace Laws.Encoding

theorem add (d a b) : Statement (.add d a b) := fun w _ h => by
  cases h; rw [decode01_of_major _ rfl]; simp [decode01, Fields.fmtA, zero, limit, bind, Except.bind, w]
theorem sub (d a b) : Statement (.sub d a b) := fun w _ h => by
  cases h; rw [decode01_of_major _ rfl]; simp [decode01, Fields.fmtA, zero, limit, bind, Except.bind, w]
theorem mul (d a b) : Statement (.mul d a b) := fun w _ h => by
  cases h; rw [decode01_of_major _ rfl]; simp [decode01, Fields.fmtA, zero, limit, bind, Except.bind, w]
theorem mulh (d a b) : Statement (.mulh d a b) := fun w _ h => by
  cases h; rw [decode01_of_major _ rfl]; simp [decode01, Fields.fmtA, zero, limit, bind, Except.bind, w]
theorem mulhu (d a b) : Statement (.mulhu d a b) := fun w _ h => by
  cases h; rw [decode01_of_major _ rfl]; simp [decode01, Fields.fmtA, zero, limit, bind, Except.bind, w]
theorem div (d a b) : Statement (.div d a b) := fun w _ h => by
  cases h; rw [decode01_of_major _ rfl]; simp [decode01, Fields.fmtA, zero, limit, bind, Except.bind, w]
theorem divu (d a b) : Statement (.divu d a b) := fun w _ h => by
  cases h; rw [decode01_of_major _ rfl]; simp [decode01, Fields.fmtA, zero, limit, bind, Except.bind, w]
theorem rem (d a b) : Statement (.rem d a b) := fun w _ h => by
  cases h; rw [decode01_of_major _ rfl]; simp [decode01, Fields.fmtA, zero, limit, bind, Except.bind, w]
theorem remu (d a b) : Statement (.remu d a b) := fun w _ h => by
  cases h; rw [decode01_of_major _ rfl]; simp [decode01, Fields.fmtA, zero, limit, bind, Except.bind, w]
theorem and (d a b) : Statement (.and d a b) := fun w _ h => by
  cases h; rw [decode01_of_major _ rfl]; simp [decode01, Fields.fmtA, zero, limit, bind, Except.bind, w]
theorem or (d a b) : Statement (.or d a b) := fun w _ h => by
  cases h; rw [decode01_of_major _ rfl]; simp [decode01, Fields.fmtA, zero, limit, bind, Except.bind, w]
theorem xor (d a b) : Statement (.xor d a b) := fun w _ h => by
  cases h; rw [decode01_of_major _ rfl]; simp [decode01, Fields.fmtA, zero, limit, bind, Except.bind, w]
theorem andn (d a b) : Statement (.andn d a b) := fun w _ h => by
  cases h; rw [decode01_of_major _ rfl]; simp [decode01, Fields.fmtA, zero, limit, bind, Except.bind, w]
theorem sll (d a b) : Statement (.sll d a b) := fun w _ h => by
  cases h; rw [decode01_of_major _ rfl]; simp [decode01, Fields.fmtA, zero, limit, bind, Except.bind, w]
theorem srl (d a b) : Statement (.srl d a b) := fun w _ h => by
  cases h; rw [decode01_of_major _ rfl]; simp [decode01, Fields.fmtA, zero, limit, bind, Except.bind, w]
theorem sra (d a b) : Statement (.sra d a b) := fun w _ h => by
  cases h; rw [decode01_of_major _ rfl]; simp [decode01, Fields.fmtA, zero, limit, bind, Except.bind, w]
theorem min (d a b) : Statement (.min d a b) := fun w _ h => by
  cases h; rw [decode01_of_major _ rfl]; simp [decode01, Fields.fmtA, zero, limit, bind, Except.bind, w]
theorem max (d a b) : Statement (.max d a b) := fun w _ h => by
  cases h; rw [decode01_of_major _ rfl]; simp [decode01, Fields.fmtA, zero, limit, bind, Except.bind, w]
theorem minu (d a b) : Statement (.minu d a b) := fun w _ h => by
  cases h; rw [decode01_of_major _ rfl]; simp [decode01, Fields.fmtA, zero, limit, bind, Except.bind, w]
theorem maxu (d a b) : Statement (.maxu d a b) := fun w _ h => by
  cases h; rw [decode01_of_major _ rfl]; simp [decode01, Fields.fmtA, zero, limit, bind, Except.bind, w]
theorem clz (d a) : Statement (.clz d a) := fun w _ h => by
  cases h; rw [decode01_of_major _ rfl]; simp [decode01, Fields.fmtA, zero, limit, bind, Except.bind, w]
theorem popc (d a) : Statement (.popc d a) := fun w _ h => by
  cases h; rw [decode01_of_major _ rfl]; simp [decode01, Fields.fmtA, zero, limit, bind, Except.bind, w]
theorem sextB (d a) : Statement (.sextB d a) := fun w _ h => by
  cases h; rw [decode01_of_major _ rfl]; simp [decode01, Fields.fmtA, zero, limit, bind, Except.bind, w]
theorem sextH (d a) : Statement (.sextH d a) := fun w _ h => by
  cases h; rw [decode01_of_major _ rfl]; simp [decode01, Fields.fmtA, zero, limit, bind, Except.bind, w]
theorem sextW (d a) : Statement (.sextW d a) := fun w _ h => by
  cases h; rw [decode01_of_major _ rfl]; simp [decode01, Fields.fmtA, zero, limit, bind, Except.bind, w]
theorem zextB (d a) : Statement (.zextB d a) := fun w _ h => by
  cases h; rw [decode01_of_major _ rfl]; simp [decode01, Fields.fmtA, zero, limit, bind, Except.bind, w]
theorem zextH (d a) : Statement (.zextH d a) := fun w _ h => by
  cases h; rw [decode01_of_major _ rfl]; simp [decode01, Fields.fmtA, zero, limit, bind, Except.bind, w]
theorem zextW (d a) : Statement (.zextW d a) := fun w _ h => by
  cases h; rw [decode01_of_major _ rfl]; simp [decode01, Fields.fmtA, zero, limit, bind, Except.bind, w]
theorem addi (d a imm) : Statement (.addi d a imm) := fun w _ h => by
  cases h; rw [decode02_of_major _ rfl]; simp [decode02, fmtI_imm13]; simp [Fields.fmtI, zero, limit, bind, Except.bind, w]
theorem andi (d a imm) : Statement (.andi d a imm) := fun w _ h => by
  cases h; rw [decode03_of_major _ rfl]; simp [decode03, fmtI_imm13]; simp [Fields.fmtI, zero, limit, bind, Except.bind, w]
theorem ori (d a imm) : Statement (.ori d a imm) := fun w _ h => by
  cases h; rw [decode04_of_major _ rfl]; simp [decode04, fmtI_imm13]; simp [Fields.fmtI, zero, limit, bind, Except.bind, w]
theorem xori (d a imm) : Statement (.xori d a imm) := fun w _ h => by
  cases h; rw [decode05_of_major _ rfl]; simp [decode05, fmtI_imm13]; simp [Fields.fmtI, zero, limit, bind, Except.bind, w]
theorem slli (d a imm) : Statement (.slli d a imm) := fun w _ h => by
  cases h; rw [decode06_of_major _ rfl]; simp [decode06, fmtI_imm13]; simp [Fields.fmtI, zero, limit, bind, Except.bind, w]
theorem srli (d a imm) : Statement (.srli d a imm) := fun w _ h => by
  cases h; rw [decode07_of_major _ rfl]; simp [decode07, fmtI_imm13]; simp [Fields.fmtI, zero, limit, bind, Except.bind, w]
theorem srai (d a imm) : Statement (.srai d a imm) := fun w _ h => by
  cases h; rw [decode08_of_major _ rfl]; simp [decode08, fmtI_imm13]; simp [Fields.fmtI, zero, limit, bind, Except.bind, w]
theorem cmpEq (d a b) : Statement (.cmpEq d a b) := fun w _ h => by
  cases h; rw [decode09_of_major _ rfl]; simp [decode09, Fields.fmtA, zero, limit, bind, Except.bind, w]
theorem cmpNe (d a b) : Statement (.cmpNe d a b) := fun w _ h => by
  cases h; rw [decode09_of_major _ rfl]; simp [decode09, Fields.fmtA, zero, limit, bind, Except.bind, w]
theorem cmpLt (d a b) : Statement (.cmpLt d a b) := fun w _ h => by
  cases h; rw [decode09_of_major _ rfl]; simp [decode09, Fields.fmtA, zero, limit, bind, Except.bind, w]
theorem cmpGe (d a b) : Statement (.cmpGe d a b) := fun w _ h => by
  cases h; rw [decode09_of_major _ rfl]; simp [decode09, Fields.fmtA, zero, limit, bind, Except.bind, w]
theorem cmpLtu (d a b) : Statement (.cmpLtu d a b) := fun w _ h => by
  cases h; rw [decode09_of_major _ rfl]; simp [decode09, Fields.fmtA, zero, limit, bind, Except.bind, w]
theorem cmpGeu (d a b) : Statement (.cmpGeu d a b) := fun w _ h => by
  cases h; rw [decode09_of_major _ rfl]; simp [decode09, Fields.fmtA, zero, limit, bind, Except.bind, w]
theorem cmpiEq (d a imm) : Statement (.cmpiEq d a imm) := fun w _ h => by
  cases h; rw [decode0A_of_major _ rfl]; simp [decode0A, fmtI_imm13]; simp [Fields.fmtI, zero, limit, bind, Except.bind, w]
theorem cmpiNe (d a imm) : Statement (.cmpiNe d a imm) := fun w _ h => by
  cases h; rw [decode0B_of_major _ rfl]; simp [decode0B, fmtI_imm13]; simp [Fields.fmtI, zero, limit, bind, Except.bind, w]
theorem cmpiLt (d a imm) : Statement (.cmpiLt d a imm) := fun w _ h => by
  cases h; rw [decode0C_of_major _ rfl]; simp [decode0C, fmtI_imm13]; simp [Fields.fmtI, zero, limit, bind, Except.bind, w]
theorem cmpiGe (d a imm) : Statement (.cmpiGe d a imm) := fun w _ h => by
  cases h; rw [decode0D_of_major _ rfl]; simp [decode0D, fmtI_imm13]; simp [Fields.fmtI, zero, limit, bind, Except.bind, w]
theorem pand (d a b) : Statement (.pand d a b) := fun w _ h => by
  cases h; rw [decode0E_of_major _ rfl]; simp [decode0E, Fields.fmtA, zero, limit, bind, Except.bind, w]
theorem por (d a b) : Statement (.por d a b) := fun w _ h => by
  cases h; rw [decode0E_of_major _ rfl]; simp [decode0E, Fields.fmtA, zero, limit, bind, Except.bind, w]
theorem pxor (d a b) : Statement (.pxor d a b) := fun w _ h => by
  cases h; rw [decode0E_of_major _ rfl]; simp [decode0E, Fields.fmtA, zero, limit, bind, Except.bind, w]
theorem pandn (d a b) : Statement (.pandn d a b) := fun w _ h => by
  cases h; rw [decode0E_of_major _ rfl]; simp [decode0E, Fields.fmtA, zero, limit, bind, Except.bind, w]
theorem pnot (d a) : Statement (.pnot d a) := fun w _ h => by
  cases h; rw [decode0E_of_major _ rfl]; simp [decode0E, Fields.fmtA, zero, limit, bind, Except.bind, w]
theorem pmov (d a) : Statement (.pmov d a) := fun w _ h => by
  cases h; rw [decode0E_of_major _ rfl]; simp [decode0E, Fields.fmtA, zero, limit, bind, Except.bind, w]
theorem movi (d imm) : Statement (.movi d imm) := fun w _ h => by
  cases h; rw [decode0F_of_major _ rfl]; simp [decode0F, fmtL_imm19]; simp [Fields.fmtL, zero, limit, bind, Except.bind, w]
theorem movhi (d imm) : Statement (.movhi d imm) := fun w _ h => by
  cases h; rw [decode10_of_major _ rfl]; simp [decode10, fmtL_imm19]; simp [Fields.fmtL, zero, limit, bind, Except.bind, w]
theorem adr (d imm) : Statement (.adr d imm) := fun w _ h => by
  cases h; rw [decode11_of_major _ rfl]; simp [decode11, fmtL_imm19]; simp [Fields.fmtL, zero, limit, bind, Except.bind, w]
theorem ldB (d base off) : Statement (.ldB d base off) := fun w _ h => by
  cases h; rw [decode12_of_major _ rfl]; simp [decode12, fmtM_mode, fmtM_off10]; simp [Fields.fmtM, bind, Except.bind]
theorem ldBU (d base off) : Statement (.ldBU d base off) := fun w _ h => by
  cases h; rw [decode12_of_major _ rfl]; simp [decode12, fmtM_mode, fmtM_off10]; simp [Fields.fmtM, bind, Except.bind]
theorem ldH (d base off) : Statement (.ldH d base off) := fun w _ h => by
  cases h; rw [decode13_of_major _ rfl]; simp [decode13, fmtM_mode, fmtM_off10]; simp [Fields.fmtM, bind, Except.bind]
theorem ldHU (d base off) : Statement (.ldHU d base off) := fun w _ h => by
  cases h; rw [decode13_of_major _ rfl]; simp [decode13, fmtM_mode, fmtM_off10]; simp [Fields.fmtM, bind, Except.bind]
theorem ldW (d base off) : Statement (.ldW d base off) := fun w _ h => by
  cases h; rw [decode14_of_major _ rfl]; simp [decode14, fmtM_mode, fmtM_off10]; simp [Fields.fmtM, bind, Except.bind]
theorem ldWU (d base off) : Statement (.ldWU d base off) := fun w _ h => by
  cases h; rw [decode14_of_major _ rfl]; simp [decode14, fmtM_mode, fmtM_off10]; simp [Fields.fmtM, bind, Except.bind]
theorem ldD (d base off) : Statement (.ldD d base off) := fun w _ h => by
  cases h; rw [decode15_of_major _ rfl]; simp [decode15, fmtM_mode, fmtM_off10]; simp [Fields.fmtM, bind, Except.bind]
theorem stB (d base off) : Statement (.stB d base off) := fun w _ h => by
  cases h; rw [decode16_of_major _ rfl]; simp [decode16, fmtM_mode, fmtM_off10]; simp [Fields.fmtM, bind, Except.bind]
theorem stH (d base off) : Statement (.stH d base off) := fun w _ h => by
  cases h; rw [decode17_of_major _ rfl]; simp [decode17, fmtM_mode, fmtM_off10]; simp [Fields.fmtM, bind, Except.bind]
theorem stW (d base off) : Statement (.stW d base off) := fun w _ h => by
  cases h; rw [decode18_of_major _ rfl]; simp [decode18, fmtM_mode, fmtM_off10]; simp [Fields.fmtM, bind, Except.bind]
theorem stD (d base off) : Statement (.stD d base off) := fun w _ h => by
  cases h; rw [decode19_of_major _ rfl]; simp [decode19, fmtM_mode, fmtM_off10]; simp [Fields.fmtM, bind, Except.bind]
theorem ldeF32 (d base off) : Statement (.ldeF32 d base off) := fun w _ h => by
  cases h; rw [decode1A_of_major _ rfl]; simp [decode1A, fmtM_mode, fmtM_off10]; simp [Fields.fmtM, bind, Except.bind]
theorem ldeI64 (d base off) : Statement (.ldeI64 d base off) := fun w _ h => by
  cases h; rw [decode1A_of_major _ rfl]; simp [decode1A, fmtM_mode, fmtM_off10]; simp [Fields.fmtM, bind, Except.bind]
theorem ldeRaw (d base off) : Statement (.ldeRaw d base off) := fun w _ h => by
  cases h; rw [decode1A_of_major _ rfl]; simp [decode1A, fmtM_mode, fmtM_off10]; simp [Fields.fmtM, bind, Except.bind]
theorem steF32 (d base off) : Statement (.steF32 d base off) := fun w _ h => by
  cases h; rw [decode1B_of_major _ rfl]; simp [decode1B, fmtM_mode, fmtM_off10]; simp [Fields.fmtM, bind, Except.bind]
theorem steI64 (d base off) : Statement (.steI64 d base off) := fun w _ h => by
  cases h; rw [decode1B_of_major _ rfl]; simp [decode1B, fmtM_mode, fmtM_off10]; simp [Fields.fmtM, bind, Except.bind]
theorem steRaw (d base off) : Statement (.steRaw d base off) := fun w _ h => by
  cases h; rw [decode1B_of_major _ rfl]; simp [decode1B, fmtM_mode, fmtM_off10]; simp [Fields.fmtM, bind, Except.bind]
theorem ldAcq (d base scope off) : Statement (.ldAcq d base scope off) := fun w _ h => by
  cases h; rw [decode1C_of_major _ rfl]; simp [decode1C, fmtM_mode, fmtM_off10]; simp [Fields.fmtM, bind, Except.bind]
theorem stRel (d base scope off) : Statement (.stRel d base scope off) := fun w _ h => by
  cases h; rw [decode1D_of_major _ rfl]; simp [decode1D, fmtM_mode, fmtM_off10]; simp [Fields.fmtM, bind, Except.bind]
theorem ldBndS (d base bound t) : Statement (.ldBndS d base bound t) := fun w _ h => by
  cases h; rw [decode1E_of_major _ rfl]
  simp only [decode1E, fmtM_mode, fmtM_off10, extract_upper bound t, extract_lower bound t]; rfl
theorem ldBndF (d base bound t) : Statement (.ldBndF d base bound t) := fun w _ h => by
  cases h; rw [decode1E_of_major _ rfl]
  simp only [decode1E, fmtM_mode, fmtM_off10, extract_upper bound t, extract_lower bound t]; rfl
theorem amoAdd (d a b scope) : Statement (.amoAdd d a b scope) := fun w _ h => by
  cases h; rw [decode1F_of_major _ rfl]; cases scope <;> simp [Scope.code, scopeField, decode1F, Fields.fmtA, zero, limit, bind, Except.bind, w]
theorem amoAnd (d a b scope) : Statement (.amoAnd d a b scope) := fun w _ h => by
  cases h; rw [decode1F_of_major _ rfl]; cases scope <;> simp [Scope.code, scopeField, decode1F, Fields.fmtA, zero, limit, bind, Except.bind, w]
theorem amoOr (d a b scope) : Statement (.amoOr d a b scope) := fun w _ h => by
  cases h; rw [decode1F_of_major _ rfl]; cases scope <;> simp [Scope.code, scopeField, decode1F, Fields.fmtA, zero, limit, bind, Except.bind, w]
theorem amoXor (d a b scope) : Statement (.amoXor d a b scope) := fun w _ h => by
  cases h; rw [decode1F_of_major _ rfl]; cases scope <;> simp [Scope.code, scopeField, decode1F, Fields.fmtA, zero, limit, bind, Except.bind, w]
theorem amoMin (d a b scope) : Statement (.amoMin d a b scope) := fun w _ h => by
  cases h; rw [decode1F_of_major _ rfl]; cases scope <;> simp [Scope.code, scopeField, decode1F, Fields.fmtA, zero, limit, bind, Except.bind, w]
theorem amoMax (d a b scope) : Statement (.amoMax d a b scope) := fun w _ h => by
  cases h; rw [decode1F_of_major _ rfl]; cases scope <;> simp [Scope.code, scopeField, decode1F, Fields.fmtA, zero, limit, bind, Except.bind, w]
theorem amoMinu (d a b scope) : Statement (.amoMinu d a b scope) := fun w _ h => by
  cases h; rw [decode1F_of_major _ rfl]; cases scope <;> simp [Scope.code, scopeField, decode1F, Fields.fmtA, zero, limit, bind, Except.bind, w]
theorem amoMaxu (d a b scope) : Statement (.amoMaxu d a b scope) := fun w _ h => by
  cases h; rw [decode1F_of_major _ rfl]; cases scope <;> simp [Scope.code, scopeField, decode1F, Fields.fmtA, zero, limit, bind, Except.bind, w]
theorem amoSwap (d a b scope) : Statement (.amoSwap d a b scope) := fun w _ h => by
  cases h; rw [decode1F_of_major _ rfl]; cases scope <;> simp [Scope.code, scopeField, decode1F, Fields.fmtA, zero, limit, bind, Except.bind, w]
theorem amoCas (d a b scope) : Statement (.amoCas d a b scope) := fun w _ h => by
  cases h; rw [decode1F_of_major _ rfl]; cases scope <;> simp [Scope.code, scopeField, decode1F, Fields.fmtA, zero, limit, bind, Except.bind, w]
theorem bz (a off) : Statement (.bz a off) := fun w _ h => by
  cases h; rw [decode20_of_major _ rfl]; simp [decode20, fmtL_imm19]; simp [Fields.fmtL, zero, limit, bind, Except.bind, w]
theorem bnz (a off) : Statement (.bnz a off) := fun w _ h => by
  cases h; rw [decode21_of_major _ rfl]; simp [decode21, fmtL_imm19]; simp [Fields.fmtL, zero, limit, bind, Except.bind, w]
theorem bp (a off) : Statement (.bp a off) := fun w _ h => by
  cases h; rw [decode22_of_major _ rfl]; simp [decode22, fmtL_imm19]; simp [Fields.fmtL, zero, limit, bind, Except.bind, w]
theorem bnp (a off) : Statement (.bnp a off) := fun w _ h => by
  cases h; rw [decode23_of_major _ rfl]; simp [decode23, fmtL_imm19]; simp [Fields.fmtL, zero, limit, bind, Except.bind, w]
theorem call (d imm) : Statement (.call d imm) := fun w _ h => by
  cases h; rw [decode24_of_major _ rfl]; simp [decode24, fmtL_imm19]; simp [Fields.fmtL, zero, limit, bind, Except.bind, w]
theorem jmp (imm) : Statement (.jmp imm) := fun w _ h => by
  cases h; rw [decode25_of_major _ rfl]; simp [decode25, fmtL_imm19]; simp [Fields.fmtL, zero, limit, bind, Except.bind, w]
theorem callReg (d a imm) : Statement (.callReg d a imm) := fun w _ h => by
  cases h; rw [decode26_of_major _ rfl]
  simp only [decode26, fmtI_imm13]; simp [Instr.wf] at w; simp [Fields.fmtI, w]
theorem jmpReg (a imm) : Statement (.jmpReg a imm) := fun w _ h => by
  cases h; rw [decode26_of_major _ rfl]; simp [decode26, fmtI_imm13]; simp [Fields.fmtI, zero, limit, bind, Except.bind, w]
theorem ret (a) : Statement (.ret a) := fun w _ h => by
  cases h; rw [decode27_of_major _ rfl]; simp [decode27, Fields.fmtA, zero, limit, bind, Except.bind, w]
theorem loopv (a len) : Statement (.loopv a len) := fun w _ h => by
  cases h; rw [decode28_of_major _ rfl]; simp [decode28, fmtL_imm19]; simp [Fields.fmtL, zero, limit, bind, Except.bind, w]
theorem nop : Statement (.nop) := fun w _ h => by
  cases h; rw [decode30_of_major _ rfl]; simp [decode30, Fields.fmtA, zero, limit, bind, Except.bind, w]
theorem trap (code) : Statement (.trap code) := fun w _ h => by
  cases h; rw [decode30_of_major _ rfl]; simp [decode30, Fields.fmtA, zero, limit, bind, Except.bind, w]
theorem brk : Statement (.brk) := fun w _ h => by
  cases h; rw [decode30_of_major _ rfl]; simp [decode30, Fields.fmtA, zero, limit, bind, Except.bind, w]
theorem eret : Statement (.eret) := fun w _ h => by
  cases h; rw [decode30_of_major _ rfl]; simp [decode30, Fields.fmtA, zero, limit, bind, Except.bind, w]
theorem wfe (a b) : Statement (.wfe a b) := fun w _ h => by
  cases h; rw [decode30_of_major _ rfl]; simp [decode30, Fields.fmtA, zero, limit, bind, Except.bind, w]
theorem sev (scope) : Statement (.sev scope) := fun w _ h => by
  cases h; rw [decode30_of_major _ rfl]
  cases scope <;> first | rfl | (simp [Instr.wf] at w)
theorem yield : Statement (.yield) := fun w _ h => by
  cases h; rw [decode30_of_major _ rfl]; simp [decode30, Fields.fmtA, zero, limit, bind, Except.bind, w]
theorem modeX : Statement (.modeX) := fun w _ h => by
  cases h; rw [decode30_of_major _ rfl]; simp [decode30, Fields.fmtA, zero, limit, bind, Except.bind, w]
theorem modeI : Statement (.modeI) := fun w _ h => by
  cases h; rw [decode30_of_major _ rfl]; simp [decode30, Fields.fmtA, zero, limit, bind, Except.bind, w]
theorem icinv : Statement (.icinv) := fun w _ h => by
  cases h; rw [decode30_of_major _ rfl]; simp [decode30, Fields.fmtA, zero, limit, bind, Except.bind, w]
theorem mfs (d reg) : Statement (.mfs d reg) := fun w _ h => by
  cases h; rw [decode31_of_major _ rfl]; simp [decode31, fmtL_imm19]; simp [Fields.fmtL, zero, limit, bind, Except.bind, w]
theorem mts (reg src) : Statement (.mts reg src) := fun w _ h => by
  cases h; rw [decode32_of_major _ rfl]; simp [decode32, fmtL_imm19]; simp [Fields.fmtL, zero, limit, bind, Except.bind, w]
theorem sleepUntil (a) : Statement (.sleepUntil a) := fun w _ h => by
  cases h; rw [decode33_of_major _ rfl]; simp [decode33, Fields.fmtA, zero, limit, bind, Except.bind, w]
theorem blendw (a b) : Statement (.blendw a b) := fun w _ h => by
  cases h; rw [decode34_of_major _ rfl]; simp [decode34, Fields.fmtA, zero, limit, bind, Except.bind, w]
theorem tlbinv (a b) : Statement (.tlbinv a b) := fun w _ h => by
  cases h; rw [decode35_of_major _ rfl]; simp [decode35, Fields.fmtA, zero, limit, bind, Except.bind, w]
theorem asidSet (a) : Statement (.asidSet a) := fun w _ h => by
  cases h; rw [decode36_of_major _ rfl]; simp [decode36, Fields.fmtA, zero, limit, bind, Except.bind, w]
theorem vcfg (d nreg wmax mz) : Statement (.vcfg d nreg wmax mz) := fun w _ h => by
  cases h; rw [decode38_of_major _ rfl]
  simp only [decode38, fmtI_imm13]
  have h1 : ((0 : BitVec 8) ++ (mz ++ (wmax ++ nreg))).extractLsb' 5 8 = 0 := extract_upper (0 : BitVec 8) (mz ++ (wmax ++ nreg))
  have h2 : ∀ (mz : BitVec 1) (wmax nreg : BitVec 2), ((0 : BitVec 8) ++ (mz ++ (wmax ++ nreg))).extractLsb' 0 2 = nreg := by decide
  have h3 : ∀ (mz : BitVec 1) (wmax nreg : BitVec 2), ((0 : BitVec 8) ++ (mz ++ (wmax ++ nreg))).extractLsb' 2 2 = wmax := by decide
  have h4 : ∀ (mz : BitVec 1) (wmax nreg : BitVec 2), ((0 : BitVec 8) ++ (mz ++ (wmax ++ nreg))).extractLsb' 4 1 = mz := by decide
  rw [h1, h2, h3, h4]; simp [Fields.fmtI, zero, limit, bind, Except.bind, w]
theorem setvl (d a) : Statement (.setvl d a) := fun w _ h => by
  cases h; rw [decode39_of_major _ rfl]; simp [decode39, Fields.fmtA, zero, limit, bind, Except.bind, w]
theorem vadd (d a b) : Statement (.vadd d a b) := fun w _ h => by
  cases h; rw [decode40_of_major _ rfl]; simp [decode40, Fields.fmtA, zero, limit, bind, Except.bind, w]
theorem vsub (d a b) : Statement (.vsub d a b) := fun w _ h => by
  cases h; rw [decode40_of_major _ rfl]; simp [decode40, Fields.fmtA, zero, limit, bind, Except.bind, w]
theorem vmul (d a b) : Statement (.vmul d a b) := fun w _ h => by
  cases h; rw [decode40_of_major _ rfl]; simp [decode40, Fields.fmtA, zero, limit, bind, Except.bind, w]
theorem vfma (d a b) : Statement (.vfma d a b) := fun w _ h => by
  cases h; rw [decode40_of_major _ rfl]; simp [decode40, Fields.fmtA, zero, limit, bind, Except.bind, w]
theorem vfms (d a b) : Statement (.vfms d a b) := fun w _ h => by
  cases h; rw [decode40_of_major _ rfl]; simp [decode40, Fields.fmtA, zero, limit, bind, Except.bind, w]
theorem vmin (d a b) : Statement (.vmin d a b) := fun w _ h => by
  cases h; rw [decode40_of_major _ rfl]; simp [decode40, Fields.fmtA, zero, limit, bind, Except.bind, w]
theorem vmax (d a b) : Statement (.vmax d a b) := fun w _ h => by
  cases h; rw [decode40_of_major _ rfl]; simp [decode40, Fields.fmtA, zero, limit, bind, Except.bind, w]
theorem vabs (d a) : Statement (.vabs d a) := fun w _ h => by
  cases h; rw [decode40_of_major _ rfl]; simp [decode40, Fields.fmtA, zero, limit, bind, Except.bind, w]
theorem vneg (d a) : Statement (.vneg d a) := fun w _ h => by
  cases h; rw [decode40_of_major _ rfl]; simp [decode40, Fields.fmtA, zero, limit, bind, Except.bind, w]
theorem vdiv (d a b) : Statement (.vdiv d a b) := fun w _ h => by
  cases h; rw [decode40_of_major _ rfl]; simp [decode40, Fields.fmtA, zero, limit, bind, Except.bind, w]
theorem vexp (d a) : Statement (.vexp d a) := fun w _ h => by
  cases h; rw [decode41_of_major _ rfl]; simp [decode41, Fields.fmtA, zero, limit, bind, Except.bind, w]
theorem vlog (d a) : Statement (.vlog d a) := fun w _ h => by
  cases h; rw [decode41_of_major _ rfl]; simp [decode41, Fields.fmtA, zero, limit, bind, Except.bind, w]
theorem vrcp (d a) : Statement (.vrcp d a) := fun w _ h => by
  cases h; rw [decode41_of_major _ rfl]; simp [decode41, Fields.fmtA, zero, limit, bind, Except.bind, w]
theorem vrsqrt (d a) : Statement (.vrsqrt d a) := fun w _ h => by
  cases h; rw [decode41_of_major _ rfl]; simp [decode41, Fields.fmtA, zero, limit, bind, Except.bind, w]
theorem vtanh (d a) : Statement (.vtanh d a) := fun w _ h => by
  cases h; rw [decode41_of_major _ rfl]; simp [decode41, Fields.fmtA, zero, limit, bind, Except.bind, w]
theorem vsigm (d a) : Statement (.vsigm d a) := fun w _ h => by
  cases h; rw [decode41_of_major _ rfl]; simp [decode41, Fields.fmtA, zero, limit, bind, Except.bind, w]
theorem vsin (d a) : Statement (.vsin d a) := fun w _ h => by
  cases h; rw [decode41_of_major _ rfl]; simp [decode41, Fields.fmtA, zero, limit, bind, Except.bind, w]
theorem vcos (d a) : Statement (.vcos d a) := fun w _ h => by
  cases h; rw [decode41_of_major _ rfl]; simp [decode41, Fields.fmtA, zero, limit, bind, Except.bind, w]
theorem vcmpEq (d a b) : Statement (.vcmpEq d a b) := fun w _ h => by
  cases h; rw [decode42_of_major _ rfl]; simp [decode42, Fields.fmtA, zero, limit, bind, Except.bind, w]
theorem vcmpNe (d a b) : Statement (.vcmpNe d a b) := fun w _ h => by
  cases h; rw [decode42_of_major _ rfl]; simp [decode42, Fields.fmtA, zero, limit, bind, Except.bind, w]
theorem vcmpLt (d a b) : Statement (.vcmpLt d a b) := fun w _ h => by
  cases h; rw [decode42_of_major _ rfl]; simp [decode42, Fields.fmtA, zero, limit, bind, Except.bind, w]
theorem vcmpLe (d a b) : Statement (.vcmpLe d a b) := fun w _ h => by
  cases h; rw [decode42_of_major _ rfl]; simp [decode42, Fields.fmtA, zero, limit, bind, Except.bind, w]
theorem vcmpGt (d a b) : Statement (.vcmpGt d a b) := fun w _ h => by
  cases h; rw [decode42_of_major _ rfl]; simp [decode42, Fields.fmtA, zero, limit, bind, Except.bind, w]
theorem vcmpGe (d a b) : Statement (.vcmpGe d a b) := fun w _ h => by
  cases h; rw [decode42_of_major _ rfl]; simp [decode42, Fields.fmtA, zero, limit, bind, Except.bind, w]
theorem vsel (d a b c) : Statement (.vsel d a b c) := fun w _ h => by
  cases h; rw [decode43_of_major _ rfl]
  simp only [decode43, Fields.fmtA, extract_upper (0 : BitVec 3) c, extract_lower (0 : BitVec 3) c]; rfl
theorem vand (d a b) : Statement (.vand d a b) := fun w _ h => by
  cases h; rw [decode44_of_major _ rfl]; simp [decode44, Fields.fmtA, zero, limit, bind, Except.bind, w]
theorem vor (d a b) : Statement (.vor d a b) := fun w _ h => by
  cases h; rw [decode44_of_major _ rfl]; simp [decode44, Fields.fmtA, zero, limit, bind, Except.bind, w]
theorem vxor (d a b) : Statement (.vxor d a b) := fun w _ h => by
  cases h; rw [decode44_of_major _ rfl]; simp [decode44, Fields.fmtA, zero, limit, bind, Except.bind, w]
theorem vandn (d a b) : Statement (.vandn d a b) := fun w _ h => by
  cases h; rw [decode44_of_major _ rfl]; simp [decode44, Fields.fmtA, zero, limit, bind, Except.bind, w]
theorem vnot (d a) : Statement (.vnot d a) := fun w _ h => by
  cases h; rw [decode44_of_major _ rfl]; simp [decode44, Fields.fmtA, zero, limit, bind, Except.bind, w]
theorem vsll (d a b) : Statement (.vsll d a b) := fun w _ h => by
  cases h; rw [decode45_of_major _ rfl]; simp [decode45, Fields.fmtA, zero, limit, bind, Except.bind, w]
theorem vsrl (d a b) : Statement (.vsrl d a b) := fun w _ h => by
  cases h; rw [decode45_of_major _ rfl]; simp [decode45, Fields.fmtA, zero, limit, bind, Except.bind, w]
theorem vsra (d a b) : Statement (.vsra d a b) := fun w _ h => by
  cases h; rw [decode45_of_major _ rfl]; simp [decode45, Fields.fmtA, zero, limit, bind, Except.bind, w]
theorem vcvt (d a fmt) : Statement (.vcvt d a fmt) := fun w _ h => by
  cases h; rw [decode46_of_major _ rfl]; simp [decode46, Fields.fmtA, zero, limit, bind, Except.bind, w]
theorem vcvtSat (d a fmt) : Statement (.vcvtSat d a fmt) := fun w _ h => by
  cases h; rw [decode46_of_major _ rfl]; simp [decode46, Fields.fmtA, zero, limit, bind, Except.bind, w]
theorem vcvtFit (d a fmt) : Statement (.vcvtFit d a fmt) := fun w _ h => by
  cases h; rw [decode46_of_major _ rfl]; simp [decode46, Fields.fmtA, zero, limit, bind, Except.bind, w]
theorem vretag (d a fmt) : Statement (.vretag d a fmt) := fun w _ h => by
  cases h; rw [decode46_of_major _ rfl]; simp [decode46, Fields.fmtA, zero, limit, bind, Except.bind, w]
theorem vscale (d a b) : Statement (.vscale d a b) := fun w _ h => by
  cases h; rw [decode46_of_major _ rfl]; simp [decode46, Fields.fmtA, zero, limit, bind, Except.bind, w]
theorem vtag (d a) : Statement (.vtag d a) := fun w _ h => by
  cases h; rw [decode46_of_major _ rfl]; simp [decode46, Fields.fmtA, zero, limit, bind, Except.bind, w]
theorem vtagRd (d a) : Statement (.vtagRd d a) := fun w _ h => by
  cases h; rw [decode46_of_major _ rfl]; simp [decode46, Fields.fmtA, zero, limit, bind, Except.bind, w]
theorem vbcastF32 (d a fmt) : Statement (.vbcastF32 d a fmt) := fun w _ h => by
  cases h; rw [decode47_of_major _ rfl]; simp [decode47, Fields.fmtA, zero, limit, bind, Except.bind, w]
theorem vbcastI64 (d a fmt) : Statement (.vbcastI64 d a fmt) := fun w _ h => by
  cases h; rw [decode47_of_major _ rfl]; simp [decode47, Fields.fmtA, zero, limit, bind, Except.bind, w]
theorem vbcastRaw (d a fmt) : Statement (.vbcastRaw d a fmt) := fun w _ h => by
  cases h; rw [decode47_of_major _ rfl]; simp [decode47, Fields.fmtA, zero, limit, bind, Except.bind, w]
theorem vbcastEl (d a b) : Statement (.vbcastEl d a b) := fun w _ h => by
  cases h; rw [decode47_of_major _ rfl]; simp [decode47, Fields.fmtA, zero, limit, bind, Except.bind, w]
theorem vredAdd (d a b) : Statement (.vredAdd d a b) := fun w _ h => by
  cases h; rw [decode48_of_major _ rfl]; simp [decode48, Fields.fmtA, zero, limit, bind, Except.bind, w]
theorem vredMin (d a b) : Statement (.vredMin d a b) := fun w _ h => by
  cases h; rw [decode48_of_major _ rfl]; simp [decode48, Fields.fmtA, zero, limit, bind, Except.bind, w]
theorem vredMax (d a b) : Statement (.vredMax d a b) := fun w _ h => by
  cases h; rw [decode48_of_major _ rfl]; simp [decode48, Fields.fmtA, zero, limit, bind, Except.bind, w]
theorem vredAnd (d a b) : Statement (.vredAnd d a b) := fun w _ h => by
  cases h; rw [decode48_of_major _ rfl]; simp [decode48, Fields.fmtA, zero, limit, bind, Except.bind, w]
theorem vredOr (d a b) : Statement (.vredOr d a b) := fun w _ h => by
  cases h; rw [decode48_of_major _ rfl]; simp [decode48, Fields.fmtA, zero, limit, bind, Except.bind, w]
theorem vredXor (d a b) : Statement (.vredXor d a b) := fun w _ h => by
  cases h; rw [decode48_of_major _ rfl]; simp [decode48, Fields.fmtA, zero, limit, bind, Except.bind, w]
theorem vdot (d a b) : Statement (.vdot d a b) := fun w _ h => by
  cases h; rw [decode48_of_major _ rfl]; simp [decode48, Fields.fmtA, zero, limit, bind, Except.bind, w]
theorem viota (d a fmt) : Statement (.viota d a fmt) := fun w _ h => by
  cases h; rw [decode49_of_major _ rfl]; simp [decode49, Fields.fmtA, zero, limit, bind, Except.bind, w]
theorem vperm (d a b) : Statement (.vperm d a b) := fun w _ h => by
  cases h; rw [decode4A_of_major _ rfl]; simp [decode4A, Fields.fmtA, zero, limit, bind, Except.bind, w]
theorem vrot (d a b) : Statement (.vrot d a b) := fun w _ h => by
  cases h; rw [decode4A_of_major _ rfl]; simp [decode4A, Fields.fmtA, zero, limit, bind, Except.bind, w]
theorem vslideup (d a b) : Statement (.vslideup d a b) := fun w _ h => by
  cases h; rw [decode4A_of_major _ rfl]; simp [decode4A, Fields.fmtA, zero, limit, bind, Except.bind, w]
theorem vslidedn (d a b) : Statement (.vslidedn d a b) := fun w _ h => by
  cases h; rw [decode4A_of_major _ rfl]; simp [decode4A, Fields.fmtA, zero, limit, bind, Except.bind, w]
theorem vcompress (d a b) : Statement (.vcompress d a b) := fun w _ h => by
  cases h; rw [decode4B_of_major _ rfl]; simp [decode4B, Fields.fmtA, zero, limit, bind, Except.bind, w]
theorem vexpand (d a b) : Statement (.vexpand d a b) := fun w _ h => by
  cases h; rw [decode4B_of_major _ rfl]; simp [decode4B, Fields.fmtA, zero, limit, bind, Except.bind, w]
theorem vld (d base off) : Statement (.vld d base off) := fun w _ h => by
  cases h; rw [decode4C_of_major _ rfl]; simp [decode4C, fmtM_mode, fmtM_off10]; simp [Fields.fmtM, bind, Except.bind]
theorem vldQ (d base off) : Statement (.vldQ d base off) := fun w _ h => by
  cases h; rw [decode4C_of_major _ rfl]; simp [decode4C, fmtM_mode, fmtM_off10]; simp [Fields.fmtM, bind, Except.bind]
theorem vst (d base off) : Statement (.vst d base off) := fun w _ h => by
  cases h; rw [decode4D_of_major _ rfl]; simp [decode4D, fmtM_mode, fmtM_off10]; simp [Fields.fmtM, bind, Except.bind]
theorem vlds (d a b) : Statement (.vlds d a b) := fun w _ h => by
  cases h; rw [decode4E_of_major _ rfl]; simp [decode4E, Fields.fmtA, zero, limit, bind, Except.bind, w]
theorem vsts (d a b) : Statement (.vsts d a b) := fun w _ h => by
  cases h; rw [decode4F_of_major _ rfl]; simp [decode4F, Fields.fmtA, zero, limit, bind, Except.bind, w]
theorem vldx (d a b) : Statement (.vldx d a b) := fun w _ h => by
  cases h; rw [decode50_of_major _ rfl]; simp [decode50, Fields.fmtA, zero, limit, bind, Except.bind, w]
theorem vstx (d a b) : Statement (.vstx d a b) := fun w _ h => by
  cases h; rw [decode51_of_major _ rfl]; simp [decode51, Fields.fmtA, zero, limit, bind, Except.bind, w]
theorem vsctadd (d a b scope) : Statement (.vsctadd d a b scope) := fun w _ h => by
  cases h; rw [decode52_of_major _ rfl]; cases scope <;> simp [Scope.code, scopeField, decode52, Fields.fmtA, zero, limit, bind, Except.bind, w]
theorem vldSc (d base off) : Statement (.vldSc d base off) := fun w _ h => by
  cases h; rw [decode53_of_major _ rfl]; simp [decode53, fmtM_mode, fmtM_off10]; simp [Fields.fmtM, bind, Except.bind]
theorem vstSc (d base off) : Statement (.vstSc d base off) := fun w _ h => by
  cases h; rw [decode54_of_major _ rfl]; simp [decode54, fmtM_mode, fmtM_off10]; simp [Fields.fmtM, bind, Except.bind]
theorem vldBndS (d base bound t) : Statement (.vldBndS d base bound t) := fun w _ h => by
  cases h; rw [decode55_of_major _ rfl]
  simp only [decode55, fmtM_mode, fmtM_off10, extract_upper bound t, extract_lower bound t]; rfl
theorem vldBndF (d base bound t) : Statement (.vldBndF d base bound t) := fun w _ h => by
  cases h; rw [decode55_of_major _ rfl]
  simp only [decode55, fmtM_mode, fmtM_off10, extract_upper bound t, extract_lower bound t]; rfl
theorem stripOpen (d a b) : Statement (.stripOpen d a b) := fun w _ h => by
  cases h; rw [decode56_of_major _ rfl]; simp [decode56, Fields.fmtA, zero, limit, bind, Except.bind, w]
theorem stripClose (d) : Statement (.stripClose d) := fun w _ h => by
  cases h; rw [decode56_of_major _ rfl]; simp [decode56, Fields.fmtA, zero, limit, bind, Except.bind, w]
theorem stripLd (d a) : Statement (.stripLd d a) := fun w _ h => by
  cases h; rw [decode57_of_major _ rfl]; simp [decode57, Fields.fmtA, zero, limit, bind, Except.bind, w]
theorem stripLdNa (d a) : Statement (.stripLdNa d a) := fun w _ h => by
  cases h; rw [decode57_of_major _ rfl]; simp [decode57, Fields.fmtA, zero, limit, bind, Except.bind, w]
theorem stripSt (d a) : Statement (.stripSt d a) := fun w _ h => by
  cases h; rw [decode58_of_major _ rfl]; simp [decode58, Fields.fmtA, zero, limit, bind, Except.bind, w]
theorem stripStNa (d a) : Statement (.stripStNa d a) := fun w _ h => by
  cases h; rw [decode58_of_major _ rfl]; simp [decode58, Fields.fmtA, zero, limit, bind, Except.bind, w]
theorem qbind (d a) : Statement (.qbind d a) := fun w _ h => by
  cases h; rw [decode59_of_major _ rfl]; simp [decode59, Fields.fmtA, zero, limit, bind, Except.bind, w]
theorem qpushV (d a) : Statement (.qpushV d a) := fun w _ h => by
  cases h; rw [decode5A_of_major _ rfl]; simp [decode5A, Fields.fmtA, zero, limit, bind, Except.bind, w]
theorem qpushS (d a) : Statement (.qpushS d a) := fun w _ h => by
  cases h; rw [decode5A_of_major _ rfl]; simp [decode5A, Fields.fmtA, zero, limit, bind, Except.bind, w]
theorem qpushB (d a) : Statement (.qpushB d a) := fun w _ h => by
  cases h; rw [decode5A_of_major _ rfl]; simp [decode5A, Fields.fmtA, zero, limit, bind, Except.bind, w]
theorem qpopV (d a) : Statement (.qpopV d a) := fun w _ h => by
  cases h; rw [decode5B_of_major _ rfl]; simp [decode5B, Fields.fmtA, zero, limit, bind, Except.bind, w]
theorem qpopS (d a) : Statement (.qpopS d a) := fun w _ h => by
  cases h; rw [decode5B_of_major _ rfl]; simp [decode5B, Fields.fmtA, zero, limit, bind, Except.bind, w]
theorem qpeekV (d a) : Statement (.qpeekV d a) := fun w _ h => by
  cases h; rw [decode5B_of_major _ rfl]; simp [decode5B, Fields.fmtA, zero, limit, bind, Except.bind, w]
theorem qpeekS (d a) : Statement (.qpeekS d a) := fun w _ h => by
  cases h; rw [decode5B_of_major _ rfl]; simp [decode5B, Fields.fmtA, zero, limit, bind, Except.bind, w]
theorem qbr (a off) : Statement (.qbr a off) := fun w _ h => by
  cases h; rw [decode5C_of_major _ rfl]; simp [decode5C, fmtL_imm19]; simp [Fields.fmtL, zero, limit, bind, Except.bind, w]
theorem vamoAdd (d a b scope) : Statement (.vamoAdd d a b scope) := fun w _ h => by
  cases h; rw [decode5D_of_major _ rfl]; cases scope <;> simp [Scope.code, scopeField, decode5D, Fields.fmtA, zero, limit, bind, Except.bind, w]
theorem vamoMin (d a b scope) : Statement (.vamoMin d a b scope) := fun w _ h => by
  cases h; rw [decode5D_of_major _ rfl]; cases scope <;> simp [Scope.code, scopeField, decode5D, Fields.fmtA, zero, limit, bind, Except.bind, w]
theorem vamoMax (d a b scope) : Statement (.vamoMax d a b scope) := fun w _ h => by
  cases h; rw [decode5D_of_major _ rfl]; cases scope <;> simp [Scope.code, scopeField, decode5D, Fields.fmtA, zero, limit, bind, Except.bind, w]
theorem vamoSwap (d a b scope) : Statement (.vamoSwap d a b scope) := fun w _ h => by
  cases h; rw [decode5D_of_major _ rfl]; cases scope <;> simp [Scope.code, scopeField, decode5D, Fields.fmtA, zero, limit, bind, Except.bind, w]
theorem vamoCas (d a b scope) : Statement (.vamoCas d a b scope) := fun w _ h => by
  cases h; rw [decode5D_of_major _ rfl]; cases scope <;> simp [Scope.code, scopeField, decode5D, Fields.fmtA, zero, limit, bind, Except.bind, w]
theorem fenceSv (scope) : Statement (.fenceSv scope) := fun w _ h => by
  cases h; rw [decode5E_of_major _ rfl]; cases scope <;> simp [Scope.code, scopeField, decode5E, Fields.fmtA, zero, limit, bind, Except.bind, w]
theorem fenceVs (scope) : Statement (.fenceVs scope) := fun w _ h => by
  cases h; rw [decode5E_of_major _ rfl]; cases scope <;> simp [Scope.code, scopeField, decode5E, Fields.fmtA, zero, limit, bind, Except.bind, w]
theorem fenceVv (scope) : Statement (.fenceVv scope) := fun w _ h => by
  cases h; rw [decode5E_of_major _ rfl]; cases scope <;> simp [Scope.code, scopeField, decode5E, Fields.fmtA, zero, limit, bind, Except.bind, w]
theorem fenceAll (scope) : Statement (.fenceAll scope) := fun w _ h => by
  cases h; rw [decode5E_of_major _ rfl]; cases scope <;> simp [Scope.code, scopeField, decode5E, Fields.fmtA, zero, limit, bind, Except.bind, w]
theorem vwait (d a b scope) : Statement (.vwait d a b scope) := fun w _ h => by
  cases h; rw [decode5F_of_major _ rfl]; cases scope <;> simp [Scope.code, scopeField, decode5F, Fields.fmtA, zero, limit, bind, Except.bind, w]
theorem roundAdv (d a) : Statement (.roundAdv d a) := fun w _ h => by
  cases h; rw [decode60_of_major _ rfl]; simp [decode60, Fields.fmtA, zero, limit, bind, Except.bind, w]
theorem roundRd (d a) : Statement (.roundRd d a) := fun w _ h => by
  cases h; rw [decode61_of_major _ rfl]; simp [decode61, Fields.fmtA, zero, limit, bind, Except.bind, w]
theorem tileSet (d a) : Statement (.tileSet d a) := fun w _ h => by
  cases h; rw [decode62_of_major _ rfl]; simp [decode62, Fields.fmtA, zero, limit, bind, Except.bind, w]
theorem mma (d a b) : Statement (.mma d a b) := fun w _ h => by
  cases h; rw [decode63_of_major _ rfl]; simp [decode63, Fields.fmtA, zero, limit, bind, Except.bind, w]
theorem mmaW (d a slot) : Statement (.mmaW d a slot) := fun w _ h => by
  cases h; rw [decode63_of_major _ rfl]; simp [decode63, Fields.fmtA, zero, limit, bind, Except.bind, w]
theorem mmaZ (d a b) : Statement (.mmaZ d a b) := fun w _ h => by
  cases h; rw [decode63_of_major _ rfl]; simp [decode63, Fields.fmtA, zero, limit, bind, Except.bind, w]
theorem mmaWz (d a slot) : Statement (.mmaWz d a slot) := fun w _ h => by
  cases h; rw [decode63_of_major _ rfl]; simp [decode63, Fields.fmtA, zero, limit, bind, Except.bind, w]
theorem mmaT (d a b) : Statement (.mmaT d a b) := fun w _ h => by
  cases h; rw [decode64_of_major _ rfl]; simp [decode64, Fields.fmtA, zero, limit, bind, Except.bind, w]
theorem mmaTW (d a slot) : Statement (.mmaTW d a slot) := fun w _ h => by
  cases h; rw [decode64_of_major _ rfl]; simp [decode64, Fields.fmtA, zero, limit, bind, Except.bind, w]
theorem mmaTZ (d a b) : Statement (.mmaTZ d a b) := fun w _ h => by
  cases h; rw [decode64_of_major _ rfl]; simp [decode64, Fields.fmtA, zero, limit, bind, Except.bind, w]
theorem mmaTWz (d a slot) : Statement (.mmaTWz d a slot) := fun w _ h => by
  cases h; rw [decode64_of_major _ rfl]; simp [decode64, Fields.fmtA, zero, limit, bind, Except.bind, w]
theorem wbLoad (slot a b) : Statement (.wbLoad slot a b) := fun w _ h => by
  cases h; rw [decode65_of_major _ rfl]; simp [decode65, Fields.fmtA, zero, limit, bind, Except.bind, w]
theorem wbLoadCb (slot a b cb) : Statement (.wbLoadCb slot a b cb) := fun w _ h => by
  cases h; rw [decode65_of_major _ rfl]
  have h1 : ((1 : BitVec 4) ++ cb).extractLsb' 4 3 = 0 := by exact (by decide : ∀ cb : BitVec 3, ((1 : BitVec 4) ++ cb).extractLsb' 4 3 = 0) cb
  have h2 : ((1 : BitVec 4) ++ cb).extractLsb' 3 1 = 1 := (by decide : ∀ cb : BitVec 3, ((1 : BitVec 4) ++ cb).extractLsb' 3 1 = 1) cb
  simp only [decode65, Fields.fmtA, zero, bind, Except.bind, h1, h2, extract_lower (1 : BitVec 4) cb, wField_setWidth]; rfl
theorem cbLoad (cb a b) : Statement (.cbLoad cb a b) := fun w _ h => by
  cases h; rw [decode66_of_major _ rfl]; simp [decode66, Fields.fmtA, zero, limit, bind, Except.bind, w]
theorem accZero (d i48) : Statement (.accZero d i48) := fun w _ h => by
  cases h; rw [decode67_of_major _ rfl]
  have h1 : accFormat ((0x18 : BitVec 6) + i48.setWidth 6) = .ok i48 := (by decide : ∀ x : BitVec 1, accFormat ((0x18 : BitVec 6) + x.setWidth 6) = .ok x) i48
  simp only [decode67, Fields.fmtA, zero, bind, Except.bind, aField_setWidth, h1]; rfl
theorem accLd (d a) : Statement (.accLd d a) := fun w _ h => by
  cases h; rw [decode67_of_major _ rfl]; simp [decode67, Fields.fmtA, zero, limit, bind, Except.bind, w]
theorem accSt (d a) : Statement (.accSt d a) := fun w _ h => by
  cases h; rw [decode67_of_major _ rfl]; simp [decode67, Fields.fmtA, zero, limit, bind, Except.bind, w]
theorem accRd (d a b) : Statement (.accRd d a b) := fun w _ h => by
  cases h; rw [decode68_of_major _ rfl]; simp [decode68, Fields.fmtA, zero, limit, bind, Except.bind, w]
theorem accRdS (d a b) : Statement (.accRdS d a b) := fun w _ h => by
  cases h; rw [decode68_of_major _ rfl]; simp [decode68, Fields.fmtA, zero, limit, bind, Except.bind, w]
theorem cpStart (d a ends) : Statement (.cpStart d a ends) := fun w _ h => by
  cases h; rw [decode69_of_major _ rfl]
  simp only [decode69, Fields.fmtA, extract_upper (0 : BitVec 5) ends, extract_lower (0 : BitVec 5) ends]; simp [zero, limit, bind, Except.bind, w]
theorem cp2d (d a ends) : Statement (.cp2d d a ends) := fun w _ h => by
  cases h; rw [decode6A_of_major _ rfl]
  simp only [decode6A, Fields.fmtA, extract_upper (0 : BitVec 5) ends, extract_lower (0 : BitVec 5) ends]; simp [zero, limit, bind, Except.bind, w]
theorem cpGth (d a b ends) : Statement (.cpGth d a b ends) := fun w _ h => by
  cases h; rw [decode6B_of_major _ rfl]
  simp only [decode6B, Fields.fmtA, extract_upper (0 : BitVec 5) ends, extract_lower (0 : BitVec 5) ends]; simp [zero, limit, bind, Except.bind, w]
theorem vxfUvar (d a fmt) : Statement (.vxfUvar d a fmt) := fun w _ h => by
  cases h; rw [decode6C_of_major _ rfl]; simp [decode6C, Fields.fmtA, zero, limit, bind, Except.bind, w]
theorem vxfSvar (d a fmt) : Statement (.vxfSvar d a fmt) := fun w _ h => by
  cases h; rw [decode6C_of_major _ rfl]; simp [decode6C, Fields.fmtA, zero, limit, bind, Except.bind, w]
theorem vxfUnpk (d a fmt) : Statement (.vxfUnpk d a fmt) := fun w _ h => by
  cases h; rw [decode6C_of_major _ rfl]; simp [decode6C, Fields.fmtA, zero, limit, bind, Except.bind, w]
theorem vxfEuvar (d a) : Statement (.vxfEuvar d a) := fun w _ h => by
  cases h; rw [decode6C_of_major _ rfl]; simp [decode6C, Fields.fmtA, zero, limit, bind, Except.bind, w]
theorem vxfEsvar (d a) : Statement (.vxfEsvar d a) := fun w _ h => by
  cases h; rw [decode6C_of_major _ rfl]; simp [decode6C, Fields.fmtA, zero, limit, bind, Except.bind, w]
theorem vxfPack (d a) : Statement (.vxfPack d a) := fun w _ h => by
  cases h; rw [decode6C_of_major _ rfl]; simp [decode6C, Fields.fmtA, zero, limit, bind, Except.bind, w]
theorem pre (p) : Statement (.pre p) := fun w _ h => by
  cases h; rw [decode7E_of_major _ rfl]
  revert p; decide
theorem preN (p) : Statement (.preN p) := fun w _ h => by
  cases h; rw [decode7E_of_major _ rfl]
  revert p; decide
theorem preCopy (p cls cd) : Statement (.preCopy p cls cd) := fun w _ h => by
  cases h; rw [decode7E_of_major _ rfl]
  have h1 : (p ++ ((0 : BitVec 1) ++ cd.extractLsb' 5 1)).extractLsb' 2 4 = p :=
    extract_upper p ((0 : BitVec 1) ++ cd.extractLsb' 5 1)
  have h2 : (p ++ ((0 : BitVec 1) ++ cd.extractLsb' 5 1)).extractLsb' 1 1 = 0 :=
    (extract_within p ((0 : BitVec 1) ++ cd.extractLsb' 5 1) 1 1 (by omega)).trans (extract_upper (0 : BitVec 1) (cd.extractLsb' 5 1))
  have h3 : (p ++ ((0 : BitVec 1) ++ cd.extractLsb' 5 1)).extractLsb' 0 1 = cd.extractLsb' 5 1 :=
    (extract_within p ((0 : BitVec 1) ++ cd.extractLsb' 5 1) 0 1 (by omega)).trans (extract_lower (0 : BitVec 1) (cd.extractLsb' 5 1))
  have h4 : (cd.extractLsb' 0 5 ++ (1 : BitVec 1)).extractLsb' 0 1 = 1 := extract_lower _ _
  have h5 : (cd.extractLsb' 0 5 ++ (1 : BitVec 1)).extractLsb' 1 5 = cd.extractLsb' 0 5 := extract_upper _ _
  have h6 : cd.extractLsb' 5 1 ++ cd.extractLsb' 0 5 = cd := (extract_append cd 0 1 5).trans BitVec.extractLsb'_eq_self
  have h7 : (cls.code ++ (0 : BitVec 3)).extractLsb' 3 3 = cls.code := extract_upper _ _
  have h8 : (cls.code ++ (0 : BitVec 3)).extractLsb' 0 3 = 0 := extract_lower _ _
  simp only [decode7E, Fields.fmtP, zero, bind, Except.bind, h1, h2, h3, h4, h5, h6, h7, h8, classField_code]
  simp [limit, w]
theorem preNCopy (p cls cd) : Statement (.preNCopy p cls cd) := fun w _ h => by
  cases h; rw [decode7E_of_major _ rfl]
  have h1 : (p ++ ((1 : BitVec 1) ++ cd.extractLsb' 5 1)).extractLsb' 2 4 = p :=
    extract_upper p ((1 : BitVec 1) ++ cd.extractLsb' 5 1)
  have h2 : (p ++ ((1 : BitVec 1) ++ cd.extractLsb' 5 1)).extractLsb' 1 1 = 1 :=
    (extract_within p ((1 : BitVec 1) ++ cd.extractLsb' 5 1) 1 1 (by omega)).trans (extract_upper (1 : BitVec 1) (cd.extractLsb' 5 1))
  have h3 : (p ++ ((1 : BitVec 1) ++ cd.extractLsb' 5 1)).extractLsb' 0 1 = cd.extractLsb' 5 1 :=
    (extract_within p ((1 : BitVec 1) ++ cd.extractLsb' 5 1) 0 1 (by omega)).trans (extract_lower (1 : BitVec 1) (cd.extractLsb' 5 1))
  have h4 : (cd.extractLsb' 0 5 ++ (1 : BitVec 1)).extractLsb' 0 1 = 1 := extract_lower _ _
  have h5 : (cd.extractLsb' 0 5 ++ (1 : BitVec 1)).extractLsb' 1 5 = cd.extractLsb' 0 5 := extract_upper _ _
  have h6 : cd.extractLsb' 5 1 ++ cd.extractLsb' 0 5 = cd := (extract_append cd 0 1 5).trans BitVec.extractLsb'_eq_self
  have h7 : (cls.code ++ (0 : BitVec 3)).extractLsb' 3 3 = cls.code := extract_upper _ _
  have h8 : (cls.code ++ (0 : BitVec 3)).extractLsb' 0 3 = 0 := extract_lower _ _
  simp only [decode7E, Fields.fmtP, zero, bind, Except.bind, h1, h2, h3, h4, h5, h6, h7, h8, classField_code]
  simp [limit, w]
theorem fork (d a) : Statement (.fork d a) := fun w _ h => by
  cases h; rw [decode6D_of_major _ rfl]; simp [decode6D, Fields.fmtA, zero, limit, bind, Except.bind, w]
theorem forkS (d a) : Statement (.forkS d a) := fun w _ h => by
  cases h; rw [decode6D_of_major _ rfl]; simp [decode6D, Fields.fmtA, zero, limit, bind, Except.bind, w]
theorem settle (a) : Statement (.settle a) := fun w _ h => by
  cases h; rw [decode6D_of_major _ rfl]; simp [decode6D, Fields.fmtA, zero, limit, bind, Except.bind, w]
theorem abandon : Statement (.abandon) := fun w _ h => by
  cases h; rw [decode6D_of_major _ rfl]; simp [decode6D, Fields.fmtA, zero, limit, bind, Except.bind, w]
theorem abandonAll : Statement (.abandonAll) := fun w _ h => by
  cases h; rw [decode6D_of_major _ rfl]; simp [decode6D, Fields.fmtA, zero, limit, bind, Except.bind, w]
theorem choose (d a) : Statement (.choose d a) := fun w _ h => by
  cases h; rw [decode6D_of_major _ rfl]; simp [decode6D, Fields.fmtA, zero, limit, bind, Except.bind, w]
theorem chooseBest (d) : Statement (.chooseBest d) := fun w _ h => by
  cases h; rw [decode6D_of_major _ rfl]; simp [decode6D, Fields.fmtA, zero, limit, bind, Except.bind, w]
theorem vid (d a) : Statement (.vid d a) := fun w _ h => by
  cases h; rw [decode6D_of_major _ rfl]; simp [decode6D, Fields.fmtA, zero, limit, bind, Except.bind, w]
theorem spawn (d a b) : Statement (.spawn d a b) := fun w _ h => by
  cases h; rw [decode6E_of_major _ rfl]; simp [decode6E, Fields.fmtA, zero, limit, bind, Except.bind, w]
theorem spawnT (d a b) : Statement (.spawnT d a b) := fun w _ h => by
  cases h; rw [decode6E_of_major _ rfl]; simp [decode6E, Fields.fmtA, zero, limit, bind, Except.bind, w]
theorem leaseReq (least pref) : Statement (.leaseReq least pref) := fun w _ h => by
  cases h; rw [decode6E_of_major _ rfl]; simp [decode6E, Fields.fmtA, zero, limit, bind, Except.bind, w]
theorem leaseRel : Statement (.leaseRel) := fun w _ h => by
  cases h; rw [decode6E_of_major _ rfl]; simp [decode6E, Fields.fmtA, zero, limit, bind, Except.bind, w]
theorem leaseRelD : Statement (.leaseRelD) := fun w _ h => by
  cases h; rw [decode6E_of_major _ rfl]; simp [decode6E, Fields.fmtA, zero, limit, bind, Except.bind, w]
theorem taskEnd : Statement (.taskEnd) := fun w _ h => by
  cases h; rw [decode6E_of_major _ rfl]; simp [decode6E, Fields.fmtA, zero, limit, bind, Except.bind, w]
theorem barCl (a b) : Statement (.barCl a b) := fun w _ h => by
  cases h; rw [decode6E_of_major _ rfl]; simp [decode6E, Fields.fmtA, zero, limit, bind, Except.bind, w]
theorem ctxSave : Statement (.ctxSave) := fun w _ h => by
  cases h; rw [decode6F_of_major _ rfl]; simp [decode6F, Fields.fmtA, zero, limit, bind, Except.bind, w]
theorem ctxLoad (d a) : Statement (.ctxLoad d a) := fun w _ h => by
  cases h; rw [decode6F_of_major _ rfl]; simp [decode6F, Fields.fmtA, zero, limit, bind, Except.bind, w]
theorem collRedAdd (d a) : Statement (.collRedAdd d a) := fun w _ h => by
  cases h; rw [decode70_of_major _ rfl]; simp [decode70, Fields.fmtA, zero, limit, bind, Except.bind, w]
theorem collRedMin (d a) : Statement (.collRedMin d a) := fun w _ h => by
  cases h; rw [decode70_of_major _ rfl]; simp [decode70, Fields.fmtA, zero, limit, bind, Except.bind, w]
theorem collRedMax (d a) : Statement (.collRedMax d a) := fun w _ h => by
  cases h; rw [decode70_of_major _ rfl]; simp [decode70, Fields.fmtA, zero, limit, bind, Except.bind, w]
theorem collRedFo (d a) : Statement (.collRedFo d a) := fun w _ h => by
  cases h; rw [decode70_of_major _ rfl]; simp [decode70, Fields.fmtA, zero, limit, bind, Except.bind, w]
theorem collBcast (d a) : Statement (.collBcast d a) := fun w _ h => by
  cases h; rw [decode70_of_major _ rfl]; simp [decode70, Fields.fmtA, zero, limit, bind, Except.bind, w]
theorem hFetch (a b) : Statement (.hFetch a b) := fun w _ h => by
  cases h; rw [decode71_of_major _ rfl]; simp [decode71, Fields.fmtA, zero, limit, bind, Except.bind, w]
theorem hPost (a b) : Statement (.hPost a b) := fun w _ h => by
  cases h; rw [decode71_of_major _ rfl]; simp [decode71, Fields.fmtA, zero, limit, bind, Except.bind, w]
theorem hFwd (a) : Statement (.hFwd a) := fun w _ h => by
  cases h; rw [decode71_of_major _ rfl]; simp [decode71, Fields.fmtA, zero, limit, bind, Except.bind, w]
theorem hStamp (d a) : Statement (.hStamp d a) := fun w _ h => by
  cases h; rw [decode71_of_major _ rfl]; simp [decode71, Fields.fmtA, zero, limit, bind, Except.bind, w]
theorem hStampAdv (d a) : Statement (.hStampAdv d a) := fun w _ h => by
  cases h; rw [decode71_of_major _ rfl]; simp [decode71, Fields.fmtA, zero, limit, bind, Except.bind, w]
theorem hDone : Statement (.hDone) := fun w _ h => by
  cases h; rw [decode71_of_major _ rfl]; simp [decode71, Fields.fmtA, zero, limit, bind, Except.bind, w]
theorem hAbort (a) : Statement (.hAbort a) := fun w _ h => by
  cases h; rw [decode71_of_major _ rfl]; simp [decode71, Fields.fmtA, zero, limit, bind, Except.bind, w]
theorem bmsg (a b) : Statement (.bmsg a b) := fun w _ h => by
  cases h; rw [decode72_of_major _ rfl]; simp [decode72, Fields.fmtA, zero, limit, bind, Except.bind, w]
theorem grantWaitApply (x0) : Statement (.grantWaitApply x0) := fun _ _ h => nomatch h
theorem reshapeComplete (x0) : Statement (.reshapeComplete x0) := fun _ _ h => nomatch h
theorem commitLand (x0) : Statement (.commitLand x0) := fun _ _ h => nomatch h
theorem lateResultReady (x0) : Statement (.lateResultReady x0) := fun _ _ h => nomatch h
theorem drainComplete (x0) : Statement (.drainComplete x0) := fun _ _ h => nomatch h
theorem arbiterHoldTimeout (x0) : Statement (.arbiterHoldTimeout x0) := fun _ _ h => nomatch h
theorem preemptionNotice (x0) : Statement (.preemptionNotice x0) := fun _ _ h => nomatch h
theorem gracePeriodExpiry (x0) : Statement (.gracePeriodExpiry x0) := fun _ _ h => nomatch h
theorem stagingDrainComplete (x0 x1) : Statement (.stagingDrainComplete x0 x1) := fun _ _ h => nomatch h
theorem stripCopyWaitEnd (x0 x1) : Statement (.stripCopyWaitEnd x0 x1) := fun _ _ h => nomatch h
theorem restoreAtGrant (x0) : Statement (.restoreAtGrant x0) := fun _ _ h => nomatch h
theorem resumedReshaped (x0) : Statement (.resumedReshaped x0) := fun _ _ h => nomatch h
theorem copyEventTaken (x0) : Statement (.copyEventTaken x0) := fun _ _ h => nomatch h
theorem copySectorMove (x0) : Statement (.copySectorMove x0) := fun _ _ h => nomatch h
theorem copyRequestComplete (x0) : Statement (.copyRequestComplete x0) := fun _ _ h => nomatch h
theorem promiseMiss (x0 x1) : Statement (.promiseMiss x0 x1) := fun _ _ h => nomatch h
theorem registerFileCorrectedError (x0 x1) : Statement (.registerFileCorrectedError x0 x1) := fun _ _ h => nomatch h
theorem registerFileUncorrectableError (x0 x1 x2 x3 x4) : Statement (.registerFileUncorrectableError x0 x1 x2 x3 x4) := fun _ _ h => nomatch h
theorem stateUncorrectableError (x0) : Statement (.stateUncorrectableError x0) := fun _ _ h => nomatch h
theorem stripUncorrectableError (x0 x1) : Statement (.stripUncorrectableError x0 x1) := fun _ _ h => nomatch h
theorem queueEntryUncorrectableError (x0 x1 x2) : Statement (.queueEntryUncorrectableError x0 x1 x2) := fun _ _ h => nomatch h
theorem scratchpadUncorrectableError (x0) : Statement (.scratchpadUncorrectableError x0) := fun _ _ h => nomatch h
theorem sliceUncorrectableError (x0 x1 x2 x3) : Statement (.sliceUncorrectableError x0 x1 x2 x3) := fun _ _ h => nomatch h
theorem verticalBusCorrectedError (x0 x1) : Statement (.verticalBusCorrectedError x0 x1) := fun _ _ h => nomatch h
theorem assayerRun (x0) : Statement (.assayerRun x0) := fun _ _ h => nomatch h
theorem assayerVectorEnd (x0 x1) : Statement (.assayerVectorEnd x0 x1) := fun _ _ h => nomatch h
theorem sliceFill (x0 x1 x2 x3 x4) : Statement (.sliceFill x0 x1 x2 x3 x4) := fun _ _ h => nomatch h
theorem coherenceInvalidate (x0 x1) : Statement (.coherenceInvalidate x0 x1) := fun _ _ h => nomatch h
theorem messageArrival (x0) : Statement (.messageArrival x0) := fun _ _ h => nomatch h
theorem invocationStart (x0) : Statement (.invocationStart x0) := fun _ _ h => nomatch h
theorem handlerTimeLimit (x0) : Statement (.handlerTimeLimit x0) := fun _ _ h => nomatch h
theorem prefetchFill (x0) : Statement (.prefetchFill x0) := fun _ _ h => nomatch h
theorem btimeWindowStart : Statement (.btimeWindowStart) := fun _ _ h => nomatch h
theorem tlbinvComplete : Statement (.tlbinvComplete) := fun _ _ h => nomatch h
theorem wfeWake (x0) : Statement (.wfeWake x0) := fun _ _ h => nomatch h
theorem sleepUntilExpiry (x0) : Statement (.sleepUntilExpiry x0) := fun _ _ h => nomatch h
theorem vwaitWake (x0) : Statement (.vwaitWake x0) := fun _ _ h => nomatch h
theorem vwaitDeadline (x0) : Statement (.vwaitDeadline x0) := fun _ _ h => nomatch h
theorem queueWaitEnd (x0) : Statement (.queueWaitEnd x0) := fun _ _ h => nomatch h
theorem boundedLoadWaitEnd (x0) : Statement (.boundedLoadWaitEnd x0) := fun _ _ h => nomatch h
theorem barrierWake (x0) : Statement (.barrierWake x0) := fun _ _ h => nomatch h
theorem rivalPlace (x0) : Statement (.rivalPlace x0) := fun _ _ h => nomatch h
theorem chooseResume (x0) : Statement (.chooseResume x0) := fun _ _ h => nomatch h
theorem viewReclaim (x0) : Statement (.viewReclaim x0) := fun _ _ h => nomatch h
theorem selectAndPlace (x0) : Statement (.selectAndPlace x0) := fun _ _ h => nomatch h
theorem stripTaggingComplete (x0) : Statement (.stripTaggingComplete x0) := fun _ _ h => nomatch h
theorem queueTailObserved (x0 x1) : Statement (.queueTailObserved x0 x1) := fun _ _ h => nomatch h
theorem frameAged (x0 x1) : Statement (.frameAged x0 x1) := fun _ _ h => nomatch h
theorem reservePreemptTimeout (x0) : Statement (.reservePreemptTimeout x0) := fun _ _ h => nomatch h
theorem fqheadWrite (x0 x1) : Statement (.fqheadWrite x0 x1) := fun _ _ h => nomatch h
theorem fqbaseWrite (x0 x1) : Statement (.fqbaseWrite x0 x1) := fun _ _ h => nomatch h
theorem fqstatWrite (x0 x1) : Statement (.fqstatWrite x0 x1) := fun _ _ h => nomatch h
theorem faultDomainRecovery (x0) : Statement (.faultDomainRecovery x0) := fun _ _ h => nomatch h
theorem recoveryComplete (x0) : Statement (.recoveryComplete x0) := fun _ _ h => nomatch h
theorem llcFill (x0 x1 x2) : Statement (.llcFill x0 x1 x2) := fun _ _ h => nomatch h
theorem homeRead (x0 x1) : Statement (.homeRead x0 x1) := fun _ _ h => nomatch h
theorem grinderSweep (x0 x1 x2) : Statement (.grinderSweep x0 x1 x2) := fun _ _ h => nomatch h
theorem grinderRecallComplete (x0 x1) : Statement (.grinderRecallComplete x0 x1) := fun _ _ h => nomatch h
theorem roundMirrorsComplete (x0) : Statement (.roundMirrorsComplete x0) := fun _ _ h => nomatch h
theorem shadowMulticastArrival (x0 x1) : Statement (.shadowMulticastArrival x0 x1) := fun _ _ h => nomatch h
theorem touchstoneGrant (x0) : Statement (.touchstoneGrant x0) := fun _ _ h => nomatch h
theorem rcbInstall (x0) : Statement (.rcbInstall x0) := fun _ _ h => nomatch h
theorem rcbRemove (x0) : Statement (.rcbRemove x0) := fun _ _ h => nomatch h
theorem rcbRecover (x0) : Statement (.rcbRecover x0) := fun _ _ h => nomatch h
theorem rgcntWrite (x0 x1) : Statement (.rgcntWrite x0 x1) := fun _ _ h => nomatch h
theorem rgcntLand (x0) : Statement (.rgcntLand x0) := fun _ _ h => nomatch h
theorem rgctlWrite (x0 x1) : Statement (.rgctlWrite x0 x1) := fun _ _ h => nomatch h
theorem fwCommit (x0) : Statement (.fwCommit x0) := fun _ _ h => nomatch h
theorem fwCommitComplete : Statement (.fwCommitComplete) := fun _ _ h => nomatch h
theorem mgmtstWrite (x0) : Statement (.mgmtstWrite x0) := fun _ _ h => nomatch h
theorem skewmapWrite (x0 x1) : Statement (.skewmapWrite x0 x1) := fun _ _ h => nomatch h
theorem llcpartWrite (x0 x1) : Statement (.llcpartWrite x0 x1) := fun _ _ h => nomatch h
theorem baristaCountersClear (x0) : Statement (.baristaCountersClear x0) := fun _ _ h => nomatch h
theorem jrnheadWrite (x0) : Statement (.jrnheadWrite x0) := fun _ _ h => nomatch h
theorem jrnsizeWrite (x0) : Statement (.jrnsizeWrite x0) := fun _ _ h => nomatch h
theorem jrnctlWrite (x0) : Statement (.jrnctlWrite x0) := fun _ _ h => nomatch h
theorem packageRegisterWrite (x0 x1) : Statement (.packageRegisterWrite x0 x1) := fun _ _ h => nomatch h
theorem moduleReset : Statement (.moduleReset) := fun _ _ h => nomatch h
theorem selfTestComplete : Statement (.selfTestComplete) := fun _ _ h => nomatch h
theorem firmwareCheckComplete : Statement (.firmwareCheckComplete) := fun _ _ h => nomatch h
theorem hbmTrainingComplete : Statement (.hbmTrainingComplete) := fun _ _ h => nomatch h
theorem thermalTrip : Statement (.thermalTrip) := fun _ _ h => nomatch h
theorem linkTraining (x0 x1) : Statement (.linkTraining x0 x1) := fun _ _ h => nomatch h
theorem hostMemoryWrite (x0 x1 x2) : Statement (.hostMemoryWrite x0 x1 x2) := fun _ _ h => nomatch h
theorem hostMemoryRead (x0) : Statement (.hostMemoryRead x0) := fun _ _ h => nomatch h
theorem cemenTaggedWrite (x0) : Statement (.cemenTaggedWrite x0) := fun _ _ h => nomatch h
theorem cemenTaggedRead (x0) : Statement (.cemenTaggedRead x0) := fun _ _ h => nomatch h
theorem cemenReadResponse (x0) : Statement (.cemenReadResponse x0) := fun _ _ h => nomatch h
theorem cemenAtomic (x0) : Statement (.cemenAtomic x0) := fun _ _ h => nomatch h
theorem cemenHostMessage (x0) : Statement (.cemenHostMessage x0) := fun _ _ h => nomatch h
theorem cemenCollectiveFragment (x0) : Statement (.cemenCollectiveFragment x0) := fun _ _ h => nomatch h
theorem fabricAck (x0) : Statement (.fabricAck x0) := fun _ _ h => nomatch h
theorem completionLost (x0) : Statement (.completionLost x0) := fun _ _ h => nomatch h
theorem collectiveMatch (x0 x1) : Statement (.collectiveMatch x0 x1) := fun _ _ h => nomatch h
theorem collectiveComplete (x0 x1) : Statement (.collectiveComplete x0 x1) := fun _ _ h => nomatch h
theorem collectiveTimeout (x0 x1) : Statement (.collectiveTimeout x0 x1) := fun _ _ h => nomatch h
theorem replayApply : Statement (.replayApply) := fun _ _ h => nomatch h
theorem illegalInstruction (x0) : Statement (.illegalInstruction x0) := fun _ _ h => nomatch h
theorem instructionFetchFault (x0) : Statement (.instructionFetchFault x0) := fun _ _ h => nomatch h
theorem forcedSwitchRequest (x0 x1 x2) : Statement (.forcedSwitchRequest x0 x1 x2) := fun _ _ h => nomatch h
theorem baristaUncorrectableError (x0) : Statement (.baristaUncorrectableError x0) := fun _ _ h => nomatch h
theorem fabricBind (x0 x1) : Statement (.fabricBind x0 x1) := fun _ _ h => nomatch h
theorem participantLost (x0 x1) : Statement (.participantLost x0 x1) := fun _ _ h => nomatch h

end Laws.Encoding

end Sys2Proof
end

