-- ==== Sys2Proof/Tests/Slice0.lean ====
section
/-! SUPPORT. The model's own tests: words of the encoding tables, ill-formed terms, single steps with values worked out from the spec, and
for every statement that has hypotheses a concrete state and operands that meet them. -/

namespace Sys2Proof.Tests

open Sys2Proof Sys2Proof.Machine

set_option maxRecDepth 100000
set_option Elab.async false

/-! ### States to test on -/

/-- A value that a check delivers. -/
def isOk {ε α : Type} (e : Except ε α) : Bool := match e with
  | .ok _ => true
  | .error _ => false

def got {ε α : Type} (e : Except ε α) (d : α) : α := match e with
  | .ok a => a
  | .error _ => d

theorem ok_got {ε α : Type} (e : Except ε α) (d : α) (h : isOk e = true) : e = .ok (got e d) := by
  cases e with
  | ok a => rfl
  | error x => cases h

/-- The state an instruction leads to. -/
def nextOf (r : Out) : State := match r with
  | .next t => t
  | _ => State.reset

/-- Memory with the table of the placed word, whose first 8 GiB are mapped to themselves, and three leaves more: virtual address x + 8 GiB
under the 32-bit grid with default format FP32, x + 16 GiB in a page with handlers, and x + 24 GiB in a page of round region 5 lead to
physical address x. A sector at 0x20000 holds 1.0 and 2.0 in FP32, one at 0x30000 the RAW bytes 0x8877665544332211. -/
def mappedMem : Memory :=
  { cells := [(0x20002, 0x80), (0x20003, 0x3F), (0x20007, 0x40), (0x30000, 0x11), (0x30001, 0x22), (0x30002, 0x33), (0x30003, 0x44),
      (0x30004, 0x55), (0x30005, 0x66), (0x30006, 0x77), (0x30007, 0x88), (0x1000000, 1), (0x1000001, 0x40), (0x1000003, 1),
      (0x1004000, 0x3F), (0x1004008, 3), (0x1004010, 0x3F), (0x1004018, 6), (0x1004020, 0x3F), (0x1004028, 3), (0x100402B, 0x10),
      (0x1004030, 0x3F), (0x1004038, 3), (0x100403A, 0xB)]
    tags := [(0x200, 0x1FC0), (0x400, 0x1FC1), (0x600, 0x1FC0), (0x20000, 0x1FC0), (0x20080, 0x1FC0)] }

/-- A device with a running strand over this memory. -/
def mapped : State := { State.reset.withFetchWord 32 0 with mem := mappedMem }

def with_ (f : Strand → Strand) : State := { mapped with strand := f mapped.strand }

/-- Registers of a strand. -/
def setRegs (l : List (Nat × Nat)) (x : Strand) : Strand :=
  l.foldl (fun x p => x.setS (BitVec.ofNat 6 p.1) (BitVec.ofNat 64 p.2)) x

def regs (l : List (Nat × Nat)) : State := with_ (setRegs l)

/-- A strand with its status. -/
def statusOf (w : Word) (x : Strand) : Strand := { x with sys := { x.sys with status := w } }

/-- A strand in supervisor mode. -/
def privileged (l : List (Nat × Nat)) : State := with_ (fun x => statusOf 0x4400 (setRegs l x))

/-- The prefix of `p1` positive, whose bits are 0: the next instruction is guarded off. -/
def guardedOff (l : List (Nat × Nat)) : State := with_ (fun x => { setRegs l x with lent := some (mkLent 1 false 0 false 0) })

/-- A register of two elements under a tag. -/
def vreg2 (t : Tag) (a b : Nat) : VReg :=
  { tag := t, slots := [BitVec.ofNat 64 a, BitVec.ofNat 64 b], marks := 0, micro := [], hw := 2, entry := none }

def fp32Tag : Tag := mkTag clsValid 127 (Fmt.code .fp32)
def rawTag : Tag := mkTag clsValid 127 (Fmt.code .raw)
def int32Tag : Tag := mkTag clsValid 127 (Fmt.code .int32)

/-- One lane cluster, eight registers of 32-bit elements, VL = 2: v1 and v2 FP32, v3 and v4 RAW, v5 and v6 INT32. -/
def vecStrand (x : Strand) : Strand :=
  { x with
    sys := { x.sys with vcfg := 8 + 2 * 2 ^ 8 + 4096 * 2 ^ 32, lease := 1 + 2 ^ 8 + 2 ^ 12 + 8 * 2 ^ 17 }
    v := ((((((x.v.set 1 (vreg2 fp32Tag 0x3F800000 0x40000000)).set 2 (vreg2 fp32Tag 0x3F000000 0xC0400000)).set 3
      (vreg2 rawTag 5 6)).set 4 (vreg2 rawTag 3 4)).set 5 (vreg2 int32Tag 1 0)).set 6 (vreg2 int32Tag 0x10 0x20)).set 7
        (vreg2 fp32Tag 0 0) }

def vec (l : List (Nat × Nat)) : State := with_ (fun x => vecStrand (setRegs l x))


theorem next_of (r : Out) (h : (match r with
    | .next _ => true
    | _ => false) = true) : r = .next (nextOf r) := by
  cases r with
  | next t => rfl
  | fault f => cases h
  | refused f => cases h

theorem none_of {α : Type} (o : Option α) (h : o.isNone = true) : o = none := by
  cases o with
  | none => rfl
  | some a => cases h

/-- The value an option holds. -/
def held {α : Type} (o : Option α) (d : α) : α := o.getD d

theorem held_of {α : Type} (o : Option α) (d : α) (h : o.isSome = true) : o = some (held o d) := by
  cases o with
  | none => cases h
  | some a => rfl

/-! ### Ill-formed terms (R73, R76, R80, R88): each check refuses one -/

theorem test_illformed_words : ∀ i ∈ [Instr.slli 1 2 64, .srli 1 2 64, .srai 1 2 8191, .callReg 0 1 0, .loopv 1 0, .loopv 1 33, .wfe 0 1,
    .sev .package, .vcfg 1 0 3 0, .vwait 0 1 2 .core, .tileSet 0 1, .tileSet 62 1, .tileSet 1 62, .cpStart 1 62 0, .cp2d 1 60 0, .cpGth 1 62 1 0],
    i.wf = false := by decide +kernel

theorem test_illformed_worlds : ∀ i ∈ [Instr.preCopy 1 .p 16, .preNCopy 1 .p 16, .leaseReq 9 9, .leaseReq 2 1, .leaseReq 1 9, .collRedAdd 1 61,
    .collRedMin 1 61, .collRedMax 1 61, .collRedFo 1 61, .collBcast 1 61], i.wf = false := by decide +kernel

theorem test_illformed_strand_events : ∀ i ∈ [Instr.grantWaitApply 12288, .reshapeComplete 12288, .commitLand 12288, .lateResultReady 12288,
    .drainComplete 12288, .arbiterHoldTimeout 12288, .preemptionNotice 12288, .gracePeriodExpiry 12288, .restoreAtGrant 12288,
    .resumedReshaped 12288, .copyEventTaken 12288, .stateUncorrectableError 12288, .wfeWake 12288, .sleepUntilExpiry 12288,
    .vwaitWake 12288, .vwaitDeadline 12288, .queueWaitEnd 12288, .boundedLoadWaitEnd 12288, .barrierWake 12288, .chooseResume 12288,
    .stripTaggingComplete 12288, .touchstoneGrant 12288, .forcedSwitchRequest 12288 true true], i.wf = false := by decide +kernel

theorem test_illformed_core_events : ∀ i ∈ [Instr.stagingDrainComplete 384 0, .stripCopyWaitEnd 384 0, .copySectorMove 384,
    .copyRequestComplete 384, .promiseMiss 384 0, .registerFileCorrectedError 384 0, .registerFileCorrectedError 0 64,
    .registerFileUncorrectableError 384 0 0 .slots false, .registerFileUncorrectableError 0 64 0 .slots false, .stripUncorrectableError 384 0,
    .queueEntryUncorrectableError 384 0 0, .verticalBusCorrectedError 384 0, .verticalBusCorrectedError 0 64, .assayerRun 384,
    .assayerVectorEnd 384 0, .rivalPlace 384], i.wf = false := by decide +kernel

theorem test_illformed_device_events : ∀ i ∈ [Instr.sliceUncorrectableError 5 0 0 false, .sliceFill 4 0 0 0 0, .coherenceInvalidate 4 0,
    .messageArrival 192, .invocationStart 192, .handlerTimeLimit 192, .prefetchFill 192, .selectAndPlace 4, .queueTailObserved 4 0,
    .frameAged 4 0, .reservePreemptTimeout 4, .fqheadWrite 4 0, .fqbaseWrite 4 0, .fqstatWrite 4 0, .grinderSweep 4 0 false,
    .grinderRecallComplete 4 false, .roundMirrorsComplete 1024, .shadowMulticastArrival 4 0, .shadowMulticastArrival 0 1024, .rgcntWrite 1024 0,
    .rgcntLand 1024, .rgctlWrite 1024 0, .llcpartWrite 16 0, .baristaCountersClear 192, .linkTraining 12 0, .collectiveMatch 4 0,
    .collectiveComplete 4 0, .collectiveTimeout 4 0, .baristaUncorrectableError 192, .participantLost 4 0], i.wf = false := by decide +kernel

/-! ### Words of the encoding tables (R66, R79 and the minor tables), field by field -/

theorem test_decode_scalar :
    decodeWord (0x01#7 ++ 5#6 ++ 6#6 ++ 7#6 ++ 0x01#7) = .ok (.sub 5 6 7) ∧
    decodeWord (0x01#7 ++ 5#6 ++ 6#6 ++ 0#6 ++ 0x14#7) = .ok (.clz 5 6) ∧
    decodeWord (0x02#7 ++ 1#6 ++ 2#6 ++ 0x1FFF#13) = .ok (.addi 1 2 0x1FFF) ∧
    decodeWord (0x09#7 ++ 3#6 ++ 4#6 ++ 5#6 ++ 0x04#7) = .ok (.cmpLtu 3 4 5) ∧
    decodeWord (0x0E#7 ++ 3#6 ++ 4#6 ++ 5#6 ++ 0x03#7) = .ok (.pandn 3 4 5) ∧
    decodeWord (0x10#7 ++ 9#6 ++ 0x40000#19) = .ok (.movhi 9 0x40000) := by decide +kernel

theorem test_decode_memory :
    decodeWord (0x14#7 ++ 1#6 ++ 2#6 ++ 0#3 ++ 0x3FF#10) = .ok (.ldW 1 2 0x3FF) ∧
    decodeWord (0x19#7 ++ 1#6 ++ 2#6 ++ 0#3 ++ 5#10) = .ok (.stD 1 2 5) ∧
    decodeWord (0x1A#7 ++ 5#6 ++ 2#6 ++ 0#3 ++ 16#10) = .ok (.ldeF32 5 2 16) ∧
    decodeWord (0x1B#7 ++ 5#6 ++ 2#6 ++ 2#3 ++ 16#10) = .ok (.steRaw 5 2 16) ∧
    decodeWord (0x1F#7 ++ 1#6 ++ 2#6 ++ 3#6 ++ 0#3 ++ 0#4) = .ok (.amoAdd 1 2 3 .strand) := by decide +kernel

theorem test_decode_control :
    decodeWord (0x20#7 ++ 2#6 ++ 0x7FFFF#19) = .ok (.bz 2 0x7FFFF) ∧
    decodeWord (0x23#7 ++ 15#6 ++ 1#19) = .ok (.bnp 15 1) ∧
    decodeWord (0x24#7 ++ 31#6 ++ 4#19) = .ok (.call 31 4) ∧
    decodeWord (0x27#7 ++ 0#6 ++ 31#6 ++ 0#13) = .ok (.ret 31) ∧
    decodeWord (0x28#7 ++ 3#6 ++ 32#19) = .ok (.loopv 3 32) ∧
    decodeWord (0x7E#7 ++ 5#4 ++ 0#1 ++ 0#6 ++ 0#1 ++ 0#3 ++ 0#10) = .ok (.pre 5) ∧
    decodeWord (0x7E#7 ++ 5#4 ++ 1#1 ++ 9#6 ++ 1#1 ++ 1#3 ++ 0#10) = .ok (.preNCopy 5 .v 9) := by decide +kernel

theorem test_decode_system :
    decodeWord (0x30#7 ++ 0#6 ++ 0#6 ++ 0#6 ++ 3#7) = .ok .eret ∧
    decodeWord (0x30#7 ++ 0#6 ++ 0#6 ++ 7#6 ++ 1#7) = .ok (.trap 7) ∧
    decodeWord (0x33#7 ++ 0#6 ++ 9#6 ++ 0#13) = .ok (.sleepUntil 9) ∧
    decodeWord (0x39#7 ++ 4#6 ++ 5#6 ++ 0#13) = .ok (.setvl 4 5) := by decide +kernel

theorem test_decode_vector :
    decodeWord (0x40#7 ++ 3#6 ++ 1#6 ++ 2#6 ++ 9#7) = .ok (.vdiv 3 1 2) ∧
    decodeWord (0x41#7 ++ 3#6 ++ 1#6 ++ 0#6 ++ 4#7) = .ok (.vtanh 3 1) ∧
    decodeWord (0x42#7 ++ 3#6 ++ 1#6 ++ 2#6 ++ 5#7) = .ok (.vcmpGe 3 1 2) ∧
    decodeWord (0x46#7 ++ 3#6 ++ 1#6 ++ 0#6 ++ 6#7) = .ok (.vtagRd 3 1) ∧
    decodeWord (0x4A#7 ++ 3#6 ++ 1#6 ++ 2#6 ++ 3#7) = .ok (.vslidedn 3 1 2) ∧
    decodeWord (0x4C#7 ++ 3#6 ++ 1#6 ++ 0#3 ++ 7#10) = .ok (.vld 3 1 7) ∧
    decodeWord (0x50#7 ++ 3#6 ++ 1#6 ++ 2#6 ++ 0#7) = .ok (.vldx 3 1 2) := by decide +kernel

theorem test_decode_streams :
    decodeWord (0x57#7 ++ 3#6 ++ 4#6 ++ 0#6 ++ 1#7) = .ok (.stripLdNa 3 4) ∧
    decodeWord (0x5A#7 ++ 7#6 ++ 9#6 ++ 0#6 ++ 2#7) = .ok (.qpushB 7 9) ∧
    decodeWord (0x5C#7 ++ 7#6 ++ 8#19) = .ok (.qbr 7 8) ∧
    decodeWord (0x6C#7 ++ 3#6 ++ 15#6 ++ 0#6 ++ 5#7) = .ok (.vxfPack 3 15) := by decide +kernel

theorem test_decode_matrix :
    decodeWord (0x63#7 ++ 7#6 ++ 1#6 ++ 2#6 ++ 2#7) = .ok (.mmaZ 7 1 2) ∧
    decodeWord (0x64#7 ++ 7#6 ++ 1#6 ++ 3#6 ++ 3#7) = .ok (.mmaTWz 7 1 3) ∧
    decodeWord (0x67#7 ++ 7#6 ++ 1#6 ++ 0#6 ++ 1#7) = .ok (.accLd 7 1) := by decide +kernel

theorem test_decode_device :
    decodeWord (0x6D#7 ++ 0#6 ++ 9#6 ++ 0#6 ++ 2#7) = .ok (.settle 9) ∧
    decodeWord (0x6E#7 ++ 1#6 ++ 2#6 ++ 3#6 ++ 1#7) = .ok (.spawnT 1 2 3) ∧
    decodeWord (0x6F#7 ++ 0#6 ++ 0#6 ++ 0#6 ++ 0#7) = .ok .ctxSave ∧
    decodeWord (0x70#7 ++ 1#6 ++ 60#6 ++ 0#6 ++ 3#7) = .ok (.collRedFo 1 60) ∧
    decodeWord (0x71#7 ++ 0#6 ++ 4#6 ++ 5#6 ++ 1#7) = .ok (.hPost 4 5) ∧
    decodeWord (0x72#7 ++ 0#6 ++ 4#6 ++ 5#6 ++ 0#7) = .ok (.bmsg 4 5) := by decide +kernel

/-! ### Witnesses

For each statement with hypotheses one theorem shows states and operands that meet them, clause by clause. A hypothesis that names what a check
delivers (`check = .ok a` and what holds of `a`) is met through `okAnd`, one that names an option's content through `someAnd`; the four
lemmas below say that these are the existential statements themselves. -/

def okAnd {ε α : Type} (e : Except ε α) (f : α → Bool) : Bool := match e with
  | .ok a => f a
  | .error _ => false

def someAnd {α : Type} (o : Option α) (f : α → Bool) : Bool := match o with
  | some a => f a
  | none => false

theorem okAnd_exists {ε α : Type} (e : Except ε α) (f : α → Bool) : okAnd e f = true ↔ ∃ a, e = .ok a ∧ f a = true := by
  cases e <;> simp [okAnd]

theorem someAnd_exists {α : Type} (o : Option α) (f : α → Bool) : someAnd o f = true ↔ ∃ a, o = some a ∧ f a = true := by
  cases o <;> simp [someAnd]

def readyB (s : State) (i : Instr) : Bool :=
  decide (s.turn = none) && decide (∀ r ∈ vregsOf i, r.toNat < s.strand.nreg) && decide (s.strand.grant ≠ 0) &&
    decide (s.strand.sys.vstart.toNat < s.strand.vl) && decide (s.strand.vl ≤ s.strand.vlmax ∧ s.strand.vlmax ≤ 131072)

theorem ready_of (s : State) (i : Instr) (h : readyB s i = true) : VecReady s i := by
  simp only [readyB, Bool.and_eq_true, decide_eq_true_eq] at h
  exact ⟨h.1.1.1.1, h.1.1.1.2, h.1.1.2, h.1.2, h.2⟩

def plainB (s : State) (r : VIdx) (f : Fmt) : Bool :=
  decide ((s.vreg r).fmt = f) && decide (Fmt.isWide f = false ∧ Fmt.width s.strand.wmax f ≤ s.strand.wmax) && decide ((s.vreg r).marks = 0)

theorem plain_of (s : State) (r : VIdx) (f : Fmt) (h : plainB s r f = true) : PlainReg s r f := by
  simp only [plainB, Bool.and_eq_true, decide_eq_true_eq] at h
  exact ⟨h.1.1, h.1.2, h.2⟩

def sectorB (s : State) (p : Page) (va : Word) (w : Bool) : Bool :=
  decide (s.ctx.view = 0) && decide (physClass p.pa = .hbm) && decide (p.hen = false ∧ p.rgv = false) &&
    decide (copyHold s s.ctx va w false = none) && decide (tagVcls (s.physTag (p.pa / 128)) ≠ clsBusy) &&
    decide (∀ vec, unseen s { s.ctx with vec := vec } (p.pa / 128) = none) &&
    decide (p.pack = false ∧ p.grind = false ∧ ∀ e ∈ s.llc, e.2.page.pack = false ∧ e.2.page.grind = false)

theorem sector_of (s : State) (p : Page) (va : Word) (w : Bool) (h : sectorB s p va w = true) : PlainSector s p va w := by
  simp only [sectorB, Bool.and_eq_true, decide_eq_true_eq] at h
  exact ⟨h.1.1.1.1.1.1, h.1.1.1.1.1.2, h.1.1.1.1.2, h.1.1.1.2, h.1.1.2, h.1.2, h.2⟩

theorem witness_DecodeOfEncode : (Instr.cpGth 63 61 63 3).wf = true ∧ (encode (.cpGth 63 61 63 3)).isSome = true := by decide +kernel

theorem witness_EncodeOfDecode : decodeWord 0xFFFFFFFF = .error .reservedMajor ∧ decodeWord 0x60000003 = .ok .eret := by decide +kernel

/-- A strand about to run ADD s1, s2, s3. -/
def atAdd : State := State.reset.withFetchWord 32 (0x02000000 + 2 ^ 19 + 2 * 2 ^ 13 + 3 * 2 ^ 7)

theorem witness_StepRunsDecoded : atAdd.inputs = [] ∧ heldIngress atAdd = none ∧ dueEvent atAdd = none ∧ running atAdd = true ∧
    agentReady atAdd = true ∧ atAdd.turn = none ∧ lateCopy (resume atAdd) atAdd.strandId = false ∧ (resume atAdd).atPassEnd = none ∧
    (resume atAdd).atPassStart = none ∧ atAdd.lent = none ∧
    okAnd (fetchWord (resume atAdd)) (fun w => decide (decodeWord w = .ok (.add 1 2 3))) = true := by decide +kernel

/-- A handler about to run H_DONE. -/
def atDone : State := State.reset.withFetchWord 32 0xE2000005

/-- The same, its word not in its code cache, on its way to the slice until clock 5. -/
def atUncached : State :=
  let s := atDone.setBarista 0 { atDone.barista 0 with code := [] }
  let x : Slot := { dirty := false, stale := false, gen := 0, stamp := 0, asid := 0, vline := 0, hen := false, region := none, data := none
                    writers := [], arrives := 5 }
  match translate s s.ctx .fetch s.pc with
  | .ok p => s.setDie 0 { s.die 0 with slots := [(p.pa / 128 * 4096, x)] }
  | .error _ => s

theorem witness_StepOtherwise : (atDone.inputs = [] ∧ heldIngress atDone = none ∧ dueEvent atDone = none ∧ running atDone = true ∧
    agentReady atDone = true ∧ atDone.turn = some 0 ∧ someAnd ((resume atDone).barista 0).invocation (fun v => !v.lost) = true ∧
    atDone.lent = none ∧ okAnd (fetchWord (resume atDone)) (fun w => decide (decodeWord w = .ok .hDone)) = true) ∧
    ((resume atDone).fetched.waiting = false ∧ (resume atUncached).fetched.waiting = true ∧ agentReady atUncached = true ∧
      okAnd (fetchWord (resume atUncached)) (fun w => decide (decodeWord w = .ok .hDone)) = true) ∧
    decodeWord 0 = .error .reservedMajor ∧ pairLegal (mkLent 1 false 0 false 0) (unpackWord 0xFC200000) 8 = false ∧
    { State.reset with inputs := [.thermalTrip] }.inputs = .thermalTrip :: [] ∧
    (State.reset.inputs = [] ∧ heldIngress State.reset = none ∧ (running State.reset && agentReady State.reset) = false) ∧
    (∀ t, t = { State.reset with mgmt := { State.reset.mgmt with mgmtst := 6 } } → t.inputs = [] ∧ heldIngress t = none ∧
      dueEvent t = none ∧ (running t && agentReady t) = false) := by
  refine ⟨by decide +kernel, by decide +kernel, by decide +kernel, by decide +kernel, by decide +kernel, by decide +kernel, ?_⟩
  rintro t rfl
  decide +kernel

theorem witness_StepKeepsCanonical : mapped.Canonical ∧ step atAdd = .next (nextOf (step atAdd)) ∧ atAdd.Canonical := by
  refine ⟨by unfold State.Canonical; decide +kernel, next_of _ (by decide +kernel), by unfold State.Canonical; decide +kernel⟩

/-- An exposed region with a lent copy. -/
def exposedCopy : State := with_ (fun x => { statusOf 0x4100 x with lent := some (mkLent 1 false 9 true 0) })

theorem witness_RegisterWrites : (mapped.turn = none ∧ mapped.exposed = false ∧ mapped.copyTo = none) ∧
    (atDone.turn = some 0 ∧ atDone.copyTo = none) ∧ (exposedCopy.exposed = true ∧ exposedCopy.copyTo = some 9) ∧
    (guardedOff []).copyTo = none := by decide +kernel

theorem witness_ScalarResults : (someAnd (scalarRow (.slli 1 2 63)) (fun _ => true) = true ∧ (Instr.slli 1 2 63).wf = true ∧
    mapped.guard0 = true ∧ atDone.guard0 = true) ∧ someAnd (predicateRow (.cmpEq 0 1 2)) (fun _ => true) = true ∧
    (mapped.turn = none ∧ mapped.exposed = false ∧ mapped.copyTo = none) := by decide +kernel

theorem witness_GuardedOff : (Instr.div 1 2 0).wf = true ∧ (guardedOff []).guard0 = false ∧ (guardedOff []).turn = none ∧
    someAnd (scalarRow (.div 1 2 0)) (fun _ => true) = true ∧ someAnd (loadRow (.ldD 1 2 0)) (fun _ => true) = true ∧
    someAnd (storeRow (.stRel 1 2 .fabric 0)) (fun _ => true) = true ∧ someAnd (branchRow (.bp 1 0)) (fun _ => true) = true ∧
    someAnd (transferRow (.ret 1)) (fun _ => true) = true ∧ someAnd (amoRow (.amoCas 1 2 3 .strand)) (fun _ => true) = true ∧
    someAnd (predicateRow (.pmov 1 1)) (fun _ => true) = true := by decide +kernel

theorem witness_ScalarFrame : someAnd (scalarRow (.rem 1 2 0)) (fun _ => true) = true ∧ (Instr.rem 1 2 0).wf = true ∧ mapped.turn = none ∧
    mapped.exposed = false ∧ exec (.rem 1 2 0) mapped = .next (nextOf (exec (.rem 1 2 0) mapped)) :=
  ⟨by decide +kernel, by decide +kernel, by decide +kernel, by decide +kernel, next_of _ (by decide +kernel)⟩

theorem witness_ControlTransfer : someAnd (branchRow (.bz 1 2)) (fun _ => true) = true ∧ mapped.guard0 = true ∧ mapped.rdS 1 = 0 ∧
    (regs [(1, 5)]).rdS 1 ≠ 0 ∧ someAnd (transferRow (.callReg 1 2 0)) (fun r => decide ((r.2 (regs [(2, 0x10010)])).toNat % 4 = 0)) = true ∧
    mapped.turn = none ∧ mapped.exposed = false := by decide +kernel

theorem witness_Constants : mapped.guard0 = true ∧ mapped.turn = none ∧ mapped.exposed = false ∧ mapped.lent = none ∧ (1 : SReg) ≠ 0 ∧
    -(2 ^ 37) ≤ (2 ^ 37 - 1 : Int) ∧ (2 ^ 37 - 1 : Int) < 2 ^ 37 := by decide +kernel

/-- A `loopv` at 0x10000 whose body is ADD s0, s0, s0. -/
def atLoop (n : Nat) : State :=
  let s := vec [(1, n)]
  { s with mem := s.mem.setBytes 0x10004 4 0x02000000 }

/-- The state after the boundary of a `loopv` whose body's sector the slice has taken. -/
def afterLoop (n : Nat) : State × Bool :=
  stripBoundary { (atLoop n).fetchedBody ((atLoop n).pc + 4) 1 with strand := { (atLoop n).strand with loop := none } }

theorem witness_Loops : (okAnd (captureBody (atLoop 0) ((atLoop 0).pc + 4) 1) (fun b => b == [0x02000000]) = true ∧
    ((atLoop 0).rdS 1).toInt ≤ 0 ∧ (atLoop 0).turn = none ∧ (atLoop 0).exposed = false) ∧
    (okAnd (captureBody (atLoop 5) ((atLoop 5).pc + 4) 1) (fun b => b == [0x02000000]) = true ∧ 0 < ((atLoop 5).rdS 1).toInt ∧
      (afterLoop 5).2 = false ∧ (afterLoop 5).1.strand.vlmax = 4096 ∧ (afterLoop 5).1.exposed = false) ∧
    (let s := { regs [(1, 5)] with mem := (atLoop 5).mem }
     okAnd (captureBody s (s.pc + 4) 1) (fun _ => true) = true ∧ 0 < (s.rdS 1).toInt ∧
      (let b := stripBoundary { s.fetchedBody (s.pc + 4) 1 with strand := { s.strand with loop := none } }
       b.2 = false ∧ b.1.strand.vlmax = 0)) := by decide +kernel

/-- The sector at 0x30000 under another tag. -/
def retagged (t : Tag) (l : List (Nat × Nat)) : State :=
  let s := regs l
  { s with mem := s.mem.setTag (0x30000 / 128) t }

/-- What the clauses on a load ask of the state before its sector is looked at. -/
def loadMeets (i : Instr) (s : State) (f : Page → Sector → Bool) : Bool :=
  someAnd (loadRow i) fun r => s.guard0 && decide (s.turn = none) && decide ((r.2.1 s).toNat % r.2.2.1 = 0) &&
    okAnd (translate s s.ctx .read (r.2.1 s)) fun p => okAnd (loadSector s s.ctx p (r.2.1 s) false) fun x => f p x.1

theorem witness_LoadsAndStores :
    loadMeets (.ldD 5 2 0) (regs [(2, 0x30000)]) (fun p x => !malformedSector p.grid x.tag && decide (tagVcls x.tag ≠ clsPoison)) = true ∧
    loadMeets (.ldB 5 2 0) (retagged (mkTag clsUndef 127 (Fmt.code .raw)) [(2, 0x3007F)])
      (fun p x => !malformedSector p.grid x.tag && decide (tagVcls x.tag = clsUndef)) = true ∧
    someAnd (loadRow (.ldH 5 2 0)) (fun r => decide ((r.2.1 (regs [(2, 0x30001)])).toNat % r.2.2.1 ≠ 0)) = true ∧
    someAnd (loadRow (.ldAcq 5 2 .fabric 0)) (fun r => match translate (regs [(2, 2 ^ 60)]) (regs [(2, 2 ^ 60)]).ctx .read (r.2.1 (regs [(2, 2 ^ 60)])) with
      | .error (.trap _) => true
      | _ => false) = true ∧
    loadMeets (.ldD 5 2 0) (retagged (mkTag clsValid 127 0x3F) [(2, 0x30000)]) (fun p x => malformedSector p.grid x.tag) = true ∧
    loadMeets (.ldD 5 2 0) (retagged (mkTag clsPoison 127 (Fmt.code .raw)) [(2, 0x30000)])
      (fun p x => !malformedSector p.grid x.tag && decide (tagVcls x.tag = clsPoison)) = true ∧
    (let s := regs [(2, 0x30000), (5, 7)]
     s.guard0 = true ∧ copiesDone s .copies = .ok () ∧ fabricRelease s .fabric true true = .ok () ∧
     okAnd (translate s s.ctx .write (s.rdS 2 + 0)) (fun p => okAnd (storeSector s s.ctx p 0x30000 (byteMask 0 8) none
       (.bytes 0 8 7) false) (fun _ => true)) = true) := by decide +kernel

/-- The page of an address. -/
def pageAt (s : State) (k : Access) (va : Word) : Page := (got (translate s s.ctx k va)
  { pa := 0, size := 0, grid := .raw, dfmt := 0, dpol := 0, pack := false, grind := false, res := 0, rgv := false, rgn := 0, wsh := false, hen := false })

theorem witness_PlainAccess : (mapped.Canonical ∧ PlainSector mapped (pageAt mapped .read 0x30078) 0x30078 false ∧
      PlainSector mapped (pageAt mapped .write 0x30078) 0x30078 true ∧ (0x30078 : Word).toNat % 128 + 8 ≤ 128) ∧
    (let s := regs [(2, 0x30078), (5, 7)]
     s.Canonical ∧ s.guard0 = true ∧ (s.rdS 2).toNat % 8 = 0 ∧ translate s s.ctx .read 0x30078 = .ok (pageAt s .read 0x30078) ∧
     translate s s.ctx .write 0x30078 = .ok (pageAt s .write 0x30078) ∧ translate s s.ctx .rmw 0x30078 = .ok (pageAt s .rmw 0x30078) ∧
     PlainSector s (pageAt s .read 0x30078) 0x30078 false ∧ PlainSector s (pageAt s .write 0x30078) 0x30078 true ∧
     PlainSector s (pageAt s .rmw 0x30078) 0x30078 true ∧
     (∀ k ∈ [Access.read, .write, .rmw], malformedSector (pageAt s k 0x30078).grid (s.mem.tag ((pageAt s k 0x30078).pa / 128)) = false ∧
       tagVcls (s.mem.tag ((pageAt s k 0x30078).pa / 128)) ≠ clsPoison) ∧
     (someAnd (loadRow (.ldB 1 2 0)) (fun r => decide (r.2.1 s = 0x30078)) = true ∧ someAnd (storeRow (.stRel 5 2 .fabric 0))
       (fun r => decide (r.2.1 s = 0x30078)) = true ∧ someAnd (amoRow (.amoSwap 1 2 5 .die)) (fun r => r.2.1 == 2) = true) ∧
     copiesDone s .copies = .ok () ∧ s.unacked = []) := by
  refine ⟨⟨by unfold State.Canonical; decide +kernel, sector_of _ _ _ _ (by decide +kernel), sector_of _ _ _ _ (by decide +kernel), by decide⟩,
    by unfold State.Canonical; decide +kernel, by decide +kernel, by decide +kernel, ok_got _ _ (by decide +kernel),
    ok_got _ _ (by decide +kernel), ok_got _ _ (by decide +kernel), sector_of _ _ _ _ (by decide +kernel), sector_of _ _ _ _ (by decide +kernel),
    sector_of _ _ _ _ (by decide +kernel), by decide +kernel, by decide +kernel, by decide +kernel, by decide +kernel⟩

def freshView : View :=
  { parent := 0, depth := 1, state := .running, generation := 0, fork := 0, index := 0, core := 0, gid := some 0, block := 0, copies := [], spilled := []
    outbox := [], image := none, strip := none }

/-- A strand in view 1 of the world below the base view. -/
def inWorld (l : List (Nat × Nat)) : State :=
  let s := with_ (fun x => let y := setRegs l x
    { y with sys := { y.sys with view := 1 + 2 ^ 12 } })
  { s with views := [(1, freshView)], forks := [(0, [{ id := 1, state := .running, verdict := 0 }])] }

theorem witness_StoreInWorld : (inWorld []).ctx.view ≠ 0 ∧ lookupNat (inWorld []).ctx.view (inWorld []).views = some freshView ∧
    physClass (pageAt (inWorld []) .write 0x30000).pa = .hbm ∧ okAnd (storeSector (inWorld []) (inWorld []).ctx
      (pageAt (inWorld []) .write 0x30000) 0x30000 (byteMask 0 8) none (.bytes 0 8 7) false) (fun _ => true) = true ∧
    unseen (inWorld []) (inWorld []).ctx (0x30000 / 128) = none ∧ (pageAt (inWorld []) .write 0x30000).pa / 128 = 0x30000 / 128 ∧
    (pageAt (inWorld []) .write 0x30000).pack = false ∧ (pageAt (inWorld []) .write 0x30000).grind = false ∧ (inWorld []).llc = [] := by
  decide +kernel

/-- What the clauses on an element access ask. -/
def elementMeets (i : Instr) (s : State) : Bool :=
  someAnd (elementLoadRow i) fun r => s.guard0 && okAnd (translate s s.ctx .read (r.2.1 s)) fun p =>
    decide ((r.2.1 s).toNat % (p.grid.width 32 / 8) = 0) && okAnd (loadSector s s.ctx p (r.2.1 s) false) fun x =>
      !malformedSector p.grid x.1.tag && decide (tagVcls x.1.tag ≠ clsPoison) &&
        decide (r.2.2 ≠ .raw → tagFormat x.1.tag ≠ .raw ∧ tagVcls x.1.tag ≠ clsUndef)

theorem witness_ElementAccess : elementMeets (.ldeF32 5 2 0) (regs [(2, 0x20002007C)]) = true ∧
    elementMeets (.ldeI64 5 2 0) (regs [(2, 0x200020000)]) = true ∧ elementMeets (.ldeRaw 5 2 0) (regs [(2, 0x30000)]) = true ∧
    (∀ i ∈ [Instr.steF32 5 2 4, .steI64 5 2 4, .steRaw 5 2 4], (let s := regs [(2, 0x200020000), (5, 0x1FC0000000000000 + 0x3F800000)]
     someAnd (elementStoreRow i) (fun r => s.guard0 && okAnd (translate s s.ctx .write (r.2.1 s)) fun p =>
       decide ((r.2.1 s).toNat % (p.grid.width 32 / 8) = 0) && okAnd (peekSector s s.ctx p (r.2.1 s)) fun x =>
       !malformedSector p.grid x.tag && !elementForbidden x p r.2.2 &&
       let w := elementWrite x p.grid p.dfmt 1 (s.rdS 5) r.2.2 (s.strand.rounding 0)
       okAnd (storeSector s s.ctx p (r.2.1 s) (elementBytes 1 (Fmt.width (p.grid.width 32) (tagFormat w.1.tag))) (some (BitVec.twoPow 128 1))
         (.element p.grid p.dfmt 1 (s.rdS 5) r.2.2 s.strand.roundState) false) (fun _ => true)) = true)) := by decide +kernel

/-- Virtual addresses from 32 GiB on lead to the fabric window, whose first slot is device 7, reached by port 3; its answer to an atomic at
the window's doubleword 2 has come. -/
def atPeer (l : List (Nat × Nat)) : State :=
  let s := regs l
  { s with
    mem := { s.mem with cells := s.mem.cells ++ [(0x1004040, 0x3F), (0x1004046, 4), (0x1004048, 3)] }
    mgmt := { s.mgmt with
      fwmapForce := [(0, (2 + 4 * 7, 0))]
      ports := [(3, (true, 1))]
      bound := [(7, 8)] }
    replies := [(0, [(2 ^ 64 + windowBase + 0x10, { port := 3, header := 0, mask := 0, blocks := [9] })])] }

theorem witness_Atomics : (let s := regs [(1, 0x30078), (2, 5)]
    someAnd (amoRow (.amoCas 3 1 2 .fabric)) (fun _ => true) = true ∧ s.guard0 = true ∧ (s.rdS 1).toNat % 8 = 0 ∧
    okAnd (translate s s.ctx .rmw (s.rdS 1)) (fun p => decide (physClass p.pa = .hbm) && okAnd (peekSector s s.ctx p (s.rdS 1))
      (fun x => !malformedSector p.grid x.tag && decide (tagVcls x.tag ≠ clsPoison) && (peerOf s p).isNone &&
        okAnd (storeSector s { s.ctx with llc := atLlc .fabric } p (s.rdS 1) (byteMask 120 8) none (.amo .cas 120 (s.rdS 2) (s.rdS 3)) false)
          (fun _ => true))) = true) ∧
    (let s := atPeer [(1, 0x800000010), (2, 5)]
     someAnd (amoRow (.amoCas 3 1 2 .fabric)) (fun _ => true) = true ∧ s.turn = none ∧ s.guard0 = true ∧ (s.rdS 1).toNat % 8 = 0 ∧
     okAnd (translate s s.ctx .rmw (s.rdS 1)) (fun p => decide (peerOf s p = some (7, 0x10)) &&
       someAnd (lookupNat (2 ^ 64 + p.pa) ((lookupNat s.strandId s.replies).getD [])) (fun m => m.header.extractLsb' 156 1 != 1)) = true) := by
  decide +kernel

/-- Round region 5 is valid for address space 0; the die's shadow is 3; with a copy of stamp 7 of the sector at 0x40000, that the strand's
own task has written since or not, or none. -/
def inRegion (c : Option Bool) (l : List (Nat × Nat)) : State :=
  let s := { regs l with regions := [(5, { Region.reset with valid := true })] }
  let d := s.die 0
  let x : Slot := { dirty := false, stale := true, gen := 0, stamp := 7, asid := 0, vline := 0, hen := false, region := some 5, data := none, arrives := 0
                    writers := if c = some true then [(0, 0)] else [] }
  s.setDie 0 { d with
    shadows := [(5, 3)]
    slots := if c.isSome then [(0x40000 / 128 * 4096, x)] else [] }

theorem witness_BoundedAccess :
    (let s := regs [(1, 0x30000), (2, 3)]
     s.turn = none ∧ s.guard0 = true ∧ (s.rdS 1).toNat % 8 = 0 ∧ okAnd (translate s s.ctx .read (s.rdS 1)) (fun p =>
       okAnd (boundedLoad s s.ctx p (s.rdS 1) (s.rdS 2 - 3) true) (fun x => !malformedSector p.grid x.1.tag &&
         decide (tagVcls x.1.tag ≠ clsPoison))) = true) ∧
    (∀ c ∈ [none, some false, some true], let s := inRegion c []
     let ctx := { s.ctx with owner := some (0, 0) }
     let p := pageAt s .read 0x600040000
     p.rgv = true ∧ p.rgn = 5 ∧ someAnd (lookupNat 5 s.regions) (fun r => r.valid) = true ∧ ctx.view = 0 ∧
     tagVcls (s.physTag (p.pa / 128)) ≠ clsBusy ∧ copyHold s ctx 0x600040000 false false = none ∧ p.pack = false ∧ p.grind = false ∧
     s.llc = [] ∧
     (c ≠ none → someAnd (lookupNat (p.pa / 128 * 4096) (s.die ctx.die).slots) (fun x => decide (0 ≤ (x.stamp - 7).toInt) &&
       (x.writers.contains (0, 0) == (c == some true))) = true) ∧
     (c ≠ none → someAnd (lookupNat (p.pa / 128 * 4096) (s.die ctx.die).slots) (fun x => decide ((x.stamp - 8).toInt < 0)) = true) ∧
     (c = none → lookupNat (p.pa / 128 * 4096) (s.die ctx.die).slots = none) ∧
     ((((lookupNat 5 (s.die ctx.die).shadows).getD 0) - 8).toInt < 0) ∧ 0 ≤ (((lookupNat 5 (s.die ctx.die).shadows).getD 0) - 3).toInt) := by
  decide +kernel

/-- A strand that handles a trap. -/
def inTrap (l : List (Nat × Nat)) : State := with_ (fun x => statusOf 0x6400 (setRegs l x))

theorem witness_TakingTraps : mapped.strand.sys.status.getLsbD 13 = false ∧
    ((inTrap []).strand.sys.status.getLsbD 13 = true ∧ (inTrap []).strand.vid = 0) ∧
    (let s := { inWorld [] with strand := statusOf 0x6400 (inWorld []).strand }
     s.strand.sys.status.getLsbD 13 = true ∧ s.strand.vid = 1 ∧ ∀ p ∈ s.views, p.2.parent ≠ s.strand.vid) := by decide +kernel

theorem witness_EnteringTraps : mapped.strand.sys.status.getLsbD 13 = false ∧ postsRecord 0x0C = false ∧ postsRecord 0x0B = true ∧
    mapped.turn = none ∧ mapped.guard0 = true ∧ (guardedOff []).guard0 = false ∧ (guardedOff []).turn = none ∧
    (inTrap []).guard0 = true ∧ (inTrap []).strand.sys.status.getLsbD 13 = true ∧ (inTrap []).strand.vid = 0 := by decide +kernel

/-- In a handler that came from an exposed region whose schedule is held. -/
def fromExposed : State :=
  let s := with_ (fun x => statusOf 0x7400 x)
  { s with strand := { s.strand with heldRegion := [{ Sched.reset with clock := 9 }] } }

theorem witness_ReturnFromTrap : ∀ s ∈ [inTrap [], fromExposed], s.turn = none ∧ s.strand.sys.status.getLsbD 10 = true ∧
    drained s s.strandId = true ∧ s.strand.sys.epc.toNat % 4 = 0 ∧
    (s.strand.sys.status.getLsbD 12 = true → s.strand.heldRegion = { Sched.reset with clock := 9 } :: []) ∧
    (s.strand.sys.status.getLsbD 12 = true ∨ ∀ r ∈ s.strand.heldRegion.take 1, r.commits = []) := by decide +kernel

theorem witness_OperandTraps : mapped.turn = none ∧ 64 ≤ (64 : BitVec 13).toNat ∧
    (someAnd (transferRow (.jmpReg 1 0)) (fun r => decide ((r.2 (regs [(1, 2)])).toNat % 4 ≠ 0)) = true ∧ (regs [(1, 2)]).guard0 = true) ∧
    atDone.turn = some 0 ∧
    (let s := with_ (fun x => { x with pc := 2 ^ 60 })
     s.turn = none ∧ (match fetchAt s s.pc with
       | .error (.trap _) => true
       | _ => false) = true) ∧
    mapped.strand.sys.status.getLsbD 10 = false := by decide +kernel

theorem witness_SpecialRegisters :
    (let s := privileged [(1, 0x349F)]
     s.turn = none ∧ s.guard0 = true ∧ (∀ k < 64, bitAccess .status k = .reserved → (s.rdS 1).getLsbD k = false) ∧
       s.strand.sys.status.getLsbD 10 = true) ∧
    (let s := regs [(1, 0x401F)]
     (∀ k < 64, bitAccess .status k = .reserved → (s.rdS 1).getLsbD k = false) ∧
       ∀ k < 64, bitAccess .status k = .rwp → (s.rdS 1).getLsbD k = (sysValue s .status).getLsbD k) ∧
    (let s := regs [(1, 2 ^ 63)]
     bitAccess .status 63 = .reserved ∧ (s.rdS 1).getLsbD 63 = true ∧ s.turn = none ∧ s.guard0 = true) ∧
    (let s := regs [(1, 0x4400)]
     (∀ k < 64, bitAccess .status k = .reserved → (s.rdS 1).getLsbD k = false) ∧ s.strand.sys.status.getLsbD 10 = false ∧
       bitAccess .status 10 = .rwp ∧ (s.rdS 1).getLsbD 10 ≠ (sysValue s .status).getLsbD 10) := by decide +kernel

theorem witness_limits : fieldLimit .status 0x349F ∧ fieldLimit .status 0x401F ∧ fieldLimit .status 0x4400 ∧ ¬ fieldLimit .status 0xFF ∧
    ¬ fieldLimit .inldepth 9 := by
  simp [fieldLimit]

theorem witness_SystemInstructions : mapped.turn = none ∧ ((privileged []).strand.sys.status.getLsbD 10 = true ∧
      copiesOf (privileged []) (privileged []).strandId = []) ∧
    drained mapped mapped.strandId = true ∧ mapped.cycle.toNat ≤ 2 ^ 64 ∧ ((regs [(1, 0)]).rdS 1).toNat ≤ (regs [(1, 0)]).cycle.toNat ∧
    (((privileged [(1, 4095)]).rdS 1).toNat < 2 ^ 12 ∧ (privileged []).strand.depth = 0) ∧
    (let s := privileged [(1, 2 ^ 12), (2, 0)]
     (s.rdS 1).toNat < 2 ^ 14 ∧ 2 ^ 12 ≤ (s.rdS 1).toNat ∧ (s.rdS 2).toNat < 2 ^ 8 ∧
       malformedEntry ((s.rdS 1).extractLsb' 6 6) ((s.rdS 1).extractLsb' 0 6) ((s.rdS 2).setWidth 8) = false) := by decide +kernel

/-- A strand with a wait. -/
def waiting (w : Wait) (f : Strand → Strand := id) : State := with_ (fun x => f { x with wait := some w })

theorem witness_EventWaits : mapped.turn = none ∧ ((with_ (fun x => { x with eventFlag := true })).strand.eventFlag = true ∧ mapped.strand.monitors = []) ∧
    (∀ v ∈ [0, 0x8877665544332211], (let s := regs [(1, 0x30000), (2, v)]
     s.strand.eventFlag = false ∧ okAnd (loadBytes s (s.rdS 1) 8) (fun x => decide (BitVec.ofNat 64 x.1 = s.rdS 2 ↔ v ≠ 0) &&
       decide (x.2.turn = none)) = true ∧ okAnd (translate s s.ctx .read (s.rdS 1)) (fun _ => true) = true)) ∧
    mapped.cycle.toNat < ((regs [(1, 1000000)]).rdS 1).toNat ∧
    (let s := privileged [(2, 2 ^ 12 + 5)]
     s.strand.sys.status.getLsbD 10 = true ∧ s.strand.depth = 0 ∧ (s.rdS 2).toNat < 2 ^ 14 ∧ (s.rdS 2).toNat / 2 ^ 12 ≠ 3) ∧
    (let s := waiting .event (fun x => { x with eventFlag := true })
     (s.strandAt 0).phase = .running ∧ s.strandId = 0 ∧ (s.strandAt 0).wait = some .event ∧ (s.strandAt 0).eventFlag = true) ∧
    (let s := waiting (.sleep 0)
     (s.strandAt 0).wait = some (.sleep 0) ∧ (0 : Word).toNat ≤ s.cycle.toNat) ∧
    (let s := waiting (.tlbinv 1 5 0)
     (s.strandAt 0).wait = some (.tlbinv 1 5 0) ∧ dropPending s 1 5 0 = false) ∧
    (let s := waiting .drain
     (s.strandAt 0).wait = some .drain ∧ drained s 0 = true) := by decide +kernel

theorem witness_VectorConfiguration : mapped.turn = none ∧ mapped.exposed = false ∧ mapped.lent = none ∧ (1 : SReg) ≠ 0 ∧ (2 : BitVec 2) ≠ 3 ∧
    vectorPending mapped.strand = false ∧
    (∀ n ∈ [0, 5], (let s := vec [(2, n)]
     s.turn = none ∧ s.exposed = false ∧ s.lent = none ∧ (stripBoundary s).2 = false ∧ (stripBoundary s).1.exposed = false ∧
     (stripBoundary s).1.turn = none ∧ (stripBoundary s).1.lent = none ∧ (stripBoundary s).1.strand.s = s.strand.s)) := by decide +kernel

theorem witness_VectorArithmetic : VecReady (vec []) (.vadd 3 1 2) ∧ (PlainReg (vec []) 1 .fp32 ∧ PlainReg (vec []) 2 .fp32) ∧
    someAnd (vectorRow (.vadd 3 1 2)) (fun r => r.2.1 == [1, 2] && r.2.2.2.2 .fp32 == .fp32) = true ∧ Fmt.fp32 ∈ plainFloats ∧
    (∀ i ∈ [Instr.vadd 3 1 2, .vfma 3 1 2, .vfms 3 1 2, .vmin 3 1 2, .vmax 3 1 2, .vdiv 3 1 2, .vsel 3 1 2 1, .vcvt 3 1 .fp16, .vcvtSat 3 1 .fp16,
      .vcvtFit 3 1 .fp16, .vbcastF32 3 9 .fp32, .vbcastI64 3 9 .fp32], (valueRow (vec []) 1 i).isSome = true) ∧ Fmt.isMicro .fp32 = false ∧
    (functionRow (.vexp 3 1)).isSome = true ∧ (vec []).guardAt 1 = true ∧
    (vec []).strand.bank = 0 ∧ Fmt.isWide .fp32 = false ∧ Fmt.width (vec []).strand.wmax .fp32 ≤ (vec []).strand.wmax ∧
    ((vec []).exposed = false ∧ (vec []).lent = none ∧ (vec []).strand.sys.vstart.toNat ≤ 1 ∧ 1 < (vec []).strand.vl) ∧
    (∀ i ∈ [Instr.vsub 3 1 2, .vmul 3 1 2, .vneg 3 1, .vabs 3 1], VecReady (vec []) i) := by
  refine ⟨ready_of _ _ (by decide +kernel), ⟨plain_of _ _ _ (by decide +kernel), plain_of _ _ _ (by decide +kernel)⟩, by decide +kernel,
    by decide +kernel, by decide +kernel, by decide +kernel, by decide +kernel, by decide +kernel, by decide +kernel, by decide +kernel,
    by decide +kernel, by decide +kernel, ?_⟩
  have h : ∀ i ∈ [Instr.vsub 3 1 2, .vmul 3 1 2, .vneg 3 1, .vabs 3 1], readyB (vec []) i = true := by decide +kernel
  exact fun i hi => ready_of _ _ (h i hi)

theorem witness_VectorBitsAndCompares : VecReady (vec []) (.vand 1 3 4) ∧ (PlainReg (vec []) 3 .raw ∧ PlainReg (vec []) 4 .raw) ∧
    tagScale ((vec []).vreg 3).tag = tagScale ((vec []).vreg 4).tag ∧ someAnd (bitsRow (.vand 1 3 4)) (fun _ => true) = true ∧
    (VecReady (vec []) (.vsll 1 5 3) ∧ PlainReg (vec []) 5 .int32 ∧ Fmt.isInt .int32 = true ∧
      someAnd (shiftRow (.vsll 1 5 3)) (fun _ => true) = true) ∧
    (VecReady (vec []) (.vcmpLe 15 1 2) ∧ PlainReg (vec []) 1 .fp32 ∧ someAnd (compareRow (.vcmpLe 15 1 2)) (fun _ => true) = true ∧
      (vec []).strand.bank = 0 ∧ ((vec []).vreg 1).isUndef = false ∧ ((vec []).vreg 2).isUndef = false) := by
  refine ⟨ready_of _ _ (by decide +kernel), ⟨plain_of _ _ _ (by decide +kernel), plain_of _ _ _ (by decide +kernel)⟩, by decide +kernel,
    by decide +kernel, ⟨ready_of _ _ (by decide +kernel), plain_of _ _ _ (by decide +kernel), by decide +kernel, by decide +kernel⟩,
    ready_of _ _ (by decide +kernel), plain_of _ _ _ (by decide +kernel), by decide +kernel, by decide +kernel, by decide +kernel,
    by decide +kernel⟩

/-- Predicate p1 selects position 1. -/
def chosen2 (l : List (Nat × Nat)) : State :=
  let s := vec l
  { s with strand := { s.strand with p := s.strand.p.set 1 2 } }

theorem witness_ReductionsAndMoves : (VecReady (vec []) (.vredAdd 1 2 0) ∧ (vec []).strand.bank = 0 ∧
      someAnd (reduceRow (vec []) (.vredAdd 1 2 0)) (fun r => r.2.1 == [2]) = true ∧ PlainReg (vec []) 2 .fp32 ∧ ((vec []).vreg 2).isUndef = false) ∧
    (VecReady (vec []) (.vdot 9 1 2) ∧ someAnd (reduceRow (vec []) (.vdot 9 1 2)) (fun r => r.2.1 == [1, 2]) = true ∧
      PlainReg (vec []) 1 .fp32 ∧ ((vec []).vreg 1).isUndef = false) ∧
    (VecReady (vec []) (.vredXor 1 3 2) ∧ someAnd (reduceBitsRow (.vredXor 1 3 2)) (fun _ => true) = true ∧ PlainReg (vec []) 3 .raw ∧
      ((vec []).vreg 3).isUndef = false ∧ (vec []).lent = none) ∧
    (VecReady (vec []) (.vperm 7 1 5) ∧ someAnd (moveRow (.vperm 7 1 5)) (fun r => r.2.2.1 == some 5) = true ∧ PlainReg (vec []) 1 .fp32 ∧
      Fmt.isMicro .fp32 = false ∧ PlainReg (vec []) 5 .int32 ∧ indexFormat .int32 = true ∧ ((vec []).vreg 5).isUndef = false) ∧
    (VecReady (vec []) (.viota 7 1 (Fmt.code .uint8)) ∧ Fmt.range .uint8 = some (0, 255) ∧ (vec []).strand.tooWide .uint8 = false) ∧
    ((∀ i ∈ [Instr.vcompress 7 1 1, .vexpand 7 1 1], VecReady (chosen2 []) i) ∧ PlainReg (chosen2 []) 1 .fp32 ∧
      (chosen2 []).chosen 1 = [1]) := by
  refine ⟨⟨ready_of _ _ (by decide +kernel), by decide +kernel, by decide +kernel, plain_of _ _ _ (by decide +kernel), by decide +kernel⟩,
    ⟨ready_of _ _ (by decide +kernel), by decide +kernel, plain_of _ _ _ (by decide +kernel), by decide +kernel⟩,
    ⟨ready_of _ _ (by decide +kernel), by decide +kernel, plain_of _ _ _ (by decide +kernel), by decide +kernel, by decide +kernel⟩,
    ⟨ready_of _ _ (by decide +kernel), by decide +kernel, plain_of _ _ _ (by decide +kernel), by decide +kernel,
      plain_of _ _ _ (by decide +kernel), by decide +kernel, by decide +kernel⟩,
    ⟨ready_of _ _ (by decide +kernel), by decide +kernel, by decide +kernel⟩, ?_, plain_of _ _ _ (by decide +kernel), by decide +kernel⟩
  have h : ∀ i ∈ [Instr.vcompress 7 1 1, .vexpand 7 1 1], readyB (chosen2 []) i = true := by decide +kernel
  exact fun i hi => ready_of _ _ (h i hi)

/-- v1 and v3 are FP16 with scale 127. -/
def vecHalf (l : List (Nat × Nat)) : State :=
  let s := vec l
  let h : VReg := vreg2 (mkTag clsValid 127 (Fmt.code .fp16)) 0x3C00 0x4000
  { s with strand := { s.strand with v := (s.strand.v.set 1 h).set 3 h } }

/-- The state of the witness: `s9` holds a shift, an index or a tag, in an interlocked or an exposed region. -/
def tagging (x : Nat) (exposed : Bool) : State :=
  let s := vecHalf [(9, x)]
  if exposed then { s with strand := statusOf 0x4100 s.strand } else s

theorem tagging_ready : ∀ q ∈ [(1, false), (0x1FC0 + (Fmt.code .fp32).toNat, false), (127, true)], (tagging q.1 q.2).turn = none ∧
    (tagging q.1 q.2).strand.nreg = 8 ∧ (tagging q.1 q.2).strand.grant ≠ 0 ∧
    (tagging q.1 q.2).strand.sys.vstart.toNat < (tagging q.1 q.2).strand.vl ∧
    ((tagging q.1 q.2).strand.vl ≤ (tagging q.1 q.2).strand.vlmax ∧ (tagging q.1 q.2).strand.vlmax ≤ 131072) ∧
    plainB (tagging q.1 q.2) 1 .fp16 = true ∧ plainB (tagging q.1 q.2) 3 .fp16 = true := by decide +kernel

/-- Each clause in states where its instruction is ready, source and destination of one format. -/
theorem witness_VectorTags : (∀ q ∈ [(1, false), (0x1FC0 + (Fmt.code .fp32).toNat, false), (127, true)],
      PlainReg (tagging q.1 q.2) 1 .fp16 ∧ PlainReg (tagging q.1 q.2) 3 .fp16 ∧
      ∀ i ∈ [Instr.vretag 3 1 .fp32, .vtag 3 9, .vtagRd 9 1, .vtagRd 0 1, .vscale 3 1 9, .vbcastRaw 3 9 .fp32, .vbcastEl 3 1 9],
        VecReady (tagging q.1 q.2) i) ∧
    (let s := tagging 1 false
     Fmt.isWide .fp32 = false ∧ Fmt.width s.strand.wmax .fp32 ≤ s.strand.wmax ∧ Fmt.isMicro .fp32 = false ∧
     malformedReg (mkTag (tagVcls (s.vreg 1).tag) (tagScale (s.vreg 1).tag) (Fmt.code .fp32)) = false ∧
     (s.rdS 9).toNat < s.strand.vl ∧ s.strand.sys.vstart.toNat ≤ 1 ∧ 1 < s.strand.vl ∧ s.guardAt 1 = true) ∧
    ((tagging (0x1FC0 + (Fmt.code .fp32).toNat) false).rdS 9 = (mkTag clsValid 127 (Fmt.code .fp32)).setWidth 64 ∧
      malformedReg (mkTag clsValid 127 (Fmt.code .fp32)) = false) ∧
    (let s := tagging 127 true
     s.exposed = true ∧ Fmt.isFolding .fp16 = false ∧ tagScale (s.vreg 1).tag ≠ 0xFF ∧ 0 ≤ (tagScale (s.vreg 1).tag).toNat + (s.rdS 9).toInt ∧
     (tagScale (s.vreg 1).tag).toNat + (s.rdS 9).toInt ≤ 254) := by
  refine ⟨fun q hq => ?_, by decide +kernel, by decide +kernel, by decide +kernel⟩
  obtain ⟨h1, h2, h3, h4, h5, h6, h7⟩ := tagging_ready q hq
  refine ⟨plain_of _ _ _ h6, plain_of _ _ _ h7, fun i hi => ⟨h1, ?_, h3, h4, h5⟩⟩
  have d : ∀ i ∈ [Instr.vretag 3 1 .fp32, .vtag 3 9, .vtagRd 9 1, .vtagRd 0 1, .vscale 3 1 9, .vbcastRaw 3 9 .fp32, .vbcastEl 3 1 9],
      ∀ r ∈ vregsOf i, r.toNat < 8 := by decide +kernel
  exact h2 ▸ d i hi

theorem witness_VectorGates : (vec []).turn = none ∧ (∃ r ∈ vregsOf (.vmul 3 1 8), (vec []).strand.nreg ≤ r.toNat) ∧
    (∀ r ∈ vregsOf (.vmul 7 1 2), r.toNat < mapped.strand.nreg) ∧ mapped.strand.grant = 0 ∧
    (vectorRow (.vmul 3 1 8)).isSome = true := by decide +kernel

/-- What the clauses on vector memory ask of the elements: the address translates, the checks end with `f`, and `perform` succeeds. -/
def memMeets (i : Instr) (s : State) (f : Option (Nat × Stop) → Bool) (n : Nat) : Bool :=
  readyB s i && someAnd (memRow s i) fun m =>
    decide (∀ r ∈ m.formats, s.strand.tooWide (s.vreg r).fmt = false) &&
    decide (∀ b, m.access.index = some b → indexFormat (s.vreg b).fmt = true ∧ (s.vreg b).isUndef = false) &&
    okAnd (translate s s.ctx m.access.kind m.access.base) fun p =>
      let w := walkElts (checkElt m.access p.grid s) (s, []) s.actives
      f w.2 && okAnd (m.perform s w.1 n) (fun t => decide (t.turn = none))

theorem witness_VectorMemory : memMeets (.vldx 4 1 6) (vec [(1, 0x30000)]) Option.isNone 2 = true ∧
    memMeets (.vst 3 1 0) (vec [(1, 0x30000)]) Option.isNone 2 = true ∧
    (memMeets (.vamoCas 3 1 6 .strand) (vec [(1, 0x30000)]) Option.isNone 2 = true ∧ (3 : VIdx).toNat + 1 < (vec []).strand.nreg) ∧
    (vec [(1, 0x30000)]).actives ≠ [] ∧
    memMeets (.vld 4 1 0) (vec [(1, 0x30002)]) (fun o => match o with
      | some (0, .trap _) => true
      | _ => false) 0 = true ∧
    (let s := with_ (fun x => { vecStrand (setRegs [(1, 0x30000)] x) with lent := some (mkLent 1 false 0 false 0) })
     s.actives = [] ∧ readyB s (.vld 4 1 0) = true ∧ someAnd (memRow s (.vld 4 1 0)) (fun m => okAnd (m.perform s [] s.strand.vl) (fun _ => true)) = true)
    := by decide +kernel

/-- One element at position 0. -/
def vecOne (l : List (Nat × Nat)) : State :=
  let s := vec l
  { s with strand := s.strand.setVl 1 }

/-- The same over an INT32 sector in the page of 32-bit elements, with a ticket of the Touchstone. -/
def vecTicket (t : Tag) (l : List (Nat × Nat)) : State :=
  let s := vecOne l
  { s with
    mem := s.mem.setTag (0x30000 / 128) t
    strand := { s.strand with progress := some (.tickets 1) } }

/-- The second register of a `vamo.cas` is declared. -/
def pairB (i : Instr) (n : Nat) : Bool := match i with
  | .vamoCas d _ _ _ => decide (d.toNat + 1 < n)
  | _ => true

/-- What OneElement asks of the element at position `k`. -/
def oneB (s : State) (i : Instr) (m : MemRow) (g : Grid) (k : Nat) : Bool :=
  let w := g.width s.strand.wmax / 8
  let va := m.access.addr k w
  readyB s i && decide (s.strand.wmax = 8 ∨ s.strand.wmax = 16 ∨ s.strand.wmax = 32) && decide (s.exposed = false) &&
    decide (s.strand.depth = 0) && decide (s.strand.sys.vstart.toNat = k ∧ s.strand.vl = k + 1 ∧ s.guardAt k = true) &&
    pairB i s.strand.nreg &&
    decide (∀ b, m.access.index = some b → indexFormat (s.vreg b).fmt = true ∧ (s.vreg b).isUndef = false ∧ (s.vreg b).marks = 0) &&
    decide (∀ r ∈ m.formats, s.strand.tooWide (s.vreg r).fmt = false) && decide (∀ r ∈ m.access.data, (s.vreg r).marks = 0) &&
    decide (1 ≤ s.strand.tickets) && okAnd (translate s s.ctx m.access.kind m.access.base) (fun p => p.grid == g) &&
    decide (va.toNat % w = 0) && isOk (translate s s.ctx m.access.kind va) && decide ((pageAt s m.access.kind va).grid = g) &&
    sectorB s (pageAt s m.access.kind va) va (m.access.kind != .read)

theorem one_of (s : State) (i : Instr) (m : MemRow) (g : Grid) (k : Nat) (h : oneB s i m g k = true) :
    OneElement s i m g k (g.width s.strand.wmax / 8) (m.access.addr k (g.width s.strand.wmax / 8))
      (pageAt s m.access.kind (m.access.addr k (g.width s.strand.wmax / 8))) := by
  simp only [oneB, Bool.and_eq_true, decide_eq_true_eq] at h
  obtain ⟨⟨⟨⟨⟨⟨⟨⟨⟨⟨⟨⟨⟨⟨h1, h2⟩, h3⟩, h4⟩, h5⟩, h6⟩, h7⟩, h8⟩, h9⟩, h10⟩, h11⟩, h12⟩, h13⟩, h14⟩, h15⟩ := h
  refine ⟨ready_of _ _ h1, h2, h3, h4, h5, ?_, h7, h8, h9, fun _ => h10, rfl, ?_, ⟨rfl, h12, ok_got _ _ h13, h14⟩, sector_of _ _ _ _ h15⟩
  · rintro d a b sc rfl
    simpa [pairB] using h6
  · obtain ⟨p, hp, hg⟩ := (okAnd_exists _ _).mp h11
    exact ⟨p, hp, by simpa using hg⟩

def oneMeets (s : State) (i : Instr) (g : Grid) (t r : Tag) : Bool := someAnd (memRow s i) fun m => oneB s i m g 0 &&
  decide (s.mem.tag ((pageAt s m.access.kind (m.access.addr 0 (g.width s.strand.wmax / 8))).pa / 128) = t) && decide ((s.vreg m.reg).tag = r)

theorem one_exists (s : State) (i : Instr) (g : Grid) (t r : Tag) (h : oneMeets s i g t r = true) :
    ∃ m va q, memRow s i = some m ∧ OneElement s i m g 0 (g.width s.strand.wmax / 8) va q ∧ s.mem.tag (q.pa / 128) = t ∧ (s.vreg m.reg).tag = r := by
  obtain ⟨m, hm, hf⟩ := (someAnd_exists _ _).mp h
  simp only [Bool.and_eq_true, decide_eq_true_eq] at hf
  exact ⟨m, _, _, hm, one_of _ _ _ _ _ hf.1.1, hf.1.2, hf.2⟩

/-- An address in a RAW page, and one in the page of 32-bit elements. -/
def atRaw : State := vecTicket rawTag [(1, 0x30000), (2, 4)]
def at32 : State := vecTicket int32Tag [(1, 0x200030000)]

theorem witness_VectorElements : (atRaw.Canonical ∧ ∀ i ∈ [Instr.vld 4 1 0, .vlds 4 1 2, .vldx 4 1 6, .vldSc 4 1 0, .vldBndS 4 1 0 2, .vldBndF 4 1 0 2,
      .vst 4 1 0, .vsts 4 1 2, .vstx 4 1 6, .vstSc 4 1 0], ∃ m va q, memRow atRaw i = some m ∧ OneElement atRaw i m .raw 0 4 va q ∧
        atRaw.mem.tag (q.pa / 128) = rawTag ∧ (atRaw.vreg m.reg).tag = rawTag) ∧
    (at32.Canonical ∧ at32.strand.bank = 0 ∧ ∀ i ∈ [Instr.vsctadd 5 1 6 .die, .vamoAdd 5 1 6 .strand, .vamoMin 5 1 6 .core, .vamoMax 5 1 6 .cluster,
      .vamoSwap 5 1 6 .package, .vamoCas 5 1 6 .fabric], (elementRmwRow i).isSome = true ∧ ∃ m va q, memRow at32 i = some m ∧
        OneElement at32 i m .g32 0 4 va q ∧ at32.mem.tag (q.pa / 128) = int32Tag ∧ (at32.vreg m.reg).tag = int32Tag) := by
  refine ⟨⟨by unfold State.Canonical; decide +kernel, ?_⟩, by unfold State.Canonical; decide +kernel, by decide +kernel, ?_⟩
  · have h : ∀ i ∈ [Instr.vld 4 1 0, .vlds 4 1 2, .vldx 4 1 6, .vldSc 4 1 0, .vldBndS 4 1 0 2, .vldBndF 4 1 0 2, .vst 4 1 0, .vsts 4 1 2,
        .vstx 4 1 6, .vstSc 4 1 0], oneMeets atRaw i .raw rawTag rawTag = true := by decide +kernel
    have w : Grid.raw.width atRaw.strand.wmax / 8 = 4 := by decide +kernel
    exact fun i hi => w ▸ one_exists _ _ _ _ _ (h i hi)
  · have h : ∀ i ∈ [Instr.vsctadd 5 1 6 .die, .vamoAdd 5 1 6 .strand, .vamoMin 5 1 6 .core, .vamoMax 5 1 6 .cluster, .vamoSwap 5 1 6 .package,
        .vamoCas 5 1 6 .fabric], (elementRmwRow i).isSome = true ∧ oneMeets at32 i .g32 int32Tag int32Tag = true := by decide +kernel
    have w : Grid.g32.width at32.strand.wmax / 8 = 4 := by decide +kernel
    exact fun i hi => ⟨(h i hi).1, w ▸ one_exists _ _ _ _ _ (h i hi).2⟩

/-- One granule of strip memory and a RAW stream of 256 bytes at its start, on handle 1. -/
def withStrip (s : State) : State :=
  { s with strand := { s.strand with
    strip := [3]
    h := s.strand.h.set 1 { valid := true, base := 0, len := 256, grid := 3, wrap := false, pos := 128 } } }

/-- What the clause on a strip access asks. -/
def stripMeets (i : Instr) (s : State) : Bool :=
  readyB s i && someAnd (stripRow i) fun (h, r, st, _, perform) => s.strand.h[h.toNat].valid &&
    decide (st = true → s.strand.tooWide (s.vreg r).fmt = false) &&
    (let w := walkElts (stripElt s h (if st then some r else none)) (s, []) s.actives
     w.2.isNone && okAnd (perform s w.1 s.strand.vl) (fun _ => true))

/-- One element, at the place 128 of the allocation, in a VALID RAW sector. -/
def stripOne : State := (withStrip (vecOne [])).stripWrite 128 { bits := 0x11223344, tag := rawTag }

theorem witness_StripStreams : (let s := withStrip (regs [(1, 2 ^ 32 * 128 + 16256), (2, 7)])
     s.turn = none ∧ (s.rdS 2).toNat < 8 ∧ (s.rdS 1).toNat % 128 = 0 ∧ (s.rdS 1).toNat / 2 ^ 32 % 128 = 0 ∧ 0 < (s.rdS 1).toNat / 2 ^ 32 ∧
     (s.rdS 1).toNat % 2 ^ 32 + (s.rdS 1).toNat / 2 ^ 32 ≤ s.strand.strip.length * 16384) ∧
    (∀ i ∈ [Instr.stripLd 4 1, .stripLdNa 4 1, .stripSt 3 1, .stripStNa 3 1], stripMeets i (withStrip (vec [])) = true) ∧
    (∀ i ∈ [Instr.stripLd 4 1, .stripLdNa 4 1, .stripSt 3 1, .stripStNa 3 1], readyB stripOne i = true ∧
      someAnd (stripRow i) (fun (h, r, st, _, _) => decide (h = 1) && decide (stripOne.copiesMet stripOne.strandId true st 128 132 = []) &&
        decide ((stripOne.vreg r).tag = rawTag ∧ (stripOne.vreg r).marks = 0)) = true) ∧
    (let s := stripOne
     s.exposed = false ∧ s.strand.wmax = 32 ∧ s.strand.sys.vstart.toNat = 0 ∧ s.strand.vl = 1 ∧ s.guardAt 0 = true ∧
     s.strand.h[1].valid = true ∧ s.strand.h[1].grid = 3 ∧ s.strand.h[1].pos.toNat < s.strand.h[1].len.toNat ∧
     128 = s.strand.h[1].base.toNat + s.strand.h[1].pos.toNat ∧ 128 < s.strand.strip.length * 16384 ∧
     (s.stripRead 128).tag = rawTag ∧ ownsStrip s s.strand = true) := by decide +kernel

/-- Queue register 1 is bound to queue 2 of the core, which holds these entries. -/
def withQueue (l : List QEntry) (s : State) : State :=
  let t := { s with strand := { s.strand with q := s.strand.q.set 1 (some 2) } }
  t.setCore 0 { t.core 0 with queues := [(2, { owner := 0, bindings := 1, entries := l, at_ := 0, fresh := 0 })] }

/-- Room in the queue that queue register 1 is bound to. -/
def roomB (s : State) : Bool := okAnd (s.boundQueue 1) (fun r => isOk (s.roomIn r.1 r.2))

theorem witness_Queues :
    (∀ a ∈ [2, 66, 0, 63], (let s := withQueue [] (regs [(1, a)])
      s.turn = none ∧ s.guard0 = true ∧ s.strand.depth = 0 ∧ pushesPending s.strand = false ∧ (s.rdS 1).toNat < 192 ∧ (s.rdS 1).toNat / 64 ≠ 2 ∧
      (∀ y, s.queueOf ((s.rdS 1).toNat % 64) = some y → y.owner = s.strand.asid))) ∧
    (regs [(1, 128)]).rdS 1 = 128 ∧
    (let s := withQueue [.scalar true 5 false] mapped
     roomB s = true ∧ okAnd (s.boundQueue 1) (fun r => decide (r.1 = 2) && decide (r.2.entries = .scalar true 5 false :: []) && decide (r.2.ripe s.cycle ≠ [])) = true) ∧
    (let s := withQueue [] (regs [(1, 0x30000)])
     let va := s.rdS 1 + offM 1 128
     roomB s = true ∧ va.toNat % 128 = 0 ∧ s.exposed = false ∧ okAnd (translate s s.ctx .read va) (fun p => sectorB s p va false &&
       !malformedSector p.grid (s.mem.tag (p.pa / 128)) && okAnd (loadSector s (s.vecCtx false) p va false)
       (fun x => !malformedSector p.grid x.1.tag)) = true) ∧
    (let s := withQueue [] (vec [])
     readyB s (.qpushV 1 1) = true ∧ plainB s 1 .fp32 = true ∧ Fmt.isMicro .fp32 = false ∧ roomB s = true ∧ s.strand.wmax = 32 ∧
     s.actives ≠ [] ∧ s.actives.length ≤ 2048 / s.strand.wmax) ∧
    (∀ n ∈ [2, 64], (let e := QEntry.slots rawTag 32 (List.replicate n 0x3F800000) []
     let s := withQueue [e] (vec [])
     readyB s (.qpopV 3 1) = true ∧ readyB s (.qpeekV 3 1) = true ∧ s.strand.progress = none ∧ s.strand.wmax = 32 ∧ s.actives ≠ [] ∧
     s.exposed = false ∧ okAnd (s.boundQueue 1) (fun r => decide (r.2.ripe s.cycle = e :: [])) = true ∧ s.actives.length ≤ n)) := by
  refine ⟨by decide +kernel, by decide +kernel, by decide +kernel, ?_, by decide +kernel, by decide +kernel⟩
  decide +kernel

theorem canonical_queue : (withQueue [] (regs [(1, 0x30000)])).Canonical := by unfold State.Canonical; decide +kernel

/-- A strand with two watched counters at 0x30010 + 8 b and its deadline at cycle 1000. -/
def counting (b : Nat) : State :=
  let s := regs [(1, 0x30010 + 8 * b), (2, 1000)]
  { s with
    mem := s.mem.setBytes 0x30010 8 5
    strand := { s.strand with p := s.strand.p.set 1 3 } }

theorem witness_FencesAndRounds : (mapped.turn = none ∧ copiesOf mapped mapped.strandId = [] ∧ mapped.unacked = []) ∧
    (let s := { mapped with unacked := [(3, { addr := 9, asid := 0, since := 0, known := [.agent 7 true] })] }
     copiesOf s s.strandId = [] ∧ ∀ u ∈ s.unacked, ∀ v, Knower.agent s.strandId v ∉ u.2.known) ∧
    (let s := inRegion none [(1, 5)]
     s.guard0 = true ∧ (s.rdS 1).toNat = 5 ∧ (s.region 5).valid = true ∧ (s.region 5).owner = s.strand.asid ∧ s.strand.depth = 0 ∧
     s.strand.progress = none ∧ copiesOf s s.strandId = []) ∧
    (let t := inRegion none [(1, 5)]
     let s := { t with strand := { t.strand with progress := some (.round 4) } }
     s.strand.progress = some (.round 4) ∧ s.strand.depth = 0) ∧
    (∀ b ∈ [0, 1], (let s := counting b
     let va := s.rdS 1 + BitVec.ofNat 64 (8 * 0)
     (List.range (Nat.max s.strand.vl 1)).filter (fun k => (s.rdP 1).getLsbD k) = [0] ∧ s.strand.progress = none ∧ va.toNat % 8 = 0 ∧
     isOk (translate s s.ctx .read va) = true ∧ sectorB s (pageAt s .read va) va false = true ∧
     malformedSector (pageAt s .read va).grid (s.mem.tag ((pageAt s .read va).pa / 128)) = false ∧
     tagVcls (s.mem.tag ((pageAt s .read va).pa / 128)) ≠ clsPoison ∧ s.cycle.toNat < (s.rdS 2).toNat ∧
     (0 < (BitVec.ofNat 64 (bytesLE (fun j => s.loadByte (placeOf (pageAt s .read va) va + j)) 8)).toInt ↔ b = 0) ∧
     s.translations = [] ∧ s.unordered = [])) ∧
    ((counting 0).rdS 0).toNat ≤ (counting 0).cycle.toNat := by decide +kernel

theorem canonical_counting : (counting 0).Canonical ∧ (counting 1).Canonical := by
  constructor <;> (unfold State.Canonical; decide +kernel)

/-- A current tile state of one row, one column and one product. -/
def withTile (s : State) : State :=
  { s with strand := { s.strand with tileState := { valid := true, m := 1, n := 1, k := 1, grantAt := 1, vlmaxAt := 4096 } } }

def int8Tag : Tag := mkTag clsValid 127 (Fmt.code .int8)

theorem witness_MatrixInstructions : (mapped.turn = none ∧ mapped.exposed = false ∧ 0 < (61 : SReg).toNat ∧ (61 : SReg).toNat + 2 < 64) ∧
    (let s := withTile (vec [])
     someAnd (macRow (.mma 7 1 2)) (fun _ => true) = true ∧ (∀ r ∈ vregsOf (.mma 7 1 2), r.toNat < s.strand.nreg) ∧ s.strand.grant ≠ 0 ∧
     s.strand.tileCurrent = true ∧ plainB s 1 .fp32 = true ∧ (s.vreg 1).isUndef = false ∧ plainB s 2 .fp32 = true ∧ (s.vreg 2).isUndef = false ∧
     s.strand.bank = 0 ∧ s.strand.tiles[7].i48 = false) ∧
    (let t := withTile (vec [])
     let s := { t with strand := { t.strand with
       v := t.strand.v.set 1 (vreg2 int8Tag 5 6)
       weights := t.strand.weights.set 3 (some { k := 1, n := 1, tag := mkTag clsValid 127 (Fmt.code .trn2), elems := [1], micro := [], marks := []
                                                 codebook := none }) } }
     someAnd (macRow (.mmaTWz 7 1 3)) (fun _ => true) = true ∧ s.strand.tileCurrent = true ∧ plainB s 1 .int8 = true ∧ (s.vreg 1).isUndef = false ∧
       someAnd s.strand.weights[3] (fun sl => sl.n == s.strand.tileState.n && sl.k == s.strand.tileState.k && sl.codebook.isNone &&
         tagFormat sl.tag == .trn2 && tagVcls sl.tag == clsValid && sl.marks.isEmpty) = true) ∧
    (let s := vec [(2, 4095)]
     readyB s (.accRd 3 7 2) = true ∧ s.strand.tooWide s.strand.tiles[7].fmt = false ∧ s.guard0 = true ∧ (s.rdS 2).toNat < 4096) := by
  decide +kernel

/-- The sector at 0x20000 holds elements of another format. -/
def retagged32 (f : Fmt) (l : List (Nat × Nat)) : State :=
  let s := withTile (vec l)
  { s with mem := s.mem.setTag (0x20000 / 128) (mkTag clsValid 127 (Fmt.code f)) }

/-- What the clauses on `wb.load` ask. -/
def weightMeets (s : State) (cb : Bool) : Bool :=
  let t := s.strand.tileState
  decide (s.strand.grant ≠ 0) && s.strand.tileCurrent &&
    okAnd (engineElts s (s.rdS 1) (some (s.rdS 2)) (t.n * t.k)
      (fun i z => s.rdS 1 + BitVec.ofNat 64 (i / t.k) * s.rdS 2 + BitVec.ofNat 64 (i % t.k * z))) fun e =>
    okAnd (engineSectors s e.2) fun r =>
      decide (∀ q < s.strand.grantCount, bufferBytes t.n s.strand.grantCount (columnBytes t.k (foldedWidth s r.1).1 (foldedWidth s r.1).2) q ≤ 32768) &&
      okAnd (if cb then indexTag s r.1 else engineTag s r.1 (fun f => !(f == .raw || Fmt.isWide f))) (fun _ => true)

theorem witness_MatrixLoads : weightMeets (retagged32 .fp32 [(1, 0x200020000)]) false = true ∧
    weightMeets (retagged32 .uint8 [(1, 0x200020000)]) true = true ∧
    (let s := retagged32 .fp16 [(1, 0x200020000), (2, 2)]
     1 ≤ (s.rdS 2).toNat ∧ (s.rdS 2).toNat ≤ 256 ∧
     okAnd (engineElts s (s.rdS 1) none (s.rdS 2).toNat (fun i z => s.rdS 1 + BitVec.ofNat 64 (i * z))) (fun e => okAnd (engineSectors s e.2)
       (fun r => okAnd (engineTag s r.1 (fun f => !(f == .raw || Fmt.isMicro f || Fmt.isWide f || decide (16 < Fmt.width 64 f)))) (fun _ => true))) = true) := by
  decide +kernel

/-- A state whose page tables put one element of a format in the pages of 8, 16 and 32-bit elements. -/
def oneWeight (grid : Nat) (f : Fmt) (l : List (Nat × Nat)) : State :=
  let s := withTile (vec l)
  { s with mem := (s.mem.setBytes 0x1004018 1 (grid + 4 * (Fmt.code f).toNat)).setTag (0x20000 / 128) (mkTag clsValid 127 (Fmt.code f)) }

theorem witness_MatrixLoads_one :
    (∀ q ∈ [(2, Fmt.fp32, Grid.g32), (1, Fmt.fp16, Grid.g16), (0, Fmt.uint8, Grid.g8)], (let s := oneWeight q.1 q.2.1 [(1, 0x200020000), (2, 1), (3, 4)]
     s.turn = none ∧ s.exposed = false ∧ s.strand.grant ≠ 0 ∧ s.strand.grantCount ≠ 0 ∧ s.strand.tileCurrent = true ∧ s.strand.tileState.n = 1 ∧
     s.strand.tileState.k = 1 ∧ (s.rdS 1).toNat % 4 = 0 ∧ (s.rdS 3).toNat % 4 = 0 ∧ s.rdS 2 = 1 ∧
     okAnd (translate s s.ctx .read (s.rdS 1)) (fun p => sectorB s p (s.rdS 1) false && p.grid == q.2.2 &&
       decide (s.mem.tag (p.pa / 128) = mkTag clsValid 127 (Fmt.code q.2.1))) = true)) := by decide +kernel

/-- The first 8 GiB mapped to themselves, and nothing else in memory but the image of a tile of zeros in A48 at 0x2000000. -/
def bare : State :=
  let s := vec [(1, 0x2000000)]
  { s with mem := { cells := [(0x1000000, 1), (0x1000001, 0x40), (0x1000003, 1), (0x1004000, 0x3F), (0x1004008, 3)]
                    tags := [(0x20000, 0x1FC0), (0x20080, 0x1FC0)] ++ (List.range 256).map (fun k => (0x40000 + k, tagRaw)) } }

/-- What the clauses on `acc.ld` and `acc.st` ask of each of the 256 sectors. -/
def imageB (s : State) (k : Access) (i : Nat) : Bool :=
  let va := s.rdS 1 + BitVec.ofNat 64 (128 * i)
  let p := pageAt s k va
  isOk (translate s s.ctx k va) && p.grid == .raw && sectorB s p va (k == .write) && decide (s.mem.tag (p.pa / 128) = tagRaw) &&
    p.pa / 128 == 0x40000 + i

theorem witness_MatrixLoads_image : bare.turn = none ∧ bare.exposed = false ∧ bare.strand.grant ≠ 0 ∧ (bare.rdS 1).toNat % 128 = 0 ∧
    (∀ i ∈ List.range 256, imageB bare .read i = true ∧ imageB bare .write i = true) ∧
    bare.mem.cells.all (fun c => decide (c.1 < 0x2000000)) = true := by decide +kernel

/-- The ends of a copy's sectors, where the addresses translate. -/
def endsOf (s : State) (strip : Bool) (acc : Access) (l : List Word) : List CopyEnd :=
  l.map (fun a => if strip then .strip a.toNat else .mem a (pageAt s acc a))

/-- What the statement on copies asks. -/
def copyMeetsAll (s : State) (i : Instr) : Bool :=
  someAnd (copyRow s i) fun (_, ends, a, b, rows) => decide (s.turn = none) && decide (s.strand.depth = 0) && decide (rows.length ≤ 4096) &&
    decide (rows ≠ []) && decide (∀ r ∈ rows, r.src.toNat % 128 = 0 ∧ r.dst.toNat % 128 = 0 ∧ r.len % 128 = 0 ∧ 128 ≤ r.len) &&
    decide (rows.foldl (fun n r => n + r.len) 0 ≤ 2 ^ 23) &&
    decide (ends.getLsbD 0 = true → a.toNat < 2 ^ 32 ∧ ∀ r ∈ rows, r.src.toNat + r.len ≤ s.strand.strip.length * 16384) &&
    decide (ends.getLsbD 1 = true → b.toNat < 2 ^ 32 ∧ ∀ r ∈ rows, r.dst.toNat + r.len ≤ s.strand.strip.length * 16384) &&
    (let src := rowSectors (rows.map (fun r => (r.src, r.len)))
     let dst := rowSectors (rows.map (fun r => (r.dst, r.len)))
     (ends.getLsbD 0 || src.all (fun a => isOk (translate s s.ctx .read a))) && (ends.getLsbD 1 || dst.all (fun a => isOk (translate s s.ctx .write a))) &&
     (ends != 0 || (endsOf s false .read src ++ endsOf s false .write dst).all (fun e => match e with
       | .mem _ p => p.grid == .raw
       | _ => false))) &&
    decide ((copiesOf s s.strandId = [] ∧ s.strand.sched.commits = []) ∨
      isOk (copyMeets s (boundingRange (ends.getLsbD 0) (rows.map (fun r => (r.src, r.len))))
        (boundingRange (ends.getLsbD 1) (rows.map (fun r => (r.dst, r.len))))) = true) &&
    decide ((copiesOf s s.strandId).length < 16) && decide ((s.core (coreOf s.strandId)).copies.length < 64)

theorem ends_of (s : State) (strip : Bool) (acc : Access) (l : List Word) (h : (strip || l.all (fun a => isOk (translate s s.ctx acc a))) = true) :
    List.Forall₂ (CopyEndAt s strip acc) l (endsOf s strip acc l) := by
  induction l with
  | nil => exact .nil
  | cons a l ih =>
    cases strip with
    | true => exact .cons rfl (ih rfl)
    | false =>
      simp only [Bool.false_or, List.all_cons, Bool.and_eq_true] at h
      exact .cons ⟨_, ok_got _ _ h.1, rfl⟩ (ih (by simpa using h.2))

theorem witness_CopyRequests : (let s := withStrip (regs [(1, 0x30000), (2, 0), (3, 256)])
     copyMeetsAll s (.cpStart 9 1 2) = true ∧ copyReady s (.cpStart 9 1 2)) ∧
    (let s := withStrip (regs [(1, 0x30000), (2, 0x40000), (3, 2 * 2 ^ 32 + 128), (4, 128), (5, 256)])
     copyMeetsAll s (.cp2d 9 1 0) = true ∧ copyReady s (.cp2d 9 1 0)) ∧
    (let s := withStrip (vec [(1, 0x30000), (2, 128), (3, 128)])
     copyMeetsAll s (.cpGth 9 1 5 2) = true ∧ copyReady s (.cpGth 9 1 5 2)) := by
  refine ⟨⟨by decide +kernel, by unfold copyReady; decide +kernel⟩, ⟨by decide +kernel, by unfold copyReady; decide +kernel⟩,
    ⟨by decide +kernel, ready_of _ _ (by decide +kernel), by decide +kernel⟩⟩

theorem witness_StreamTransforms : (∀ i ∈ [Instr.vxfUvar 5 1 .int32, .vxfSvar 5 1 .int32, .vxfUnpk 3 1 .fp32], (let s := withStrip (vec [])
     readyB s i = true ∧ s.exposed = false ∧ someAnd (decoderRow i) (fun r =>
       okAnd (checkVxf s r.2.1 r.2.2.1 (if r.2.2.2.1 then varintTarget r.2.2.1 else packable r.2.2.1)) (fun _ => true) &&
       (decodeRun s r.2.1 r.2.2.1 r.2.2.2.1 r.2.2.2.2 (s.strand.vl - s.strand.sys.vstart.toNat) s.strand.sys.vstart.toNat
        (s.strand.h[r.2.1.toNat].pos.toNat, startPhase s.strand r.2.2.1 r.2.2.2.1)).2.2.isNone) = true)) ∧
    (∀ i ∈ [Instr.vxfEuvar 6 1, .vxfEsvar 6 1, .vxfPack 1 1], (let s := withStrip (vec [])
     readyB s i = true ∧ ownsStrip s s.strand = true ∧ someAnd (encoderRow i) (fun r =>
       okAnd (checkVxf s r.2.1 (s.vreg r.1).fmt (if r.2.2.1 then varintSource (s.vreg r.1).fmt else packable (s.vreg r.1).fmt)) (fun _ => true) &&
       !(s.vreg r.1).isUndef &&
       (encodeRun s r.2.1 (s.vreg r.1) (s.vreg r.1).fmt r.2.2.1 r.2.2.2 (s.strand.vl - s.strand.sys.vstart.toNat) s.strand.sys.vstart.toNat
        (s.strand.h[r.2.1.toNat].pos.toNat, startPhase s.strand (s.vreg r.1).fmt r.2.2.1)).2.2.2.isNone) = true)) := by decide +kernel

/-- One element and a stream at the place 128 of the allocation that begins with the byte 0x44; v4 holds a small number in RAW, v1 one in
INT8. -/
def streamOne : State :=
  let s := stripOne
  { s with strand := { s.strand with v := s.strand.v.set 1 (vreg2 int8Tag 0x85 0) } }

theorem witness_StreamTransforms_one : (∀ n ∈ [1, 4], StreamAt streamOne 1 0 n 128) ∧
    (∀ i ∈ [Instr.vxfUvar 5 1 .int32, .vxfSvar 5 1 .int32, .vxfUnpk 4 1 .raw, .vxfEuvar 1 1, .vxfEsvar 1 1, .vxfPack 4 1], VecReady streamOne i) ∧
    (streamOne.exposed = false ∧ (∀ j, j < 4 → tagVcls (streamOne.stripRead (128 + j)).tag ≠ clsPoison) ∧ (streamOne.stripByte 128).toNat < 128 ∧
      (∀ f ∈ [Fmt.int32, .raw], streamOne.strand.tooWide f = false) ∧ varintTarget .int32 = true ∧ 8 * 4 = streamOne.strand.wmax) ∧
    (PlainReg streamOne 1 .int8 ∧ (streamOne.vreg 1).isUndef = false ∧ PlainReg streamOne 4 .raw ∧ (streamOne.vreg 4).isUndef = false ∧
      ownsStrip streamOne streamOne.strand = true ∧ zigzag (((streamOne.vreg 4).slot 0).setWidth 8).toInt < 128 ∧
      ((streamOne.vreg 4).slot 0).toNat < 128) := by
  have h : ∀ i ∈ [Instr.vxfUvar 5 1 .int32, .vxfSvar 5 1 .int32, .vxfUnpk 4 1 .raw, .vxfEuvar 1 1, .vxfEsvar 1 1, .vxfPack 4 1],
      readyB streamOne i = true := by decide +kernel
  have w : ∀ n ∈ [1, 4], streamOne.strand.h[1].pos.toNat + n ≤ streamOne.strand.h[1].len.toNat ∧ 128 + n ≤ streamOne.strand.strip.length * 16384 := by
    decide +kernel
  have c : 128 = streamOne.strand.h[(1 : HReg).toNat].base.toNat + streamOne.strand.h[(1 : HReg).toNat].pos.toNat := by decide +kernel
  refine ⟨fun n hn => ⟨by decide +kernel, by decide +kernel, by decide +kernel, (w n hn).1, c, (w n hn).2, by decide +kernel⟩,
    fun i hi => ready_of _ _ (h i hi), by decide +kernel, plain_of _ _ _ (by decide +kernel), by decide +kernel, plain_of _ _ _ (by decide +kernel),
    by decide +kernel⟩


def quietB (s : State) : Bool := decide (s.turn = none) && decide (s.strand.tip = false) && drained s s.strandId

theorem quiet_of (s : State) (h : quietB s = true) : Quiet s := by
  simp only [quietB, Bool.and_eq_true, decide_eq_true_eq] at h
  exact ⟨h.1.1, h.1.2, h.2⟩

/-- The judge of fork 0, whose two rivals have ended: the first settled with verdict 5, the second was discarded. -/
def judging (l : List (Nat × Nat)) : State :=
  let s := with_ (fun x => let y := setRegs l x
    { y with
      sys := { y.sys with view := 2 ^ 22 }
      fork := some { seq := 0, rivals := [] } })
  { s with
    forkSeq := 1
    views := [(1, { freshView with
      state := .settled
      gid := none
      copies := [(0x30000 / 128, ({ bits := 9, tag := tagRaw }, 0))] })]
    forks := [(0, [{ id := 1, state := .settled, verdict := 5 }, { id := 2, state := .discarded, verdict := 0 }])] }

theorem witness_WorldForks :
    (∀ k ∈ [2, 8], Quiet (withStrip (regs [(1, k)])) ∧ ((withStrip (regs [(1, k)])).rdS 1).toNat = k ∧
      (withStrip (regs [(1, k)])).strand.judge = false ∧ (withStrip (regs [(1, k)])).strand.depth ≠ 4 ∧
      (freeViewIds (withStrip (regs [(1, k)])) k).length = k ∧ (withStrip (regs [(1, k)])).views.length + k ≤ 4095 ∧
      viewsLeft (withStrip (regs [(1, k)])) (withStrip (regs [(1, k)])).strand.block k = true ∧
      k * ((withStrip (regs [(1, k)])).strand.strip.length * 16384) ≤ (freeGranuleList (withStrip (regs [(1, k)])) 0).length * 16384) ∧
    (Quiet (inWorld [(1, 7)]) ∧ (inWorld [(1, 7)]).strand.depth ≠ 0 ∧ (inWorld [(1, 7)]).strand.judge = false ∧
      lookupNat 1 (inWorld [(1, 7)]).views = some freshView ∧ (inWorld [(1, 7)]).strand.vid = 1 ∧ ((inWorld [(1, 7)]).rdS 1).toNat < 2 ^ 48 ∧
      freshView.gid = some (inWorld [(1, 7)]).strandId ∧ freshView.state = .running ∧ ∀ p ∈ (inWorld [(1, 7)]).views, p.2.parent ≠ 1) ∧
    (Quiet (judging [(1, 1)]) ∧ (judging [(1, 1)]).strand.judge = true ∧ (judging [(1, 1)]).strand.fork = some { seq := 0, rivals := [] } ∧
      ((judging [(1, 1)]).rdS 1).toNat ≤ 7 ∧ (recordOf (judging [(1, 1)])).drop 1 = { id := 2, state := .discarded, verdict := 0 } :: []) := by
  refine ⟨?_, ⟨quiet_of _ (by decide +kernel), by decide +kernel⟩, quiet_of _ (by decide +kernel), by decide +kernel⟩
  have h : ∀ k ∈ [2, 8], quietB (withStrip (regs [(1, k)])) = true ∧ ((withStrip (regs [(1, k)])).rdS 1).toNat = k ∧
      (withStrip (regs [(1, k)])).strand.judge = false ∧ (withStrip (regs [(1, k)])).strand.depth ≠ 4 ∧
      (freeViewIds (withStrip (regs [(1, k)])) k).length = k ∧ (withStrip (regs [(1, k)])).views.length + k ≤ 4095 ∧
      viewsLeft (withStrip (regs [(1, k)])) (withStrip (regs [(1, k)])).strand.block k = true ∧
      k * ((withStrip (regs [(1, k)])).strand.strip.length * 16384) ≤ (freeGranuleList (withStrip (regs [(1, k)])) 0).length * 16384 := by
    decide +kernel
  exact fun k hk => ⟨quiet_of _ (h k hk).1, (h k hk).2⟩

theorem witness_WorldChoices : (∀ i ∈ [0, 1], JudgeReady (judging [(1, i)]) 0) ∧
    namedRival ((judging []).rivals 0) 0 = some 0 ∧ namedRival ((judging []).rivals 0) 1 = none ∧ bestRival ((judging []).rivals 0) = some 0 ∧
    (∀ i ∈ [0, 1], ((judging [(1, i)]).rdS 1).toNat < ((judging [(1, i)]).rivals 0).length) ∧
    someAnd (lookupNat 1 (judging []).views) (fun v => v.outbox.isEmpty && v.copies.find? (fun x => tagVcls ((judging []).physTag x.1) == clsBusy)
      == none && (crowdedSlice (judging []) v.outbox).isNone) = true ∧ (judging []).strand.vid = 0 := by
  refine ⟨?_, by decide +kernel⟩
  have h : ∀ i ∈ [0, 1], quietB (judging [(1, i)]) = true ∧ (judging [(1, i)]).strand.judge = true ∧
      (judging [(1, i)]).strand.fork = some { seq := 0, rivals := [] } ∧ ((judging [(1, i)]).rivals 0).all Rival.terminal = true := by
    decide +kernel
  exact fun i hi => ⟨quiet_of _ (h i hi).1, (h i hi).2.1, ⟨_, (h i hi).2.2.1, rfl⟩, (h i hi).2.2.2⟩

theorem witness_WorldEvents :
    (let v := { freshView with
      state := .fresh
      gid := none
      image := some Strand.reset }
     let s := { mapped with views := [(1, v)] }
     let g := (freeStrandOf s 0).getD 0
     saveStalled s 0 = false ∧ freeStrandOf s 0 = some g ∧ waitingRivals s 0 = (1, v) :: [] ∧ strandFits s v.block = true ∧ lookupNat 1 s.views = some v ∧
       v.image = some Strand.reset) ∧
    (let s := { judging [] with strand := { (judging []).strand with wait := some .choose } }
     (s.strandAt 0).phase = .running ∧ (s.strandAt 0).wait = some .choose ∧ someAnd (s.strandAt 0).fork (fun f => (s.rivals f.seq).all Rival.terminal) = true) ∧
    (let s := { judging [] with parked := [{ fork := 0, core := 0, strand := (judging []).strand }] }
     (s.strandAt 1).phase = .free ∧ strandFree s 1 = true ∧ someAnd (readyJudge s 1) (fun p => strandFits s p.strand.block) = true) := by
  decide +kernel

/-- A frame of a task at 0x40000, the frame of the strand's own task at 0x44000, a launch queue of 16 entries at 0x50000 whose tail is
`tail`, of block 0x60000. -/
def tasked (tail : Nat) (l : List (Nat × Nat)) : State :=
  let s := regs l
  let m : Memory :=
    { cells := [(0x40000, 1), (0x44000, 1), (0x50000, 1), (0x50001, 1), (0x50010, 1)] ++
        (if tail = 0 then [] else [(0x50200, BitVec.ofNat 8 tail)]) ++
        [(0x1000000, 1), (0x1000001, 0x40), (0x1000003, 1), (0x1004000, 0x3F), (0x1004008, 3)]
      tags := [(0x800, 0x1FC0), (0x880, 0x1FC0), (0xA00, 0x1FC0), (0xA04, 0x1FC0), (0xA08, 0x1FC0), (0x20000, 0x1FC0), (0x20080, 0x1FC0)] }
  let b : Block := { order := 0, tookAsid := 0, image := BitVec.ofNat 4096 (0x50000 * 2 ^ 1088), lqPa := [some 0x50000, none, none, none], blimgPa := none
                     viewsUsed := 0, spillUsed := 0, btimeUsed := 0, recovery := .idle }
  { s with
    mem := m
    blocks := [(0x60000, b)]
    strand := { s.strand with task := some { frame := 0x44000, queue := 0x50000, block := 0x60000, save := 0x100000, slot := none
                                             rival := none, placedAt := 0 } } }

/-- What PlainPlace asks. -/
def placeB (s : State) (acc : Access) (va : Word) (w : List Nat) : Bool :=
  let p := pageAt s acc va
  isOk (translate s s.ctx acc va) && decide (s.translations = [] ∧ ∀ u ∈ s.unordered, u.gid = s.strandId → u.walk = false) &&
    (tableSectors s va ((lookupNat s.ctx.asid.toNat (s.die s.ctx.die).roots).getD 0) 4).all (fun k => !decide (k ∈ w)) &&
    sectorB s p va (acc != .read) && !malformedSector p.grid (s.mem.tag (p.pa / 128)) && decide (tagVcls (s.mem.tag (p.pa / 128)) ≠ clsPoison)

theorem place_of (s : State) (acc : Access) (va : Word) (w : List Nat) (h : placeB s acc va w = true) :
    PlainPlace s acc va (pageAt s acc va) w := by
  simp only [placeB, Bool.and_eq_true, decide_eq_true_eq, List.all_eq_true, Bool.not_eq_true', decide_eq_false_iff_not] at h
  exact ⟨⟨ok_got _ _ h.1.1.1.1.1, h.1.1.1.1.2, h.1.1.1.2⟩, sector_of _ _ _ _ h.1.1.2, h.1.2, h.2⟩

def frameB (s : State) (a : Word) (w : List Nat) : Bool :=
  let p := pageAt s .read a
  placeB s .read a w && decide (tagVcls (s.mem.tag (p.pa / 128)) ≠ clsUndef) && frameOk (s.bitsOf p)

theorem frame_of (s : State) (a : Word) (w : List Nat) (h : frameB s a w = true) : FrameAt s a (pageAt s .read a) w := by
  simp only [frameB, Bool.and_eq_true, decide_eq_true_eq] at h
  exact ⟨place_of _ _ _ _ h.1.1, h.1.2, h.2⟩

/-- The sectors that `spawn` writes: TAIL, slot and frame. -/
def spawned (tail : Nat) : List Nat := [0x50200 / 128, (0x50400 + 8 * (tail % 16)) / 128, 0x40000 / 128]

/-- A strand about to spawn, with its stack at 0x48000. -/
def spawning (tail : Nat) : State := tasked tail [(1, 0x40000), (2, 0x50000), (62, 0x48000)]

/-- What the clauses on `spawn` ask: the frame, the header, HEAD, TAIL and slot, and whether the queue is full. -/
def spawnB (tail : Nat) (full : Bool) : Bool :=
  let s := spawning tail
  let w := spawned tail
  let h := s.bitsOf (pageAt s .read 0x50000)
  let pt := pageAt s .read 0x50200
  decide (s.rdS 1 = 0x40000) && decide (s.rdS 2 = 0x50000) && decide w.Nodup && decide (copiesOf s s.strandId = []) && frameB s 0x40000 w &&
    !frameImg (s.bitsOf (pageAt s .read 0x40000)) && decide (pageAt s .write 0x40000 = pageAt s .read 0x40000) && placeB s .write 0x40000 w &&
    placeB s .read 0x50000 w && queueWellFormed h && queueDevApp h && (queueOwner s s.strand.block (pageAt s .read 0x50000).pa).isSome &&
    placeB s .read 0x50040 w && placeB s .read 0x50200 w && placeB s .rmw 0x50200 w && decide (pageAt s .rmw 0x50200 = pt) &&
    decide (s.wordAt pt 0x50200 = BitVec.ofNat 64 tail) && placeB s .write (0x50400 + BitVec.ofNat 64 (8 * (tail % queueSize h))) w &&
    decide (pt.pa / 128 = 0x50200 / 128 ∧ (pageAt s .write (0x50400 + BitVec.ofNat 64 (8 * (tail % 16)))).pa / 128 = (0x50400 + 8 * (tail % 16)) / 128) &&
    decide (decide ((s.wordAt pt 0x50200 - s.wordAt (pageAt s .read 0x50040) 0x50040).toNat < queueSize h) = !full)

/-- The strand's own frame names a join counter at 0x30000, or none. -/
def joining (c : Bool) : State :=
  let s := tasked 0 []
  { s with mem := if c then (s.mem.setBytes 0x44030 8 0x46000).setTag (0x46000 / 128) tagRaw else s.mem }

/-- At the end of an inline child whose record lies at 0x48000: it returns to 0x10000, with its result in `s5`. -/
def inlined : State :=
  let t := tasked 0 [(62, 0x48000)]
  { t with
    mem := (t.mem.setBytes 0x48000 128 (0x10000 + 2 ^ 645 * 5 + 2 ^ 704 * 0x48000 + 2 ^ 768 * 0x40000)).setTag (0x48000 / 128) tagRaw
    strand := { t.strand with sys := { t.strand.sys with inldepth := 0x18 } } }

theorem witness_TaskInstructions : (∀ q ∈ [(0, false), (15, false), (16, true)], spawnB q.1 q.2 = true) ∧
    (let s := spawning 16
     s.strand.inlDepth < s.strand.inlBound ∧ drained s s.strandId = true ∧ s.strand.s[62] - 128 = 0x47F80 ∧ placeB s .write 0x47F80 [] = true) ∧
    (∀ c ∈ [false, true], let s := joining c
     s.turn = none ∧ s.strand.depth = 0 ∧ s.strand.tip = false ∧ s.strand.judge = false ∧ drained s s.strandId = true ∧ s.strand.inlDepth = 0 ∧
     (s.strand.task.map (fun k => k.frame)) = some 0x44000 ∧ frameB s 0x44000 [] = true ∧
     (frameJoin (s.bitsOf (pageAt s .read 0x44000)) = if c then 0x46000 else 0) ∧ (c = true → placeB s .rmw 0x46000 [] = true) ∧ s.unacked = [] ∧
     frameB s 0x44000 [0x44000 / 128] = true ∧ placeB s .write 0x44000 [0x44000 / 128] = true ∧
     (pageAt s .read 0x44000).pa / 128 = 0x44000 / 128 ∧ (s.die (dieOf s.strandId)).holdList.length < 1024) ∧
    (let s := inlined
     let n := s.bitsOf (pageAt s .read 0x48000)
     s.turn = none ∧ s.strand.depth = 0 ∧ s.strand.tip = false ∧ s.strand.judge = false ∧ drained s s.strandId = true ∧ s.strand.inlDepth = 1 ∧
     s.strand.s[62] = 0x48000 ∧ placeB s .read 0x48000 [] = true ∧ tagVcls (s.mem.tag (0x48000 / 128)) ≠ clsUndef ∧ cut n 704 64 = 0x48000 ∧
     cut n 652 52 = 0 ∧ cut n 832 192 = 0 ∧ cut n 0 2 = 0 ∧ cut n 768 64 = 0x40000 ∧ frameB s 0x40000 [] = true ∧
     frameJoin (s.bitsOf (pageAt s .read 0x40000)) = 0) ∧ mapped.strand.task = none := by decide +kernel

theorem canonical_tasks : (spawning 0).Canonical ∧ (spawning 16).Canonical ∧ (joining true).Canonical ∧ inlined.Canonical := by
  refine ⟨?_, ?_, ?_, ?_⟩ <;> (unfold State.Canonical; decide +kernel)

theorem witness_LeasesAndBarriers : (mapped.turn = none ∧ (8 : BitVec 4).toNat ≤ capOf mapped mapped.strandId) ∧
    (vectorPending (vec []).strand = false ∧ (vec []).strand.grant ≠ 0) ∧ (vectorPending mapped.strand = false ∧ mapped.strand.grant = 0) ∧
    (∀ n ∈ [1, 256], (let s := regs [(1, 15), (2, n)]
     (s.rdS 1).toNat ≤ 15 ∧ 1 ≤ (s.rdS 2).toNat ∧ (s.rdS 2).toNat ≤ 256 ∧ s.strand.depth = 0 ∧ drained s s.strandId = true ∧
     copiesOf s s.strandId = [] ∧ (s.barrier (clusterOf s.strandId) 15).arrived = 0)) ∧
    (let t := regs [(1, 15), (2, 2)]
     let s := { t with clusters := [(0, [(15, { target := 2, arrived := 1, gen := 4, owner := some 0 })])] }
     let x := s.barrier (clusterOf s.strandId) 15
     x.arrived ≠ 0 ∧ x.owner = some s.strand.asid ∧ x.target = (s.rdS 2).toNat ∧ x.arrived + 1 = (s.rdS 2).toNat) := by decide +kernel

/-- What AreaHolds asks of sector `i`. -/
def areaB (s : State) (a : Word) (h i : Nat) : Bool :=
  let va := a + BitVec.ofNat 64 (128 * i)
  let p := pageAt s .read va
  isOk (translate s s.ctx .read va) && decide (physClass p.pa = .hbm) && decide (tagVcls (s.physTag (p.pa / 128)) = clsValid) &&
    s.bitsOf p == cut h (1024 * i) 1024

theorem area_of (s : State) (a : Word) (h n : Nat) (h1 : 1 ≤ n) (hn : h < (2 ^ 256) ^ 4) (hb : (List.range n).all (areaB s a h) = true) :
    AreaHolds s a n h := by
  have e : 1024 * n = 256 * (4 * n) := by omega
  refine ⟨e ▸ pow_mul 2 256 (4 * n) ▸ lt_of_lt_of_le hn (Nat.pow_le_pow_right (Nat.pow_pos (by decide)) (by omega)), fun i hi => ?_⟩
  have := (List.all_eq_true.mp hb) i (List.mem_range.mpr hi)
  simp only [areaB, Bool.and_eq_true, decide_eq_true_eq, beq_iff_eq] at this
  exact ⟨_, ok_got _ _ this.1.1.1, this.1.1.2, this.1.2, this.2⟩

/-- A header of version 1 and state 2 (parked) within its limits, or of state 0 (none). -/
def parkedHeader (ok : Bool) : Nat := 1 + (if ok then 2 * 2 ^ 8 else 0) + 2 ^ 840 + 8 * 2 ^ 960

/-- A supervisor without a task, a frame at 0x40000 whose save area at 0x100000 holds a header, and the parked image with the own core. -/
def loading (ok : Bool) : State :=
  let t := tasked 0 [(1, 0x40000)]
  let m : Memory :=
    { cells := [(0x40000, 1), (0x4002A, 0x10), (0x100000, 1)] ++ (if ok then [(0x100001, 2)] else []) ++ [(0x100069, 1), (0x100078, 8),
        (0x1000000, 1), (0x1000001, 0x40), (0x1000003, 1), (0x1004000, 0x3F), (0x1004008, 3)]
      tags := (0x800, tagRaw) :: (List.range 64).map (fun k => (0x2000 + k, tagRaw)) ++ [(0x20000, tagRaw), (0x20080, tagRaw)] }
  let s := { t with
    strand := { statusOf 0x4400 t.strand with task := none }
    mem := m }
  s.setCore 0 { s.core 0 with images := [{ asid := 0, save := 0x100000, staged := some Strand.reset, granules := [3], parked := true, migrate := false
                                           task := { frame := 0x40000, queue := 0x50000, block := s.strand.block, save := 0x100000, slot := none
                                                     rival := none, placedAt := 0 } }] }

theorem witness_ContextInstructions : (let s := privileged []
     s.turn = none ∧ s.strand.priv = true ∧ s.strand.depth = 0 ∧ s.strand.task = none ∧ saveStalled s (coreOf s.strandId) = false ∧
     s.translations = [] ∧ s.unordered = []) ∧ mapped.strand.priv = false ∧
    (let s := { tasked 0 [] with strand := statusOf 0x4400 (tasked 0 []).strand }
     s.turn = none ∧ s.strand.priv = true ∧ s.strand.depth = 0 ∧ s.strand.task ≠ none ∧ s.strand.vid = 0 ∧ s.strand.tip = false ∧
     (s.die (dieOf s.strandId)).holdList.length < 1024 ∧ saveStalled s (coreOf s.strandId) = false ∧ s.translations = [] ∧ s.unordered = []) ∧
    (∀ ok ∈ [false, true], let s := loading ok
     s.turn = none ∧ s.strand.priv = true ∧ s.strand.depth = 0 ∧ s.strand.tip = false ∧ frameB s (s.rdS 1) [] = true ∧ s.strand.task = none ∧
     frameSave (s.bitsOf (pageAt s .read (s.rdS 1))) = 0x100000 ∧
     (decide (loadCheck s (parkedHeader ok) 0x100000 (s.bitsOf (pageAt s .read (s.rdS 1))) = 0) = ok)) ∧
    (let s := loading true
     let h := parkedHeader true
     (s.cores.map Prod.fst).Pairwise (· < ·) ∧ someAnd (imageCore s s.strand.asid 0x100000) (fun q => q.1 == coreOf s.strandId &&
       decide (q.2.task.save = 0x100000) && q.2.staged.isSome && q.2.task.block == s.strand.block) = true ∧ cut h 8 3 = 2 ∧
     BitVec.ofNat 12 (cut h 5120 12) = s.strand.asid ∧ cut h 12 9 = coreOf s.strandId ∧ headerOk h = true ∧ saveStalled s (coreOf s.strandId) = false ∧ s.translations = [] ∧
     s.unordered = []) := by decide +kernel

theorem areas_hold : ∀ ok ∈ [false, true], AreaHolds (loading ok) 0x100000 64 (parkedHeader ok) := by
  have a : ∀ ok ∈ [false, true], (List.range 64).all (areaB (loading ok) 0x100000 (parkedHeader ok)) = true := by decide +kernel
  intro ok h
  refine area_of _ _ _ _ (by decide) ?_ (a ok h)
  cases ok <;> decide +kernel

theorem canonical_loading : (loading false).Canonical ∧ (loading true).Canonical := by
  constructor <;> (unfold State.Canonical; decide +kernel)

/-- A group of one at 0x70000: its descriptor, with the elements in the FP32 sector and a result of the same format. -/
def grouped : State :=
  let s := regs [(1, 0x70000), (2, 0x200020000), (3, 0x200080000), (4, 2)]
  { s with mem := (s.mem.setBytes 0x70000 8 (1 + 2 ^ 44 * (Fmt.code .fp32).toNat)).setTag (0x70000 / 128) tagRaw }

theorem witness_Collectives : (∀ a ∈ [0x200020000, 0x20002007C], let s := { grouped with strand := setRegs [(2, a), (4, 2)] grouped.strand }
     let pd := pageAt s .rmw (s.rdS 1)
     let ps := pageAt s .read (s.rdS 2)
     let pt := pageAt s .write (s.rdS 3)
     let n := sectorSpan (ps.grid.width s.strand.wmax / 8) ((s.rdS 2).toNat % 128) 2
     s.turn = none ∧ s.strand.depth = 0 ∧ (s.rdS 4).toNat = 2 ∧ copiesOf s s.strandId = [] ∧ s.unacked = [] ∧ (s.rdS 1).toNat % 128 = 0 ∧
     isOk (translate s s.ctx .rmw (s.rdS 1)) = true ∧ sectorB s pd (s.rdS 1) true = true ∧ pd.grid = .raw ∧ s.mem.tag (pd.pa / 128) = tagRaw ∧
     descOk (s.bitsOf pd) = true ∧ membersReached s (cut (s.bitsOf pd) 20 12)
       (groupMembers s s.ctx (BitVec.ofNat 64 (cut (s.bitsOf pd) 128 64)) (descParticipants (s.bitsOf pd))) = true ∧
     isOk (translate s s.ctx .read (s.rdS 2)) = true ∧ (s.rdS 2).toNat % (ps.grid.width s.strand.wmax / 8) = 0 ∧
     isOk (translate s s.ctx .write (s.rdS 3)) = true ∧ (s.rdS 3).toNat % (pt.grid.width s.strand.wmax / 8) = 0 ∧
     (a = 0x200020000 → (s.rdS 2).toNat % 128 = 0 ∧ (s.rdS 3).toNat % 128 = 0) ∧ n = (if a = 0x200020000 then 1 else 2) ∧
     (∀ j ∈ List.range n, (let va := sectorVa (s.rdS 2) + BitVec.ofNat 64 (128 * j)
       isOk (translate s s.ctx .read va) && decide ((pageAt s .read va).grid = ps.grid) && sectorB s (pageAt s .read va) va false) = true) ∧
     sectorSpan (pt.grid.width s.strand.wmax / 8) ((s.rdS 3).toNat % 128) 2 = 1 ∧
       isOk (translate s s.ctx .write (sectorVa (s.rdS 3))) = true ∧ (pageAt s .write (sectorVa (s.rdS 3))).grid = pt.grid) ∧
    (∀ op ∈ [CollOp.add, .min, .max, .fo, .bcast], okAnd (collIssue grouped 5 1 op) (fun _ => true) = true) ∧
    okAnd (collIssue grouped 5 1 .add) (fun u => someAnd (findCollective u 0 0 (fun c => (matched u c).isSome)) (fun r =>
      someAnd (matched u r.2) (fun t => t.2.1 == 0) &&
      (let t := { u with collectives := [{ r.2 with tmo := 1 }], cycle := 9 }
       (findCollective t 0 0 (collectiveLate t)).isSome) &&
      (let t := { u with collectives := [{ r.2 with status := some 1 }] }
       someAnd (findCollective t 0 0 (Collective.ready t)) (fun q => okAnd (translate t (deviceCtx q.2.die q.2.asid) .write q.2.cpl) (fun p =>
         decide (physClass p.pa = .hbm) && decide (q.2.cpl.toNat % 8 = 0) && decide (p.pa % 8192 = q.2.cpl.toNat % 8192)) &&
         t.llc.all (fun e => !e.2.page.pack && !e.2.page.grind))))) = true ∧
    (let s := { grouped with strand := vecStrand (setRegs [(4, 1)] grouped.strand) }
     okAnd (collIssue s 5 1 .add) (fun u => someAnd (findCollective u 0 0 (fun c => (matched u c).isSome)) (fun (_, c) => decide (c.status = none) && c.p == 1 && c.rank == 0 &&
       c.op == 0 && c.count == 1 && c.ofmt == Fmt.code .fp32 && c.slot == 32 && c.grid == .g32 && c.off == 0 && c.own.length == 1 &&
       c.own.all (fun x => x.tag == mkTag clsValid 127 (Fmt.code .fp32)) && c.dstGrid == .g32 && c.dstOff == 0 && c.dst.length == 1 &&
       c.dst.all (fun d => d.2.grid == .g32 && d.2.dpol == 0 && decide (physClass d.2.pa = .hbm) &&
         decide (tagVcls (u.physTag (d.2.pa / 128)) = clsUndef)))) = true) := by
  decide +kernel

theorem canonical_grouped : grouped.Canonical := by unfold State.Canonical; decide +kernel

/-- Barista 0 runs an invocation for address space 0 of an event of kind 3, with registers, and the directory names a message handler;
region 5 is valid. -/
def handling (l : List (Nat × Nat)) : State :=
  let d : DirEntry := { miss := 0x10000, fill := 0x10000, evict := 0x10000, msg := 0x10000, limit := 0, harg := 0, acnt := 0, block := 0 }
  let s := { mapped with
    turn := some 0
    regions := [(5, { Region.reset with valid := true })] }
  let s := s.setDie 0 { s.die 0 with directory := [(0, d)] }
  s.setBarista 0 { Barista.reset with
    pc := 0x10000
    invocation := some placedInvocation
    s := l.foldl (fun v p => v.set! p.1 (BitVec.ofNat 64 p.2)) (Vector.replicate 64 0) }

theorem handling_meets (l : List (Nat × Nat)) (h : (handling l).turn = some 0 ∧ ((handling l).barista 0).invocation = some placedInvocation ∧
    (handling l).guard0 = true) : Handling (handling l) 0 placedInvocation := ⟨h.1, h.2.1, h.2.2⟩

theorem witness_HandlerInstructions : Handling (handling [(1, 0x400030000), (2, 15)]) 0 placedInvocation ∧
    (let s := handling [(1, 0x400030000), (2, 15)]
     (s.rdS 2).toNat < 32 ∧ (s.rdS 2).toNat % 16 ≠ 0 ∧ okAnd (translate s s.ctx .read (lineVa (s.rdS 1))) (fun _ => true) = true ∧
     (s.barista 0).prefetches.length < 32 ∧ placedInvocation.event.hop ≠ 15 ∧ placedInvocation.event.kind = 3 ∧ placedInvocation.event.view = 0 ∧
     messageEntry s 0 placedInvocation.event.asid ≠ 0 ∧ okAnd (translate s s.ctx .read (s.rdS 1)) (fun p => p.hen &&
       messageRoom s (homeBarista 0 p.pa)) = true ∧ (s.rdS 1).toNat ≥ 128 ∧ (s.rdS 2).toNat < 128) ∧
    (let s := handling [(2, 16)]
     (s.rdS 2).toNat < 32 ∧ (s.rdS 2).toNat % 16 = 0 ∧ s.guard0 = true) ∧
    (let s := handling [(2, 5)]
     (s.rdS 2).toNat = 5 ∧ (s.region 5).valid = true ∧ (s.region 5).owner = placedInvocation.event.asid ∧ (s.barista 0).progress = none ∧
     (let t := s.setBarista 0 { s.barista 0 with progress := some (.round 4) }
      (t.barista 0).progress = some (.round 4) ∧ (t.barista 0).invocation = some placedInvocation ∧ t.guard0 = true)) ∧
    (let s := { handling [] with
       turn := none
       strand := setRegs [(1, 0x400030000)] (handling []).strand }
     s.turn = none ∧ s.guard0 = true ∧ (s.rdS 1).toNat % 8 = 0 ∧ s.strand.depth = 0 ∧ copiesOf s s.strandId = [] ∧
     messageEntry s (dieOf s.strandId) s.strand.asid ≠ 0 ∧ okAnd (translate s s.ctx .read (s.rdS 1)) (fun p => p.hen &&
       messageRoom s (homeBarista (dieOf s.strandId) p.pa)) = true) := by
  refine ⟨handling_meets _ (by decide +kernel), by decide +kernel⟩

theorem witness_HandlerEvents : (let s := (handling []).setBarista 0 { (handling []).barista 0 with inFlight := [placedInvocation.event] }
     (s.barista 0).inFlight = placedInvocation.event :: []) ∧
    (let s := (handling []).setBarista 0 { (handling []).barista 0 with
       invocation := none
       queue := [placedInvocation.event] }
     (s.barista 0).invocation = none ∧ (s.barista 0).queue = placedInvocation.event :: [] ∧
     someAnd (lookupNat 0 (s.die (0 / 48)).directory) (fun d => decide (d.entry placedInvocation.event.kind ≠ 0)) = true) ∧
    (let s := { handling [] with cycle := 1024 }
     s.mgmt.recording = false ∧ s.mgmt.replaying = false ∧ (s.barista 0).invocation = some placedInvocation ∧
     placedInvocation.start.toNat + placedInvocation.limit ≤ s.cycle.toNat) ∧
    (let e : Prefetch := { page := pageAt mapped .read 0x30000, mask := 1, view := 0, asid := 0, vline := 0x30000, hop := none }
     let s := mapped.setBarista 0 { mapped.barista 0 with prefetches := [e] }
     (s.barista 0).prefetches = e :: [] ∧ prefetchHeld s e = false) := by decide +kernel

/-- A commit of `s1` that is due. -/
def committing : State := with_ (fun x => { x with sched := { Sched.reset with
  clock := 4
  commits := [{ due := 4, dests := [.s 1 9], flags := 0, vec := false }] } })

theorem witness_WaitEnds :
    (let s := waiting (.vwait 0) (fun x => { x with watchHit := true })
     (s.strandAt 0).phase = .running ∧ (s.strandAt 0).wait = some (.vwait 0) ∧ (s.strandAt 0).watchHit = true ∧ 0 ≤ s.cycle) ∧
    (let s := withQueue [.scalar true 5 false] (waiting (.queue 2 0))
     (s.strandAt 0).wait = some (.queue 2 0) ∧ someAnd (lookupNat 2 (s.core 0).queues) (fun y => (y.ripe s.cycle).length != 0) = true) ∧
    (let t := inRegion false []
     let s := { t with strand := { t.strand with wait := some (.bounded 5 3) } }
     (s.strandAt 0).wait = some (.bounded 5 3) ∧ roundAtLeast (shadowOf s (dieOf 0) 5) 3 = true) ∧
    ((waiting .late).strand.wait = some .late ∧ lateCopy (waiting .late) 0 = false) ∧
    ((waiting (.tagging 0)).strand.wait = some (.tagging 0) ∧ 0 ≤ (waiting (.tagging 0)).cycle.toNat) ∧
    (let t := waiting (.barrier 15 4)
     let s := { t with clusters := [(0, [(15, { target := 2, arrived := 0, gen := 5, owner := none })])] }
     (s.strandAt 0).wait = some (.barrier 15 4) ∧ (s.barrier (clusterOf 0) 15).gen.toNat ≠ 4) ∧
    (let s := waiting (.touchstone 0 [0x30000])
     (s.strandAt 0).wait = some (.touchstone 0 (0x30000 :: [])) ∧ nextTicket s 0 = some 0x30000 ∧
     journalled s 0x30000 = false) ∧
    (let t := waiting .grant (fun x => { x with sys := { x.sys with lease := 2 ^ 8 + 2 ^ 12 + 2 ^ 16 } })
     let s := t.setCore 0 { t.core 0 with freed := true }
     (s.strandAt 0).wait = some .grant ∧ grantNow s 0 = true) ∧
    (let s := waiting .restore (fun x => { x with sys := { x.sys with lease := 2 ^ 8 + 2 ^ 12 + 2 ^ 16 } })
     restoreNow s 0 = true ∧ (s.strandAt 0).phase = .running) ∧
    (committing.strandId = 0 ∧ lateCopy committing 0 = false ∧
      committing.strand.sched.commits = [{ due := committing.strand.sched.clock, dests := [.s 1 9], flags := 0, vec := false }]) := by decide +kernel

/-- The image of a task that left strand 0, staged or not. -/
def imaged (staged migrate : Bool) : State :=
  let k : TaskInfo := { frame := 0x40000, queue := 0x50000, block := 0x60000, save := 0x100000, slot := none, rival := none, placedAt := 0 }
  let i : StagedImage := { asid := 0, save := 0x100000, task := k, staged := if staged then some Strand.reset else none, granules := []
                           parked := false, migrate := migrate }
  mapped.setCore 0 { mapped.core 0 with images := [i] }

theorem witness_StrandEvents :
    (let s := with_ (fun x => { x with copyEvents := [{ code := 0x46, data := 5 }] })
     takesEvents (s.strandAt 0) = true ∧ (s.strandAt 0).copyEvents = { code := 0x46, data := 5 } :: []) ∧
    (let s := with_ (fun x => { x with resumedReshaped := some 3 })
     takesEvents (s.strandAt 0) = true ∧ (s.strandAt 0).copyEvents = [] ∧ (s.strandAt 0).resumedReshaped = some 3) ∧
    (let s := with_ (fun x => { statusOf 0xC000 x with notice := some { deadline := 5, source := .arbiter, due := 5 } })
     takesEvents (s.strandAt 0) = true ∧ (s.strandAt 0).copyEvents = [] ∧ (s.strandAt 0).resumedReshaped = none ∧ (s.strandAt 0).np = true ∧
       (s.strandAt 0).ne = true ∧ (s.strandAt 0).notice = some { deadline := 5, source := .arbiter, due := 5 }) ∧
    (let t := with_ (fun x => { x with notice := some { deadline := 5, source := .arbiter, due := 5 } })
     let s := { t with cycle := 6 }
     graceOver s (s.strandAt 0) = true ∧ (s.strandAt 0).task = none ∧ s.strandId = 0 ∧ saveStalled s (coreOf 0) = false) ∧
    (let t := tasked 0 []
     let s := { t with strand := { t.strand with notice := some { deadline := 5, source := .arbiter, due := 5 } }, cycle := 6 }
     graceOver s (s.strandAt 0) = true ∧ (s.strandAt 0).task ≠ none ∧ (s.die (dieOf 0)).holdList.length < 1024 ∧
       saveStalled s (coreOf 0) = false) ∧
    (let t := with_ (fun x => { x with aboveTargetSince := some 0 })
     let s := { t with cycle := 65536 }
     holdTimedOut s (s.strandAt 0) = true) ∧
    ((mapped.strandAt 0).phase = .running ∧ (mapped.strandAt 0).notice = none ∧ switchHeld mapped 0 = false ∧ (mapped.strandAt 0).task = none ∧
      saveStalled mapped 0 = false) ∧
    (let s := with_ (fun x => { x with progress := some (.round 4), wait := some .finish })
     (s.strandAt 0).phase = .running ∧ switchHeld s 0 = true) ∧
    (someAnd (imageOn (imaged true false) 0 0x100000 (fun i => i.staged.isSome)) (fun i => !i.migrate) = true ∧
      saveStalled (imaged true false) 0 = false) ∧
    someAnd (imageOn (imaged false true) 0 0x100000 (readyToMigrate (imaged false true) 0)) (fun _ => true) = true ∧
    (let t := waiting (.acknowledge 3)
     let u : Unacked := { addr := 9, asid := 0, since := 0, known := [.agent 0 false] }
     let s := { t with unacked := [(3, u)], cycle := 65536 }
     lookupNat 3 s.unacked = some u ∧ 0 + 65536 ≤ s.cycle.toNat ∧ ackWaiter s 3 = some 0) := by
  decide +kernel

/-- A copy of one sector within the strip allocation is asked for. -/
def stripTwo : State := (withStrip (regs [(1, 128), (2, 1024), (3, 128)])).stripWrite 128 { bits := 0x11223344, tag := rawTag }

/-- A state in which a copy of two sectors is under way, whose promise is past; its first sector may have a malformed tag. -/
def copying (bad : Bool) : State :=
  let s := nextOf (exec (.cpStart 9 1 2) (withStrip (regs [(1, 0x30000), (2, 0), (3, 256)])))
  let s := if bad then { s with mem := s.mem.setTag (0x30000 / 128) (mkTag clsValid 127 0x3F) } else s
  { s with cycle := 2 ^ 30 }

theorem witness_CopyEngine :
    (someAnd ((copying false).core 0).copies.head? (fun r => ((copying false).core 0).copies.find? (moveReady (copying false) 0) == some r &&
      someAnd (r.moves.drop r.moved).head? (fun m => okAnd (copyMove (copying false) 0 r m) (fun _ => true)) && !r.missed &&
      decide (r.promise < (copying false).cycle) && r.gid == some 0 && r.orphan.isNone)) = true ∧
    (someAnd ((copying true).core 0).copies.head? (fun r => ((copying true).core 0).copies.find? (moveReady (copying true) 0) == some r &&
      someAnd (r.moves.drop r.moved).head? (fun m => match copyMove (copying true) 0 r m with
        | .error (.stop _) => true
        | _ => false))) = true ∧
    (let s := { nextOf (exec (.cpStart 9 1 2) (withStrip (atPeer [(1, 0x800000000), (2, 0), (3, 256)]))) with cycle := 2 ^ 30 }
     someAnd (s.core 0).copies.head? (fun r => (s.core 0).copies.find? (moveReady s 0) == some r &&
      someAnd (r.moves.drop r.moved).head? (fun m => match copyMove s 0 r m with
        | .error (.ask dev _ _) => dev == 7
        | _ => false)) = true) ∧
    (let s := (copying false).setCore 0 { (copying false).core 0 with
       copies := ((copying false).core 0).copies.map (fun r => { r with moved := r.moves.length }) }
     someAnd ((s.core 0).copies.find? (fun q => q.moved == q.moves.length)) (fun _ => true) = true) ∧
    ((copying false).mgmt.recording = false ∧ (copying false).mgmt.replaying = false) ∧
    (let s := nextOf (exec (.cpStart 9 1 3) (stripTwo.setCore 0 { stripTwo.core 0 with copies := [] }))
     let t := { s with cycle := 2 ^ 30 }
     someAnd (t.core 0).copies.head? (fun r => (t.core 0).copies.length == 1 && decide (r.nextAt ≤ t.cycle.toNat) &&
       r.moves == [{ src := .strip 128, dst := .strip 1024, kept := none }] && decide (stripSector r.granules 128 = some 385) &&
       decide (stripSector r.granules 1024 = some 392) && someAnd (Fmt.ofCode (tagFmt ((t.core 0).stripAt 385).tag)) (fun f => !Fmt.isInt f)) =
      true) := by decide +kernel

theorem witness_Errors : (mapped.mgmt.recording = false ∧ mapped.mgmt.replaying = false) ∧
    ((lookupNat 63 (mapped.core 0).laneErrors).getD 0 + 1 ≤ field mapped.mgmt.lrthr 0 16) ∧
    (let s := mapped.setCore 0 { mapped.core 0 with laneErrors := [(63, 256)] }
     field s.mgmt.lrthr 0 16 ≠ 0 ∧ field s.mgmt.lrthr 0 16 < (lookupNat 63 (s.core 0).laneErrors).getD 0 + 1 ∧
     (s.core 0).lanemap.getLsbD 63 = true ∧ (s.core 0).retiring.getLsbD 63 = false ∧ holderOf s 0 (63 / 8) = none) ∧
    (holderOf (vec []) 0 (7 / 8) = some 0 ∧ ((vec []).core 0).wordErrors.contains (7 * 2048 + 300) = false ∧
      (1 : VIdx).toNat = 300 / (2048 / ((vec []).strandAt 0).nreg)) ∧
    (mapped.strand.phase ≠ .free ∧ mapped.strand.vid = 0 ∧ mapped.strand.judge = false) ∧
    someAnd (lookupNat 2 ((withQueue [.scalar true 5 false] mapped).core 0).queues) (fun y => decide (y.entries[0]? = some (.scalar true 5 false)))
      = true ∧
    (match physClass scratchBase with
      | .scratch _ => true
      | _ => false) = true ∧
    (∀ c ∈ [none, some true], someAnd (lookupNat (0x40000 / 128 * 4096) ((inRegion c []).die 0).slots) (fun x => !x.dirty) = c.isSome) ∧
    (let s := (inRegion (some false) []).setDie 0 { (inRegion (some false) []).die 0 with
       slots := ((inRegion (some false) []).die 0).slots.map (fun p => (p.1, { p.2 with dirty := true })) }
     someAnd (lookupNat (0x40000 / 128 * 4096) (s.die 0).slots) (fun x => x.dirty && x.gen == viewGen s 0) = true ∧ physClass 0x40000 = .hbm) ∧
    (let e : LlcLine := { way := 0, part := 0, res := 0, page := plainAttr, used := 0, present := []
                          slots := [(1, { dirty := false, gen := 0, stamp := 0, region := none })] }
     let s := { mapped with llc := [(5 * 4096, e)] }
     someAnd (lookupNat (21 / 4 * 4096) s.llc) (fun e => someAnd (lookupNat (21 % 4) e.slots) (fun x => !x.dirty)) = true ∧
       s.die 4 = DieSt.reset) ∧
    ((handling []).barista 0).invocation ≠ none ∧ (128 * 5 < 0x8000000000 ∧ lookupNat (5 / 4) mapped.frames = none) ∧
    (let s := mapped.setCore 0 { mapped.core 0 with assayNow := true }
     (s.core 0).assayNow = true ∧ (s.core 0).assayer = none) ∧
    (let s := mapped.setCore 0 { mapped.core 0 with assayer := some (7, 31) }
     (s.core 0).assayer = some (7, 31) ∧ (s.core 0).assayHeld = false ∧ (s.core 0).assayDemand = false ∧ 4 < ((s.core 0).bus 7).failing + 5 ∧ ((s.core 0).bus 7).reported = false) ∧
    (let s := mapped.setCore 0 { mapped.core 0 with assayer := some (7, 3), assayDemand := true }
     (s.core 0).assayer = some (7, 3) ∧ (s.core 0).assayHeld = false ∧ (s.core 0).assayDemand = true) := by decide +kernel

/-- FP32 elements in a page whose default format is FP16, to be recoded. -/
def grindPage : PageAttr := ⟨true, Fmt.code .fp16, 2, false, 0⟩

/-- The Grinder of each stack on, and whether it holds the FP32 sector at 0x20000. -/
def grinding (holds : Bool) : State :=
  { mapped with
    busy := if holds then [(0x20000 / 128, grindPage)] else []
    pages := [(0x20000 / 512, grindPage)]
    mgmt := { mapped.mgmt with grctl := (List.range 8).map (fun k => (k, 0x10003)) } }

theorem witness_CachesAndRegions :
    (let s := { mapped with regions := [(5, { Region.reset with valid := true })] }
     let va : Word := 0x600000000 + 0x40000
     let ctx : Ctx := { die := 0, gid := none, asid := 0, user := false, view := 0, barista := false }
     okAnd (translate s ctx .read va) (fun p => decide (p.pa / 128 = 0x800) && p.rgv && !p.hen && decide (p.pa < 0x8000000000) &&
       decide (absentMask s 0 0 (p.pa / 512) (BitVec.twoPow 4 0) ≠ 0)) = true) ∧
    (let ctx : Ctx := { die := 0, gid := none, asid := 0, user := false, view := 0, barista := false }
     okAnd (translate (handling []) ctx .read 0x400030000) (fun p => p.hen && decide (absentMask (handling []) 0 0 (p.pa / 512) (BitVec.twoPow 4 0) ≠ 0)) = true) ∧
    (∀ r ∈ [none, some 5], (let x : Slot :=
       { dirty := false, stale := false, gen := 0, stamp := 0, asid := 0, vline := 0, hen := true, region := r, data := none, writers := []
         arrives := 0 }
     let t := { mapped with regions := [(5, { Region.reset with valid := true })] }
     let s := t.setDie 0 { t.die 0 with slots := [(5 * 4096, x)] }
     someAnd (lookupNat (5 * 4096) (s.die 0).slots) (fun x => !x.stale && x.region.any (regionLive s) == r.isSome) = true)) ∧
    (okAnd (translate mapped { die := 0, gid := none, asid := 0, user := false, view := 0, barista := false } .read
        (BitVec.ofNat 64 (512 * 0x180))) (fun p => decide (p.pa / 512 = 0x180) && decide (p.pa < 0x8000000000)) = true ∧
      lookupNat (0x180 * 4096) mapped.llc = none) ∧
    (512 * 0x100 < 0x8000000000 ∧ (packing mapped 0x100 { grindPage with pack := true }).isSome = true ∧
      usedBytes (Grid.ofBits grindPage.grid) (mapped.mem.tag (4 * 0x100 + 1)) ≤ 5) ∧
    (let s := grinding false
     let k := (lineHome s (0x400 / 4)).1
     (lineHome s (0x400 / 4)).1 = k ∧ bit (grctl s k) 0 = true ∧ bit (grctl s k) 1 = true ∧ field (grctl s k) 16 16 ≠ 0 ∧ 128 * 0x400 < 0x8000000000 ∧ lookupNat 0x400 s.busy = none ∧
       qualifies (pageOfLine s (0x400 / 4)) (s.mem.tag 0x400) = true) ∧
    (let s := grinding true
     grinderHolds s (lineHome s (0x400 / 4)).1 = some (0x400, grindPage) ∧ (∀ q ∈ s.baristas, q.2.counts = []) ∧
       (∀ d ∈ s.dies, d.2.records = []) ∧ grindPage.pack = false ∧
       someAnd (grind grindPage (s.mem.sector 0x400)) (fun _ => true) = true) ∧
    grind grindPage { bits := 0x3F800001, tag := mkTag clsValid 127 (Fmt.code .fp32) } = none ∧
    (let s := { mapped with regions := [(5, { Region.reset with count := 1 })] }
     (s.region 5).mirrored = false) ∧
    (let s := mapped.setDie 3 { mapped.die 3 with multicasts := [(4, 9), (5, 7)] }
     takeMulticast 5 (s.die 3).multicasts = some (7, [(4, 9)])) ∧
    ((mapped.region 5).validBefore mapped.cycle = false ∧ (mapped.region 5).landing = none ∧ mapped.ingress = [] ∧
      mapped.mgmt.recording = false ∧ mapped.mgmt.replaying = false) ∧
    (let s := { mapped with regions := [(5, { Region.reset with landing := some 7 })] }
     (s.region 5).landing = some 7 ∧ (s.region 5).pending = []) ∧
    (regionInFlight mapped 5 = false ∧ (mapped.region 5).pending = []) ∧ (15 ≤ 15 ∧ field 1 0 32 ≠ 0) := by decide +kernel

/-- The queue at 0x50000 holds the frame at 0x40000, which die 0 has seen; block 0x60000 has budgets. -/
def launched (aged : Bool) (since : Option Nat) : State :=
  let s := tasked 1 []
  let m := (s.mem.setBytes 0x50400 8 0x40001).setBytes 0x40028 8 0x200000
  let t := { s with
    mem := m
    blocks := s.blocks.map (fun (p : Nat × Block) => (p.1, { p.2 with
      image := p.2.image + BitVec.ofNat 4096 (rootTable * 2 ^ 192 + 100 * 2 ^ 384 + 96 * 2 ^ 398 + 8 * 2 ^ 410 + 100 * 2 ^ 414) })) }
  t.setDie 0 { t.die 0 with tracks := [(0x50000, { deficit := 0, tail := 1, head := 0, headSince := since, aged := aged })] }

theorem witness_LaunchAndBlocks :
    someAnd ((dieQueues (tasked 1 []) 0).find? (fun x => x.pa == 0x50000)) (fun q => q.pa == 0x50000) = true ∧
    (let s := { launched false (some 0) with cycle := 2 ^ 20 }
     someAnd ((candidates s 0).find? (fun x => x.queue.pa == 0x50000 && agesNow s 0 x)) (fun c => c.queue.pa == 0x50000) = true) ∧
    (let s := launched true (some 0)
     distributorStalled s 0 = false ∧ misplaced s 0 = none ∧ orphanFrame s 0 = none ∧ droppable s 0 = none ∧ staleReserve s 0 = false ∧
     (s.die 0).placeFrom ≤ s.cycle.toNat ∧ someAnd (longestAged s 0 (candidates s 0)) (fun c => someAnd (findCore s 0 c.queue c.need) (fun core =>
       someAnd (freeStrandOf (takeHead s 0 c.queue c.held) core) (fun _ => c.need.header.isNone))) = true) ∧
    (let t := launched true (some 0)
     let s := (t.setCore 0 { t.core 0 with closed := true }).setDie 0 { t.die 0 with reserved := [(0x50000, some 0)] }
     someAnd (overdueFrame { s with cycle := 65536 } 0) (fun _ => true) = true) ∧
    ((install mapped 0x80000).1 ≠ 0 ∧ (let s := { mapped with mem := (mapped.mem.setBytes 0x80000 1 1).setTag (0x80000 / 128) tagRaw }
      (install s 0x80000).1 = 0)) ∧
    (lookupNat 0x80000 mapped.blocks = none ∧ someAnd (lookupNat 0x60000 (tasked 0 []).blocks) (fun _ => true) = true) ∧
    (∀ r ∈ [Recovery.requested, .draining, .removing], (let s := { tasked 0 [] with blocks := (tasked 0 []).blocks.map (fun (p : Nat × Block) => (p.1, { p.2 with recovery := r })) }
     someAnd (lookupNat 0x60000 s.blocks) (fun b => b.recovery == r) = true ∧
       orphanLeft s (fun x => domainOf s x == 0x60000) = false ∧ orphanLeft s (under s 0x60000) = false)) ∧
    (∀ n ∈ [4, 6], (let w := BitVec.ofNat 64 n
     let s := mapped.setDie 0 { mapped.die 0 with
       fqhead := 4
       fqtail := 6 }
     ((w.setWidth 13 : BitVec 13) - (s.die 0).fqhead).toNat ≤ ((s.die 0).fqtail - (s.die 0).fqhead).toNat)) ∧
    (1 : Word).getLsbD 0 = true := by decide +kernel

def managed (f : Mgmt → Mgmt) : State := { mapped with mgmt := f mapped.mgmt }

/-- A record of a host write in the journal, replayed; or one that cannot take effect: a ticket that nobody waits for. -/
def replayed (kind : Nat) : State :=
  let s := managed (fun m => { m with
    replaying := true
    jrnctl := 3
    jrntail := 64 })
  { s with mem := (s.mem.setBytes 8 1 kind).setTag 0 tagRaw }

theorem witness_Management_pad : replayDue (replayed 0) = true ∧ (journalHead (replayed 0)).2.kind = 0 := by decide +kernel

theorem witness_Management : (∀ k ∈ [1, 2, 3, 4], (managed (fun m => { m with mgmtst := k })).mgmt.mgmtst = k) ∧ (0x15 : Word).toNat % 16 = 5 ∧
    ((1 : Word).getLsbD 0 = true ∧ mapped.mgmt.mgmtst ∈ [4, 5, 6] ∧ mapped.mgmt.fwbusy = false) ∧
    (managed (fun m => { m with fwbusy := true })).mgmt.fwbusy = true ∧
    (∀ n ∈ [64, 192], (let w := BitVec.ofNat 64 n
     let s := managed (fun m => { m with
       jrnhead := 64
       jrntail := 192 })
     w.toNat % 64 = 0 ∧ (w - s.mgmt.jrnhead).toNat ≤ (s.mgmt.jrntail - s.mgmt.jrnhead).toNat ∧ s.mgmt.jrnwait = [])) ∧
    (∀ n ∈ [16, 36], 16 ≤ (BitVec.ofNat 64 n).toNat % 64 ∧ (BitVec.ofNat 64 n).toNat % 64 ≤ 36) ∧
    (mapped.ingress = [] ∧ mapped.mgmt.recording = false ∧ mapped.mgmt.replaying = false) ∧
    ((replayed 0).mgmt.replaying = true ∧ journalRegister 0x10 = false) ∧
    (replayDue (replayed 1) = true ∧ someAnd (replayEffect (replayed 1) (journalHead (replayed 1)).2) (fun _ => true) = true) ∧
    (replayDue (replayed 5) = true ∧ replayEffect (replayed 5) (journalHead (replayed 5)).2 = none ∧ (replayed 5).strand.phase ≠ .free) := by
  decide +kernel

/-- A transfer to this device for the line at 0x30000, sector 0. -/
def transfer (type opx : Nat) : CemenMsg :=
  { port := 3, header := cemenHeader type 1 0 0x30000 tagRaw.toNat opx, mask := 0, blocks := [5] }

/-- Port 3 is up. -/
def linked : State := managed (fun m => { m with ports := [(3, (true, 1))] })

theorem witness_FabricInputs : (linked.mgmt.recording = false ∧ linked.mgmt.replaying = false ∧ linked.ingress = []) ∧
    (11 < 12) ∧ linked.llc = [] ∧
    (∀ k ∈ [1, 2, 3, 4, 5, 6], (transfer k 0).type = k ∧ accepted linked (transfer k 0) k = true) ∧
    (let m := transfer 1 0
     m.inHbm = true ∧ m.opx 156 1 = 0 ∧ m.sectors = [0] ∧ m.blocks = [5] ∧ sectorBusy linked (m.addr / 512 * 4 + 0) = false) ∧
    ((transfer 2 0).inHbm = true ∧ (transfer 2 0).places.any (sectorBusy linked) = false) ∧
    (let m := transfer 4 0
     m.inHbm = true ∧ m.sectors = [0] ∧ m.blocks = [5] ∧ m.opx 160 2 = 0 ∧ m.opx 156 4 = 0 ∧ sectorBusy linked (m.addr / 512 * 4 + 0) = false ∧
     malformedReg (linked.baseSector (m.addr / 512 * 4 + 0)).tag = false ∧ tagVcls (linked.baseSector (m.addr / 512 * 4 + 0)).tag = clsValid) ∧
    someAnd (atomicEffect linked (transfer 4 0)) (fun _ => true) = true ∧ someAnd (ingressEffect linked (.hostRead 0x30000)) (fun _ => true) = true ∧
    (let s := { linked with strand := { linked.strand with wait := some (.response 0 0x30000 9) } }
     s.strand.phase = .running ∧ s.strand.wait = some (.response (transfer 3 0).src (transfer 3 0).addr 9) ∧ s.others = []) ∧
    (4 ≤ linked.mgmt.mgmtst.toNat ∧ 0x30000 < 0x8000000000 ∧ (1 : BitVec 64) ≠ 0 ∧ sectorBusy linked (0x30000 / 128) = false) ∧
    (let u : Unacked := { addr := 9, asid := 0, since := 0, known := [] }
     lookupNat 3 { linked with unacked := [(3, u)] }.unacked = some u) := by
  decide +kernel

theorem witness_canonical_host : linked.Canonical := by unfold State.Canonical; decide +kernel

/-! ### Single steps, with values worked out by hand from the rules -/

/-- The register `d` after an instruction. -/
def after (i : Instr) (l : List (Nat × Nat)) (d : SReg) : Word := (nextOf (exec i (regs l))).rdS d

/-- R90: wrapping, division by zero and at the most negative number, the shift count modulo 64, the zeros of 0. -/
theorem test_scalar : after (.add 1 2 3) [(2, 2 ^ 64 - 1), (3, 2)] 1 = 1 ∧ after (.div 1 2 3) [(2, 5)] 1 = 0xFFFFFFFFFFFFFFFF ∧
    after (.rem 1 2 3) [(2, 5)] 1 = 5 ∧ after (.div 1 2 3) [(2, 2 ^ 63), (3, 2 ^ 64 - 1)] 1 = 0x8000000000000000 ∧
    after (.rem 1 2 3) [(2, 2 ^ 64 - 7), (3, 2)] 1 = 0xFFFFFFFFFFFFFFFF ∧ after (.mulh 1 2 3) [(2, 2 ^ 64 - 1), (3, 2)] 1 = 0xFFFFFFFFFFFFFFFF ∧
    after (.sra 1 2 3) [(2, 2 ^ 63), (3, 65)] 1 = 0xC000000000000000 ∧ after (.clz 1 2) [] 1 = 64 ∧ after (.add 0 2 2) [(2, 1)] 0 = 0 := by
  decide +kernel

/-- R92: movhi shifts by 19 and keeps the low 19 bits. -/
theorem test_constants : after (.movhi 1 1) [(1, 0x12345)] 1 = 0x92345 ∧ after (.adr 1 0x7FFFF) [] 1 = 0xFFFC := by decide +kernel

/-- R95, R96, R160: bytes in little-endian order; sign extension; a swap. -/
theorem test_memory : after (.ldB 1 2 7) [(2, 0x30000)] 1 = 0xFFFFFFFFFFFFFF88 ∧ after (.ldHU 1 2 1) [(2, 0x30000)] 1 = 0x4433 ∧
    (nextOf (exec (.stW 3 2 1) (regs [(2, 0x30000), (3, 0xAABBCCDD)]))).mem.byte 0x30004 = 0xDD ∧
    (nextOf (exec (.stW 3 2 1) (regs [(2, 0x30000), (3, 0xAABBCCDD)]))).mem.byte 0x30007 = 0xAA ∧
    after (.amoSwap 1 2 3 .package) [(2, 0x30000), (3, 9)] 1 = 0x8877665544332211 ∧
    (nextOf (exec (.amoSwap 1 2 3 .package) (regs [(2, 0x30000), (3, 9)]))).mem.byte 0x30000 = 9 := by decide +kernel

/-- R97: the second FP32 element of the sector. -/
theorem test_lde : after (.ldeF32 5 2 4) [(2, 0x200020000)] 5 = 0x40000000 ∧ after (.ldeI64 5 2 4) [(2, 0x200020000)] 5 = 2 := by
  decide +kernel

/-- R100, R101: a taken branch, and the link of a call whose target is its own register. -/
theorem test_control : (nextOf (exec (.bz 1 0x7FFFF) mapped)).pc = 0xFFFC ∧ (nextOf (exec (.callReg 1 1 4) (regs [(1, 0x20000)]))).pc = 0x20010 ∧
    after (.callReg 1 1 4) [(1, 0x20000)] 1 = 0x10004 := by decide +kernel

/-- R29, R106: the saved state of `trap 7`. -/
theorem test_trap : (nextOf (exec (.trap 7) mapped)).strand.sys.cause = 0x0C ∧ (nextOf (exec (.trap 7) mapped)).strand.sys.edata = 7 ∧
    (nextOf (exec (.trap 7) mapped)).strand.sys.epc = 0x10000 ∧ (nextOf (exec (.trap 7) mapped)).strand.sys.status = 0x6400 := by decide +kernel

/-- R127: 1.0 + 0.5 and 2.0 + -3.0; 2.0 * -3.0. R143: 0.5 + -3.0. R132: 2.0 against -3.0. -/
theorem test_vector : ((nextOf (exec (.vadd 3 1 2) (vec []))).vreg 3).slot 0 = 0x3FC00000 ∧
    ((nextOf (exec (.vadd 3 1 2) (vec []))).vreg 3).slot 1 = 0xBF800000 ∧
    ((nextOf (exec (.vmul 3 1 2) (vec []))).vreg 3).slot 1 = 0xC0C00000 ∧ (nextOf (exec (.vredAdd 9 2 0) (vec []))).rdS 9 = 0xC0200000 ∧
    ((nextOf (exec (.vcmpLe 1 1 2) (vec []))).rdP 1).getLsbD 1 = false := by decide +kernel

end Sys2Proof.Tests
end

section
/-! Every step keeps memory canonical (O8). Memory is written in few places, through `setSector`, `setTag` and `writeBase`, or is cleared at
a module reset; each keeps its canonical form. An operation of the state has one lemma here, in the order of the model: `f_mem` where it leaves memory as it was, `f_wf` where it
writes memory, `f_yields` where it may stop, and `execX_canonical` for an instruction or an event whose proof takes more than these. -/

namespace Sys2Proof.Machine

/-! ### Folds, computations that may stop, and branches -/

theorem foldl_mem {α : Type} {f : State → α → State} (hf : ∀ s a, (f s a).mem = s.mem) (l : List α) (s : State) :
    (l.foldl f s).mem = s.mem := by
  induction l generalizing s with
  | nil => rfl
  | cons a l ih => rw [List.foldl_cons, ih, hf]

theorem foldl_wf {α : Type} {f : State → α → State} (hf : ∀ s a, s.mem.wf = true → (f s a).mem.wf = true) (l : List α) {s : State}
    (h : s.mem.wf = true) : (l.foldl f s).mem.wf = true := by
  induction l generalizing s with
  | nil => exact h
  | cons a l ih => exact ih (hf s a h)

/-- What a computation gives has the property, where it gives anything. -/
inductive Yields {ε α : Type} (p : α → Prop) : Except ε α → Prop
  | ok {a : α} : p a → Yields p (.ok a)
  | error (e : ε) : Yields p (.error e)

section
variable {ε α β : Type} {p : α → Prop} {q : β → Prop}

theorem Yields.of_ok {x : Except ε α} {a : α} (h : Yields p x) (e : x = .ok a) : p a := by
  subst e
  cases h
  assumption

@[simp] theorem yields_ok (a : α) : Yields p (.ok a : Except ε α) ↔ p a := ⟨fun h => h.of_ok rfl, .ok⟩
@[simp] theorem yields_error (e : ε) : Yields p (.error e : Except ε α) ↔ True := ⟨fun _ => trivial, fun _ => .error e⟩

theorem Yields.imp {r : α → Prop} {x : Except ε α} (h : Yields p x) (hr : ∀ a, p a → r a) : Yields r x := by
  cases h with
  | ok ha => exact .ok (hr _ ha)
  | error e => exact .error e

/-- A computation that goes on from what another gives. -/
theorem Yields.bind {x : Except ε α} {f : α → Except ε β} (h : Yields p x) (hf : ∀ a, p a → Yields q (f a)) : Yields q (x >>= f) := by
  cases h with
  | ok ha => exact hf _ ha
  | error e => exact .error e

/-- A computation that goes on from a check, of whose value nothing need be known. -/
theorem Yields.after {x : Except ε α} {f : α → Except ε β} (hf : ∀ a, Yields q (f a)) : Yields q (x >>= f) := by
  cases x with
  | ok a => exact hf a
  | error e => exact .error e

theorem Yields.mapError {ε' : Type} {x : Except ε α} {f : ε → ε'} (h : Yields p x) : Yields p (x.mapError f) := by
  cases h with
  | ok ha => exact .ok ha
  | error e => exact .error _

end

@[simp] theorem canonical_iff (s : State) : s.Canonical ↔ s.mem.wf = true := Iff.rfl

theorem ite_wf {c : Prop} [Decidable c] {s t : State} (hs : s.mem.wf = true) (ht : t.mem.wf = true) :
    (if c then s else t).mem.wf = true := by
  split
  · exact hs
  · exact ht

/-- Where an instruction or an event goes on, memory is canonical. -/
def Out.Canonical (r : Out) : Prop := ∀ t, r = .next t → t.mem.wf = true

theorem canonical_next {t : State} (h : t.mem.wf = true) : Out.Canonical (.next t) := by
  rintro _ ⟨⟩
  exact h

theorem canonical_ite {c : Prop} [Decidable c] {a b : Out} (ha : a.Canonical) (hb : b.Canonical) : Out.Canonical (if c then a else b) := by
  split
  · exact ha
  · exact hb

/-! ### Memory -/

@[simp] theorem mapStrands_mem (s : State) (f : Nat → Strand → Strand) : (s.mapStrands f).mem = s.mem := rfl

/-! ### Translation -/

@[simp] theorem keep_mem (s : State) (l : List Translation) : (s.keep l).mem = s.mem := by
  simp only [State.keep]
  split <;> simp

/-! ### Resource control blocks -/

@[simp] theorem modBlock_mem (s : State) (a : Nat) (f : Block → Block) : (s.modBlock a f).mem = s.mem := by
  unfold State.modBlock
  split <;> rfl

/-! ### The last level cache -/

@[simp] theorem modView_mem (s : State) (v : Nat) (f : View → View) : (s.modView v f).mem = s.mem := by
  unfold State.modView
  split <;> rfl

@[simp] theorem noteFill_mem (s : State) (sec : Nat) : (s.noteFill sec).mem = s.mem := by
  unfold State.noteFill
  (repeat' split) <;> rfl

@[simp] theorem storeLine_wf {s : State} {line : Nat} {page : PageAttr} (h : s.mem.wf = true) : (s.storeLine line page).mem.wf = true := by
  unfold State.storeLine
  split
  · exact h
  · refine List.foldlRecOn (motive := fun m : Memory => m.wf = true) _ _ h fun m hm q _ => ?_
    split
    · exact hm
    · exact wf_setSector _ _ hm

@[simp] theorem recallSectors_mem (s : State) (l : List Nat) : (recallSectors s l).mem = s.mem := rfl

@[simp] theorem startGrinder_mem (s : State) (sector : Nat) (page : PageAttr) : (startGrinder s sector page).mem = s.mem := by
  unfold startGrinder
  split <;> rfl

@[simp] theorem evictBase_wf {s : State} {line : Nat} {page : PageAttr} (h : s.mem.wf = true) : (evictBase s line page).mem.wf = true := by
  simp only [evictBase]
  split
  · simp [h]
  · apply storeLine_wf
    split <;> simp [foldl_mem, h]

@[simp] theorem evictCopies_mem (s : State) (key : Nat) (e : LlcLine) : (evictCopies s key e).mem = s.mem := by
  simp [evictCopies]

@[simp] theorem evictLine_wf {s : State} {key : Nat} {e : LlcLine} (h : s.mem.wf = true) : (evictLine s key e).mem.wf = true := by
  unfold evictLine
  split <;> simp [h]

@[simp] theorem llcFillSector_wf {s : State} {key i part : Nat} {page : PageAttr} {rg : Option Nat} (h : s.mem.wf = true) :
    (llcFillSector s key i part page rg).mem.wf = true := by
  simp only [llcFillSector]
  (repeat' split) <;> simp [h]

@[simp] theorem llcRequest_wf {s : State} {key i part : Nat} {page : PageAttr} {rg : Option Nat} (h : s.mem.wf = true) :
    (llcRequest s key i part page rg).mem.wf = true := by
  simp only [llcRequest]
  (repeat' split) <;> simp [h]

/-! ### Access to memory -/

@[simp] theorem informs_mem (s : State) (a b : Knower) : (s.informs a b).mem = s.mem := by
  unfold State.informs
  split <;> rfl

@[simp] theorem learns_mem (s : State) (ctx : Ctx) (key : Nat) : (s.learns ctx key).mem = s.mem := by
  unfold State.learns
  split <;> simp

@[simp] theorem tells_mem (s : State) (ctx : Ctx) (key : Nat) : (s.tells ctx key).mem = s.mem := by
  unfold State.tells
  split <;> simp

@[simp] theorem forgetAgent_mem (s : State) (key : Nat) : (s.forgetAgent key).mem = s.mem := by
  unfold State.forgetAgent
  split <;> rfl

@[simp] theorem renameKnower_mem (s : State) (f : Knower → Knower) : (s.renameKnower f).mem = s.mem := by
  unfold State.renameKnower
  split <;> rfl

@[simp] theorem queueEvent_mem (s : State) (b : Nat) (e : HandlerEvent) : (s.queueEvent b e).mem = s.mem := by
  simp only [State.queueEvent]
  (repeat' split) <;> simp

@[simp] theorem sendMessage_mem (s : State) (b : Nat) (m : HandlerEvent) : (s.sendMessage b m).mem = s.mem := by
  simp [State.sendMessage]

@[simp] theorem raiseEvent_mem (s : State) (ctx : Ctx) (p : Page) (va : Word) (kind : BitVec 2) (mask dirty : BitVec 4) (hop : BitVec 4)
    (write engine : Bool) : (raiseEvent s ctx p va kind mask dirty hop write engine).mem = s.mem := by
  simp only [raiseEvent]
  (repeat' split) <;> simp

@[simp] theorem passToLlc_wf {s : State} {key : Nat} {gone : List (Nat × Slot)} (h : s.mem.wf = true) :
    (passToLlc s key gone).mem.wf = true := by
  refine foldl_wf (fun t e ht => ?_) _ h
  dsimp only
  (repeat' split) <;> simp [ht]

@[simp] theorem replaceWay_wf {s : State} {die way : Nat} (h : s.mem.wf = true) : (replaceWay s die way).mem.wf = true := by
  simp only [replaceWay]
  (repeat' split) <;> simp [h]

@[simp] theorem fromLlc_wf {s : State} {die part : Nat} {p : Page} {sec w : Nat} (h : s.mem.wf = true) :
    (fromLlc s die part p sec w).mem.wf = true := by
  simp only [fromLlc]
  (repeat' split) <;> simp [h]

@[simp] theorem installSlot_wf {s : State} {die part : Nat} {asid : BitVec 12} {va : Word} {p : Page} {sec v : Nat} (h : s.mem.wf = true) :
    (installSlot s die part asid va p sec v).mem.wf = true := by
  simp [installSlot, h]

@[simp] theorem installSlots_wf {s : State} {die part : Nat} {asid : BitVec 12} {va : Word} {p : Page} {line : Nat} {mask : BitVec 4}
    {v : Nat} (h : s.mem.wf = true) : (installSlots s die part asid va p line mask v).mem.wf = true := by
  refine foldl_wf (fun t i ht => ?_) _ h
  split <;> simp [ht]

@[simp] theorem fillLine_wf {s : State} {ctx : Ctx} {p : Page} {va : Word} {miss : BitVec 4} {write engine : Bool} (h : s.mem.wf = true) :
    (fillLine s ctx p va miss write engine).mem.wf = true := by
  simp only [fillLine]
  split <;> simp [h]

@[simp] theorem touch_wf {s : State} {ctx : Ctx} {p : Page} {va : Word} {mask : BitVec 4} {write engine : Bool} (h : s.mem.wf = true) :
    (s.touch ctx p va mask write engine).mem.wf = true := by
  simp only [State.touch]
  (repeat' split) <;> simp [h]

@[simp] theorem dirtyView_wf {s : State} {ctx : Ctx} {p : Page} {va : Word} {sec : Nat} (h : s.mem.wf = true) :
    (dirtyView s ctx p va sec).mem.wf = true := by
  simp only [dirtyView]
  (repeat' split) <;> simp [h]

@[simp] theorem send_mem (s : State) (ctx : Ctx) (x : Sent) (addr : Word) (awaits : Bool) (key : Option Nat) :
    (s.send ctx x addr awaits key).mem = s.mem := by
  simp only [State.send]
  (repeat' split) <;> simp

@[simp] theorem sendPlain_mem (s : State) (x : Sent) : (s.sendPlain x).mem = s.mem := rfl

@[simp] theorem peerWrite_mem (s : State) (ctx : Ctx) (dev addr : Nat) (va : Word) (x : Sector) (mask : BitVec 128)
    (em : Option (BitVec 128)) (key : Nat) : (peerWrite s ctx dev addr va x mask em key).mem = s.mem := by
  simp [peerWrite]

@[simp] theorem hostWrite_wf {s : State} {ctx : Ctx} {sec : Nat} {va : Word} {x : Sector} {mask : BitVec 128} (h : s.mem.wf = true) :
    (hostWrite s ctx sec va x mask).mem.wf = true := by
  simp [hostWrite, writeBase_wf, h]

theorem defer_yields {s : State} (ctx : Ctx) (edata : Word) (e : Deferred) :
    Yields (fun t : State => t.mem = s.mem) (s.defer ctx edata e) := by
  unfold State.defer
  (repeat' split) <;> simp

theorem chargeSpill_yields {s : State} (ctx : Ctx) (va : Word) : Yields (fun t : State => t.mem = s.mem) (s.chargeSpill ctx va) := by
  unfold State.chargeSpill
  (repeat' split) <;> simp [foldl_mem]

@[simp] theorem sawWrites_mem (s : State) (ctx : Ctx) (sec : Nat) : (s.sawWrites ctx sec).mem = s.mem := by
  unfold State.sawWrites
  split <;> rfl

@[simp] theorem wrote_mem (t s : State) (ctx : Ctx) (p : Page) (mask : BitVec 128) : (State.wrote t s ctx p mask).mem = t.mem := by
  unfold State.wrote
  (repeat' split) <;> rfl

@[simp] theorem ordered_mem (s : State) (g : Nat) (scalar vector walks : Bool) : (s.ordered g scalar vector walks).mem = s.mem := by
  unfold State.ordered
  split <;> rfl

@[simp] theorem releases_mem (s : State) (g : Nat) : (s.releases g).mem = s.mem := by
  unfold State.releases
  split <;> rfl

@[simp] theorem acquires_mem (s : State) (g : Nat) : (s.acquires g).mem = s.mem := by
  unfold State.acquires
  split <;> rfl

@[simp] theorem awaitFill_mem (s : State) (ctx : Ctx) (p : Page) : (s.awaitFill ctx p).mem = s.mem := by
  unfold State.awaitFill
  (repeat' split) <;> rfl

@[simp] theorem hasRead_mem (t s : State) (ctx : Ctx) (p : Page) (va : Word) : (State.hasRead t s ctx p va).mem = t.mem := by
  unfold State.hasRead
  split <;> simp

theorem loadSector_yields {s : State} (ctx : Ctx) (p : Page) (va : Word) (engine : Bool) (h : s.mem.wf = true) :
    Yields (fun r : Sector × State => r.2.Canonical) (loadSector s ctx p va engine) := by
  unfold loadSector
  split <;> simp [h]

theorem viewStore_yields {s : State} (ctx : Ctx) (p : Page) (va : Word) (op : StoreOp) (engine : Bool) (h : s.mem.wf = true) :
    Yields State.Canonical (viewStore s ctx p va op engine) := by
  simp only [viewStore]
  split <;> refine Yields.bind (p := fun t : State => t.mem = s.mem) ?_ fun u hu => .after fun x => ?_
  · exact .ok rfl
  · cases ctx.llc <;> simp [hu, h]
  · exact chargeSpill_yields _ _
  · cases ctx.llc <;> simp [hu, h]

@[simp] theorem atLlcLine_wf {s : State} {ctx : Ctx} {p : Page} (h : s.mem.wf = true) : (atLlcLine s ctx p).mem.wf = true := by
  simp [atLlcLine, h]

@[simp] theorem requestWrite_wf {s : State} {ctx : Ctx} {p : Page} {va : Word} {engine : Bool} (h : s.mem.wf = true) :
    (requestWrite s ctx p va engine).mem.wf = true := by
  simp only [requestWrite]
  (repeat' split) <;> simp [h]

@[simp] theorem baseStore_wf {s : State} {ctx : Ctx} {p : Page} {va : Word} {op : StoreOp} {engine : Bool} (h : s.mem.wf = true) :
    (baseStore s ctx p va op engine).mem.wf = true := by
  simp [baseStore, writeBase_wf, h]

@[simp] theorem windowStore_wf {s : State} {ctx : Ctx} {slot pa : Nat} {va : Word} {mask : BitVec 128} {em : Option (BitVec 128)}
    {op : StoreOp} (h : s.mem.wf = true) : (windowStore s ctx slot pa va mask em op).mem.wf = true := by
  unfold windowStore
  split <;> simp [h]

theorem performStoreOp_yields {s : State} (ctx : Ctx) (p : Page) (va : Word) (mask : BitVec 128) (em : Option (BitVec 128)) (op : StoreOp)
    (engine : Bool) (h : s.mem.wf = true) : Yields State.Canonical (performStoreOp s ctx p va mask em op engine) := by
  have view := viewStore_yields ctx p va op engine h
  have later (e : Deferred) : Yields State.Canonical (s.defer ctx va e) :=
    (defer_yields ctx va e).imp fun t (ht : t.mem = s.mem) => by simp [ht, h]
  simp only [performStoreOp]
  (repeat' split) <;> simp [h, view, later]

theorem storeSector_yields {s : State} (ctx : Ctx) (p : Page) (va : Word) (mask : BitVec 128) (em : Option (BitVec 128)) (op : StoreOp)
    (engine : Bool) (h : s.mem.wf = true) : Yields State.Canonical (storeSector s ctx p va mask em op engine) := by
  unfold storeSector
  split
  · exact .error _
  · split
    · exact .error _
    · next t e => simpa using (performStoreOp_yields _ _ _ _ _ _ _ h).of_ok e

/-! ### Views -/

@[simp] theorem unbindQueue_mem (s : State) (c q : Nat) : (s.unbindQueue c q).mem = s.mem := by
  unfold State.unbindQueue
  split <;> rfl

@[simp] theorem freeGranules_mem (s : State) (c : Nat) (l : List Nat) : (s.freeGranules c l).mem = s.mem := rfl

@[simp] theorem darkenFree_mem (s : State) (core : Nat) : (darkenFree s core).mem = s.mem := by
  simp only [darkenFree]
  (repeat' split) <;> simp

@[simp] theorem clustersFreed_mem (s : State) (core : Nat) (switched : Bool) : (s.clustersFreed core switched).mem = s.mem := by
  unfold State.clustersFreed
  split <;> simp

@[simp] theorem clearStrand_mem (s : State) (g : Nat) (switched : Bool) : (s.clearStrand g switched).mem = s.mem := by
  simp only [State.clearStrand]
  split <;> simp

@[simp] theorem vacate_mem (s : State) (g : Nat) (keepStrip : Bool) : (s.vacate g keepStrip).mem = s.mem := by
  simp only [State.vacate]
  split <;> simp only [clearStrand_mem, freeGranules_mem] <;> exact foldl_mem (fun t b => by cases b <;> simp) _ _

@[simp] theorem markRival_mem (s : State) (v : View) (st : ViewState) : (s.markRival v st).mem = s.mem := rfl

@[simp] theorem setViewState_mem (s : State) (id : Nat) (st : ViewState) : (s.setViewState id st).mem = s.mem := by
  unfold State.setViewState
  split <;> simp

@[simp] theorem returnSpill_mem (s : State) (block pages : Nat) : (s.returnSpill block pages).mem = s.mem :=
  foldl_mem (fun _ _ => modBlock_mem _ _ _) _ _

@[simp] theorem dropHandlers_mem (s : State) (id : Nat) : (dropHandlers s id).mem = s.mem := rfl

@[simp] theorem returnView_mem (s : State) (id : Nat) : (s.returnView id).mem = s.mem := by
  simp only [State.returnView]
  (repeat' split) <;> simp [foldl_mem]

@[simp] theorem stopRival_mem (s : State) (id : Nat) (v : View) : (s.stopRival id v).mem = s.mem := by
  simp only [State.stopRival]
  (repeat' split) <;> simp

@[simp] theorem discardBelow_mem (s : State) (fuel id : Nat) : (s.discardBelow fuel id).mem = s.mem := by
  induction fuel generalizing s id with
  | zero => rfl
  | succ fuel ih =>
    have step (t : State) (c : Nat) : (match lookupNat c (t.discardBelow fuel c).views with
        | none => t.discardBelow fuel c
        | some v => ((t.discardBelow fuel c).stopRival c v).returnView c).mem = t.mem := by
      split <;> simp [ih]
    simp only [State.discardBelow]
    split <;> exact foldl_mem step _ _

@[simp] theorem discardView_mem (s : State) (id : Nat) : (s.discardView id).mem = s.mem := by
  simp only [State.discardView]
  split <;> simp

@[simp] theorem faultView_mem (s : State) (x : Strand) (g : Option Nat) : (s.faultView x g).mem = s.mem := by
  unfold State.faultView
  split <;> simp

/-! ### Operations of the state -/

@[simp] theorem focus_mem (s : State) (g : Nat) : (s.focus g).mem = s.mem := by
  unfold State.focus
  split <;> rfl

/-- An operation done as another strand leaves memory where the operation does: the change of strand leaves it. -/
theorem as_mem {s : State} {f : State → State} (hf : ∀ t, (f t).mem = t.mem) (g : Nat) : (s.as g f).mem = s.mem := by
  simp [State.as, hf]

theorem as_wf {s : State} {f : State → State} (hf : ∀ t, t.mem.wf = true → (f t).mem.wf = true) (g : Nat) (h : s.mem.wf = true) :
    (s.as g f).mem.wf = true := by
  simp only [State.as, focus_mem]
  exact hf _ (by simp [h])

@[simp] theorem demandStrip_mem (s : State) (core : Nat) (secs : List Nat) : (s.demandStrip core secs).mem = s.mem := by
  unfold State.demandStrip
  split <;> rfl

@[simp] theorem setQueue_mem (s : State) (q : Nat) (f : Queue → Queue) : (s.setQueue q f).mem = s.mem := by
  simp only [State.setQueue]
  split <;> simp

@[simp] theorem applyDest_mem (s : State) (d : Dest) : (applyDest s d).mem = s.mem := (applyDest_frame s d).1

@[simp] theorem applyCommit_mem (s : State) (c : Commit) : (applyCommit s c).mem = s.mem := (applyCommit_frame s c).1

@[simp] theorem put_mem (s : State) (latency : Nat) (dests : List Dest) (fl : Sticky) (vec : Bool) :
    (s.put latency dests fl vec).mem = s.mem :=
  (put_frame s latency dests fl vec).1

@[simp] theorem landV_mem (s : State) (d : VIdx) (v : VReg) (fl : Sticky) : (s.landV d v fl).mem = s.mem := by
  simp [State.landV]

@[simp] theorem landP_mem (s : State) (d : PReg) (v : PosBits) (fl : Sticky) : (s.landP d v fl).mem = s.mem := by
  simp [State.landP]

theorem guarded_wf {s : State} {f : State → State} (hf : (f s).mem.wf = true) (h : s.mem.wf = true) : (s.guarded f).mem.wf = true := by
  unfold State.guarded
  split
  · exact hf
  · simp [h]

@[simp] theorem scalar_mem (s : State) (latency : Nat) (d : SReg) (v : Word) : (s.scalar latency d v).mem = s.mem := by
  unfold State.scalar State.guarded
  split <;> simp [putS_mem]

@[simp] theorem predicate_mem (s : State) (latency : Nat) (d : PReg) (v : PosBits) : (s.predicate latency d v).mem = s.mem := by
  unfold State.predicate State.guarded
  split <;> simp [putP_mem]

@[simp] theorem putRecord_wf {s : State} {die pa : Nat} {r : FaultRecord} (h : s.mem.wf = true) : (s.putRecord die pa r).mem.wf = true := by
  unfold State.putRecord
  split
  · exact h
  · exact writeBase_wf _ _ _ _ h

@[simp] theorem settleRecords_wf {s : State} (h : s.mem.wf = true) : s.settleRecords.mem.wf = true := by
  refine foldl_wf (fun t q ht => foldl_wf (fun u p hu => putRecord_wf hu) _ ?_) _ h
  exact ht

@[simp] theorem writeRecord_wf {s : State} {die : Nat} {r : FaultRecord} {held : Bool} (h : s.mem.wf = true) :
    (s.writeRecord die r held).mem.wf = true := by
  simp [State.writeRecord, h]

@[simp] theorem post_wf {s : State} {die : Nat} {r : FaultRecord} {source : Option Nat} (h : s.mem.wf = true) :
    (s.post die r source).1.mem.wf = true := by
  simp only [State.post]
  split <;> simp [h]

@[simp] theorem savePost_wf {s : State} {core : Nat} {r : FaultRecord} (h : s.mem.wf = true) : (s.savePost core r).mem.wf = true := by
  simp [State.savePost, h]

@[simp] theorem distributorPost_wf {s : State} {die : Nat} {r : FaultRecord} (h : s.mem.wf = true) :
    (s.distributorPost die r).mem.wf = true := by
  simp [State.distributorPost, h]

@[simp] theorem autoRecover_mem (s : State) (block : Nat) : (s.autoRecover block).mem = s.mem := by
  simp [State.autoRecover]

@[simp] theorem doubleTrap_wf {s : State} {t : TrapInfo} (h : s.mem.wf = true) : (s.doubleTrap t).mem.wf = true := by
  simp [State.doubleTrap, h]

@[simp] theorem enterTrap_wf {s : State} {t : TrapInfo} {async : Bool} (h : s.mem.wf = true) : (s.enterTrap t async).mem.wf = true := by
  simp only [State.enterTrap]
  split <;> simp [h]

@[simp] theorem touchAll_wf {s : State} {ctx : Ctx} {l : List (Page × Word)} {write engine : Bool} (h : s.mem.wf = true) :
    (s.touchAll ctx l write engine).mem.wf = true :=
  foldl_wf (fun _ _ ht => touch_wf ht) _ h

@[simp] theorem asked_wf {s : State} {t : TrapInfo} (h : s.mem.wf = true) : (s.asked t).mem.wf = true := by
  simp [State.asked, foldl_mem, h]

@[simp] theorem takeTrap_wf {s : State} {t : TrapInfo} (h : s.mem.wf = true) : (s.takeTrap t).mem.wf = true := by
  have posted := post_wf (die := dieOf (s.asked t).strandId) (r := strandRecord (s.asked t) (s.asked t).strandId t)
    (source := some (s.asked t).strandId) (asked_wf (t := t) h)
  simp only [State.takeTrap]
  split
  · split
    · exact enterTrap_wf posted
    · exact posted
  · exact enterTrap_wf (asked_wf h)

@[simp] theorem thaw_mem (s : State) : s.thaw.mem = s.mem := by
  simp only [State.thaw]
  (repeat' split) <;> simp [foldl_mem]

@[simp] theorem returnTrap_mem (s : State) : s.returnTrap.mem = s.mem := by
  simp [State.returnTrap]

theorem addAbortCount_wf {s : State} (b : Nat) (asid : BitVec 12) (h : s.mem.wf = true) :
    ∀ t ∈ addAbortCount s b asid, t.mem.wf = true := by
  simp only [addAbortCount]
  (repeat' split) <;> simp [h]
  next e => exact (storeSector_yields _ _ _ _ _ _ _ h).of_ok e

@[simp] theorem settleCounts_wf {s : State} (h : s.mem.wf = true) : s.settleCounts.mem.wf = true := by
  refine foldl_wf (fun t q ht => foldl_wf (fun u a hu => ?_) _ ht) _ (settleRecords_wf h)
  split
  · next v e => exact show v.mem.wf = true from addAbortCount_wf _ _ hu _ e
  · exact hu

@[simp] theorem chargeInvocation_mem (s : State) (b : Nat) : (s.chargeInvocation b).mem = s.mem := by
  unfold State.chargeInvocation
  (repeat' split) <;> simp [foldl_mem]

@[simp] theorem abortHandler_wf {s : State} {b : Nat} {code : Byte} (h : s.mem.wf = true) : (s.abortHandler b code).mem.wf = true := by
  have charged : (if code = 0xFF then s else s.chargeInvocation b).mem.wf = true := by split <;> simp [h]
  simp only [State.abortHandler]
  split
  · exact charged
  · split
    · next t e => exact addAbortCount_wf _ _ (by simpa using charged) _ e
    · exact charged

@[simp] theorem stop_wf {s : State} {x : Stop} (h : s.mem.wf = true) : (s.stop x).mem.wf = true := by
  unfold State.stop
  split <;> simp [h]

theorem finish_wf {s : State} {r : Except Stop State} (hr : Yields State.Canonical r) (h : s.mem.wf = true) :
    (s.finish r).mem.wf = true := by
  cases r with
  | ok t => exact hr.of_ok rfl
  | error x => exact stop_wf h

/-! ### Operands -/

theorem boundedLoad_yields {s : State} (ctx : Ctx) (p : Page) (va need : Word) (stall : Bool) (h : s.mem.wf = true) :
    Yields (fun r : Sector × State => r.2.Canonical) (boundedLoad s ctx p va need stall) := by
  unfold boundedLoad
  split
  · exact .error _
  · dsimp only
    split <;> simp [h]

theorem loadWith_yields {s : State} (va : Word) (z : Nat) {fetch : Page → Except Stop (Sector × State)}
    (hf : ∀ p, Yields (fun r : Sector × State => r.2.Canonical) (fetch p)) :
    Yields (fun r : Nat × State => r.2.Canonical) (loadWith s va z fetch) :=
  .after fun _ => .after fun p => (hf p).bind fun _ hr => .after fun _ => .after fun _ => .ok hr

theorem loadBytes_yields {s : State} (va : Word) (z : Nat) (h : s.mem.wf = true) :
    Yields (fun r : Nat × State => r.2.Canonical) (loadBytes s va z) :=
  loadWith_yields va z fun _ => loadSector_yields _ _ _ _ h

theorem storeBytes_yields {s : State} (va : Word) (z v : Nat) (h : s.mem.wf = true) : Yields State.Canonical (storeBytes s va z v) :=
  .after fun _ => .after fun _ => storeSector_yields _ _ _ _ _ _ _ h

theorem memory_wf {s : State} {f : State → Except Stop State} (hf : Yields State.Canonical (f s)) (h : s.mem.wf = true) :
    (s.memory f).mem.wf = true := by
  refine guarded_wf ?_ h
  split
  · next t e => simpa using hf.of_ok e
  · exact stop_wf h

theorem onStrand_wf {s : State} {f : State → State} (hf : (f s).mem.wf = true) (h : s.mem.wf = true) : (s.onStrand f).mem.wf = true := by
  unfold State.onStrand
  split
  · exact stop_wf h
  · exact hf

/-! ### Save areas -/

@[simp] theorem writeAreaSector_wf {s : State} {ctx : Ctx} {va : Word} {x : Sector} (h : s.mem.wf = true) :
    (writeAreaSector s ctx va x).mem.wf = true := by
  unfold writeAreaSector
  split
  · exact h
  · split
    · next t e => exact (storeSector_yields _ _ _ _ _ _ _ h).of_ok e
    · exact h

@[simp] theorem writeArea_wf {s : State} {ctx : Ctx} {va : Word} {len bits : Nat} (h : s.mem.wf = true) :
    (writeArea s ctx va len bits).mem.wf = true :=
  foldl_wf (fun _ _ ht => writeAreaSector_wf ht) _ h

/-! ### Leases and lanes -/

@[simp] theorem retireLanes_mem (s : State) (g : Nat) : (retireLanes s g).mem = s.mem := by
  simp only [retireLanes]
  split <;> simp

@[simp] theorem applyGrant_mem (s : State) (g : Nat) : (applyGrant s g).mem = s.mem := by
  simp only [applyGrant]
  split <;> simp

@[simp] theorem ageWaiters_mem (s : State) (c : Nat) : (ageWaiters s c).mem = s.mem :=
  foldl_mem (fun t k => by dsimp only; split <;> simp) _ _

@[simp] theorem noteHolds_mem (s : State) (c : Nat) : (noteHolds s c).mem = s.mem :=
  foldl_mem (fun t k => by dsimp only; (repeat' split) <;> simp) _ _

@[simp] theorem assayGate_mem (s : State) (c : Nat) : (s.assayGate c).mem = s.mem := rfl

@[simp] theorem restored_mem (s : State) (g : Nat) : (s.restored g).mem = s.mem := by
  simp only [State.restored]
  (repeat' split) <;> simp

@[simp] theorem stripBoundary_mem (s : State) : (stripBoundary s).1.mem = s.mem := by
  simp only [stripBoundary]
  (repeat' split) <;> simp

@[simp] theorem releaseLease_mem (s : State) (discard : Bool) : (releaseLease s discard).mem = s.mem := by
  simp only [releaseLease]
  split <;> simp

@[simp] theorem waitForGrant_mem (s : State) : (waitForGrant s).mem = s.mem := rfl

/-! ### Issue and outcome -/

@[simp] theorem fetchedAt_wf {s : State} {va : Word} (h : s.mem.wf = true) : (s.fetchedAt va).mem.wf = true := by
  simp only [State.fetchedAt]
  (repeat' split) <;> simp [h]

@[simp] theorem fetched_wf {s : State} (h : s.mem.wf = true) : s.fetched.mem.wf = true := by
  unfold State.fetched
  split <;> simp [h]

@[simp] theorem fetchedBody_wf {s : State} {va : Word} {n : Nat} (h : s.mem.wf = true) : (s.fetchedBody va n).mem.wf = true :=
  foldl_wf (fun _ _ ht => fetchedAt_wf ht) _ h

/-! ### System instructions -/

@[simp] theorem modStrand_mem (s : State) (g : Nat) (f : Strand → Strand) : (s.modStrand g f).mem = s.mem := by
  simp [State.modStrand]

theorem afterDrain_wf {s : State} {f : State → State} (hf : (f s).mem.wf = true) (h : s.mem.wf = true) :
    (s.afterDrain f).mem.wf = true := by
  unfold State.afterDrain
  split
  · exact hf
  · exact stop_wf h

theorem privileged_wf {s : State} {i : Instr} {f : State → State} (hf : (f s).mem.wf = true) (h : s.mem.wf = true) :
    (s.privileged i f).mem.wf = true := by
  refine onStrand_wf ?_ h
  split
  · exact hf
  · exact stop_wf h

@[simp] theorem onWait_mem (s : State) (g : Nat) (ready : Strand → Bool) (f : Strand → Strand) : (s.onWait g ready f).mem = s.mem := by
  simp only [State.onWait]
  split <;> simp

@[simp] theorem arm_mem (s : State) (p : Page) : (s.arm p).mem = s.mem := rfl

@[simp] theorem enterMode_wf {s : State} {exposed : Bool} (h : s.mem.wf = true) : (s.enterMode exposed).mem.wf = true :=
  onStrand_wf (afterDrain_wf (by simp [h]) h) h

@[simp] theorem orders_mem (s : State) (sv vs walks : Bool) : (s.orders sv vs walks).mem = s.mem := by
  simp only [State.orders]
  (repeat' split) <;> simp

@[simp] theorem dropDirectory_wf {s : State} {p : Nat → Bool} (h : s.mem.wf = true) : (dropDirectory s p).mem.wf = true := by
  simp only [dropDirectory]
  refine foldl_wf (fun t q ht => ?_) _ (foldl_wf (fun t q ht => ?_) _ h)
  · split <;> simp [ht]
  · split <;> simp [ht]

@[simp] theorem dropTranslations_mem (s : State) (kind asid : Nat) (va : Word) : (s.dropTranslations kind asid va).mem = s.mem := rfl

/-! ### Scalar memory instructions -/

@[simp] theorem load_wf {s : State} {d base : SReg} {off : BitVec 10} {z : Nat} {signed : Bool} (h : s.mem.wf = true) :
    (s.load d base off z signed).mem.wf = true :=
  memory_wf ((loadBytes_yields _ _ h).bind fun _ hr => by simpa [putS_mem] using hr) h

@[simp] theorem store_wf {s : State} {d base : SReg} {off : BitVec 10} {z : Nat} (h : s.mem.wf = true) :
    (s.store d base off z).mem.wf = true :=
  memory_wf (storeBytes_yields _ _ _ h) h

theorem lde_yields {s : State} (d base : SReg) (off : BitVec 10) (side : Side) (h : s.mem.wf = true) :
    Yields State.Canonical (lde s d base off side) :=
  .after fun _ => .after fun _ => (loadSector_yields _ _ _ _ h).bind fun _ hr => .after fun _ => .after fun _ => .after fun _ => by
    simpa [putS_mem] using hr

theorem ste_yields {s : State} (d base : SReg) (off : BitVec 10) (side : Side) (h : s.mem.wf = true) :
    Yields State.Canonical (ste s d base off side) :=
  .after fun _ => .after fun _ => .after fun _ => (storeSector_yields _ _ _ _ _ _ _ h).bind fun t ht => .after fun _ => by
    split
    · exact .error _
    · exact .ok ht

@[simp] theorem acquire_mem (s : State) (va : Word) : (s.acquire va).mem = s.mem := by
  unfold State.acquire
  split <;> simp

@[simp] theorem release_mem (s : State) (va : Word) : (s.release va).mem = s.mem := by
  unfold State.release
  split <;> simp

theorem amoAt_yields {s : State} (va : Word) (op : AmoOp) (b c : Word) (scope : Scope) (h : s.mem.wf = true) :
    Yields (fun r : Word × State => r.2.Canonical) (amoAt s va op b c scope) := by
  refine .after fun _ => .after fun p => ?_
  dsimp only
  split
  · exact .after fun m => by simpa using h
  · exact .after fun x => (storeSector_yields _ _ _ _ _ _ _ h).bind fun t ht => .after fun _ => .after fun _ => by simpa using ht

@[simp] theorem amo_wf {s : State} {op : AmoOp} {d a b : SReg} {scope : Scope} (h : s.mem.wf = true) :
    (s.amo op d a b scope).mem.wf = true :=
  memory_wf ((amoAt_yields _ _ _ _ _ h).bind fun _ hr => by simpa [putS_mem] using hr) h

@[simp] theorem loadBound_wf {s : State} {d base : SReg} {k : BitVec 4} {t : SReg} {stall : Bool} (h : s.mem.wf = true) :
    (s.loadBound d base k t stall).mem.wf = true :=
  onStrand_wf (memory_wf ((loadWith_yields _ _ fun _ => boundedLoad_yields _ _ _ _ _ h).bind fun _ hr => by
    simpa [putS_mem] using hr) h) h

/-! ### The vector gate -/

theorem vecGate_wf {s : State} {i : Instr} {pre : Bool} {f : State → State} (hf : (f s).mem.wf = true) (h : s.mem.wf = true) :
    (s.vecGate i pre f).mem.wf = true := by
  refine onStrand_wf ?_ h
  (repeat' split) <;> simp [hf, h]

@[simp] theorem occupy_mem (s : State) (c : Cls) (base extra b : Nat) : (s.occupy c base extra b).1.mem = s.mem := by
  unfold State.occupy
  split <;> rfl

@[simp] theorem vecEnd_wf {s : State} {stop : Option Nat} (h : s.mem.wf = true) : (s.vecEnd stop).mem.wf = true := by
  unfold State.vecEnd
  split <;> simp [h]

@[simp] theorem putUpTo_mem (s : State) (stop : Option Nat) (latency : Nat) (d : VIdx) (r : VReg) (fl : Sticky) :
    (s.putUpTo stop latency d r fl).mem = s.mem := by
  cases stop <;> simp [State.putUpTo, putV_mem]

@[simp] theorem vecSkip_wf {s : State} {c : Cls} {base extra b : Nat} (h : s.mem.wf = true) : (s.vecSkip c base extra b).mem.wf = true := by
  simp [State.vecSkip, h]

@[simp] theorem runVec_wf {s : State} {i : Instr} {d : VIdx} {c : Cls} {base : Nat} {fixed wide : Bool} {prep : State → Except Stop VecOp}
    (h : s.mem.wf = true) : (s.runVec i d c base fixed wide prep).mem.wf = true := by
  refine vecGate_wf ?_ h
  dsimp only
  (repeat' split) <;> simp [h]

/-! ### Vector arithmetic -/

@[simp] theorem compare_wf {s : State} {i : Instr} {d : PReg} {a b : VIdx} {ordered : Bool} {rel : Val → Val → Bool} (h : s.mem.wf = true) :
    (s.compare i d a b ordered rel).mem.wf = true := by
  refine vecGate_wf ?_ h
  dsimp only
  (repeat' split) <;> simp [h, putP_mem]

@[simp] theorem tagDone_wf {s : State} (h : s.mem.wf = true) : s.tagDone.mem.wf = true := by
  simp [State.tagDone, h]

@[simp] theorem copyAll_wf {s : State} {d : VIdx} {r : VReg} {base : Nat} {fixed : Bool} (h : s.mem.wf = true) :
    (s.copyAll d r base fixed).mem.wf = true := by
  simp [State.copyAll, h, putV_mem]

@[simp] theorem broadcastBits_wf {s : State} {d : VIdx} {o : VecOp} {u : Byte} (h : s.mem.wf = true) :
    (s.broadcastBits d o u).mem.wf = true := by
  simp only [State.broadcastBits]
  (repeat' split) <;> simp [h, putV_mem]

/-! ### Vector moves -/

@[simp] theorem runMove_wf {s : State} {i : Instr} {d : VIdx} {wide : Bool} {prep : State → Except Stop VecOp} (h : s.mem.wf = true) :
    (s.runMove i d wide prep).mem.wf = true := by
  refine vecGate_wf ?_ h
  dsimp only
  (repeat' split) <;> simp [h]

@[simp] theorem choosing_wf {s : State} {i : Instr} {d a : VIdx} {b : PReg} {sources : List Nat → List Nat}
    {el : List Nat → Nat → Option Nat} (h : s.mem.wf = true) : (s.choosing i d a b sources el).mem.wf = true := by
  refine vecGate_wf ?_ h
  dsimp only
  (repeat' split) <;> simp [h, putV_mem]

/-! ### Vector memory instructions -/

@[simp] theorem memEnd_wf {s : State} {why : Option (Nat × Stop)} (h : s.mem.wf = true) : (s.memEnd why).mem.wf = true := by
  unfold State.memEnd
  split <;> simp [h]

theorem runElts_wf {s : State} {formats : List VIdx} {els : List Elt} {why : Option (Nat × Stop)}
    {perform : State → List Elt → Nat → Except Stop State} (hp : ∀ k, Yields State.Canonical (perform s els k)) (h : s.mem.wf = true) :
    (s.runElts formats els why perform).mem.wf = true := by
  unfold State.runElts
  dsimp only
  split
  · split
    · exact stop_wf h
    · split
      · exact stop_wf h
      · split
        · exact stop_wf h
        · next e => exact memEnd_wf ((hp _).of_ok e)
  · split
    · exact stop_wf h
    · split
      · exact stop_wf h
      · next e => exact memEnd_wf ((hp _).of_ok e)

@[simp] theorem skip_wf {s : State} {a : VecAccess} (h : s.mem.wf = true) : (a.skip s).mem.wf = true := by
  unfold VecAccess.skip
  split <;> simp [h]

theorem runMem_wf {s : State} {i : Instr} {pre : Bool} {formats : List VIdx} {a : VecAccess}
    {perform : State → List Elt → Nat → Except Stop State} (hp : ∀ els k, Yields State.Canonical (perform s els k)) (h : s.mem.wf = true) :
    (s.runMem i pre formats a perform).mem.wf = true := by
  refine vecGate_wf ?_ h
  dsimp only
  (repeat' split) <;> simp [h, runElts_wf, hp]

@[simp] theorem fillLines_wf {s : State} {ctx : Ctx} {write : Bool} {els : List Elt} (h : s.mem.wf = true) :
    (fillLines s ctx write els).mem.wf = true :=
  foldl_wf (fun _ _ ht => fillLine_wf ht) _ h

/-- What a fetch notes of a read leaves memory. -/
def Fetch.KeepsMem (fetch : Fetch) : Prop := ∀ t s e, (fetch.note t s e).mem = t.mem

theorem plainFetch_keepsMem (ctx : Ctx) : (plainFetch ctx).KeepsMem := fun t s e => by simp [plainFetch]

theorem boundedFetch_keepsMem (ctx : Ctx) (need : Word) (stall : Bool) : (boundedFetch ctx need stall).KeepsMem :=
  fun t s e => by simp [boundedFetch]

theorem readSectors_yields {fetch : Fetch} (hf : fetch.KeepsMem) (ctx : Ctx) {s : State} (els : List Elt) (h : s.mem.wf = true) :
    Yields (fun r : List (Nat × Sector) × State => r.2.Canonical) (readSectors fetch ctx s els) := by
  unfold readSectors
  split
  · exact .error _
  · simp [foldl_mem, hf _ _ _, h]

theorem performLoad_yields {d : VIdx} {a : VecAccess} {base : Nat} {alone : Bool} {fetch : Fetch} (hf : fetch.KeepsMem) {s : State}
    (els : List Elt) (k : Nat) (h : s.mem.wf = true) : Yields State.Canonical (performLoad d a base alone fetch s els k) := by
  refine (readSectors_yields hf _ _ h).bind fun g hg => ?_
  have hg : g.2.mem.wf = true := hg
  dsimp only
  split <;> [skip; split] <;> refine .after fun t => ?_
  all_goals cases alone <;> split <;> simp [hg, putV_mem]

theorem withTickets_yields {perform : State → List Elt → Nat → Except Stop State} {s : State} {els : List Elt} {k : Nat}
    (hp : Yields State.Canonical (perform s els k)) : Yields State.Canonical (withTickets perform s els k) := by
  unfold withTickets
  split
  · exact .error _
  · split
    · exact .error _
    · generalize perform s els k = r at hp
      cases r with
      | ok t => exact .ok (show t.mem.wf = true from hp.of_ok rfl)
      | error x => exact .error _

@[simp] theorem vloadBound_wf {s : State} {i : Instr} {d : VIdx} {base : SReg} {k : BitVec 4} {t : SReg} {stall : Bool}
    (h : s.mem.wf = true) : (s.vloadBound i d base k t stall).mem.wf = true :=
  runMem_wf (fun _ _ => performLoad_yields (boundedFetch_keepsMem _ _ _) _ _ h) h

theorem performSector_yields (ctx : Ctx) (r : VReg) (els : List Elt) {s : State} (fl : Sticky) (e : Elt) (h : s.mem.wf = true) :
    Yields (fun r : State × Sticky => r.1.Canonical) (performSector ctx r els s fl e) :=
  .after fun _ => .after fun _ => (storeSector_yields _ _ _ _ _ _ _ h).bind fun _ ht => .ok ht

theorem performSectors_yields (ctx : Ctx) (r : VReg) (els : List Elt) {s : State} (fl : Sticky) (l : List Elt) (h : s.mem.wf = true) :
    Yields (fun r : State × Sticky => r.1.Canonical) (performSectors ctx r els s fl l) := by
  induction l generalizing s fl with
  | nil => exact .ok h
  | cons e l ih =>
    unfold performSectors
    split
    · exact .error _
    · next t et => exact ih _ ((performSector_yields _ _ _ _ _ h).of_ok et)

theorem performStore_yields {d : VIdx} {a : VecAccess} {alone : Bool} {s : State} (els : List Elt) (k : Nat) (h : s.mem.wf = true) :
    Yields State.Canonical (performStore d a alone s els k) := by
  refine .after fun _ => (performSectors_yields _ _ _ _ _ (fillLines_wf h)).bind fun t ht => ?_
  have ht : t.1.mem.wf = true := ht
  cases alone <;> simp [ht]

theorem rmwElement_yields (ctx : Ctx) {s : State} (e : Elt) (op : StoreOp) (h : s.mem.wf = true) :
    Yields (fun r : Word × State × Sticky => r.2.1.Canonical) (rmwElement ctx s e op) :=
  .after fun _ => (storeSector_yields _ _ _ _ _ _ _ h).bind fun t ht => by
    have ht : t.mem.wf = true := ht
    simpa using ht

theorem rmwAll_yields {f : State → Elt → Except Stop (Word × State × Sticky)}
    (hf : ∀ s e, s.mem.wf = true → Yields (fun r : Word × State × Sticky => r.2.1.Canonical) (f s e)) {s : State} (fl : Sticky)
    (l : List Elt) (h : s.mem.wf = true) : Yields (fun r : List (Nat × Word) × State × Sticky => r.2.1.Canonical) (rmwAll f s fl l) := by
  induction l generalizing s fl with
  | nil => exact .ok h
  | cons e l ih =>
    unfold rmwAll
    split
    · exact .error _
    · next r er =>
      split
      · exact .error _
      · next t et => exact .ok (show t.2.1.mem.wf = true from (ih _ ((hf _ _ h).of_ok er)).of_ok et)

@[simp] theorem rmwFills_wf {s : State} {a : VecAccess} {els : List Elt} (h : s.mem.wf = true) : (rmwFills s a els).mem.wf = true := by
  unfold rmwFills
  split <;> simp [h]

@[simp] theorem sumBlock_mem (s : State) (v : Val) (i : Nat) : (sumBlock s v i).2.mem = s.mem := by
  cases v <;> rfl

theorem scatterGroup_yields (ctx : Ctx) (d : VIdx) (scope : Scope) (els : List Elt) (s : State) (e : Elt) (h : s.mem.wf = true) :
    Yields (fun r : Word × State × Sticky => r.2.1.Canonical) (scatterGroup ctx d scope els s e) := by
  simp only [scatterGroup]
  split
  · split <;> simp [h]
  · exact rmwElement_yields _ _ _ h

theorem performScatter_yields {a : VecAccess} {d : VIdx} {scope : Scope} {s : State} (els : List Elt) (k : Nat) (h : s.mem.wf = true) :
    Yields State.Canonical (performScatter a d scope s els k) :=
  .after fun _ => (rmwAll_yields (scatterGroup_yields _ _ _ _) _ _ (rmwFills_wf h)).bind fun r hr => by
    have hr : r.2.1.mem.wf = true := hr
    simpa using hr

theorem vamoElement_yields (ctx : Ctx) (op : VamoOp) (d : VIdx) (scope : Scope) (s : State) (e : Elt) (h : s.mem.wf = true) :
    Yields (fun r : Word × State × Sticky => r.2.1.Canonical) (vamoElement ctx op d scope s e) := by
  simp only [vamoElement]
  split
  · split <;> simp [h]
  · exact rmwElement_yields _ _ _ h

theorem performVamo_yields {a : VecAccess} {op : VamoOp} {d : VIdx} {scope : Scope} {s : State} (els : List Elt) (k : Nat)
    (h : s.mem.wf = true) : Yields State.Canonical (performVamo a op d scope s els k) :=
  .after fun _ => (rmwAll_yields (vamoElement_yields _ _ _ _) _ _ (rmwFills_wf h)).bind fun t ht => by
    have ht : t.2.1.mem.wf = true := ht
    dsimp only
    split <;> simp [ht, putV_mem]

@[simp] theorem vamo_wf {s : State} {i : Instr} {pre : Bool} {op : VamoOp} {data : List VIdx} {d : VIdx} {a : SReg} {b : VIdx}
    {scope : Scope} (h : s.mem.wf = true) : (s.vamo i pre op data d a b scope).mem.wf = true :=
  runMem_wf (fun _ _ => performVamo_yields _ _ h) h

/-! ### Strip memory -/

@[simp] theorem stripWrite_mem (s : State) (off : Nat) (x : Sector) : (s.stripWrite off x).mem = s.mem := by
  unfold State.stripWrite
  split <;> rfl

@[simp] theorem stripReach_mem (s : State) (offs : List Nat) : (s.stripReach offs).mem = s.mem := by
  simp [State.stripReach]

theorem performStripLoad_yields {d : VIdx} {s : State} (els : List Elt) (k : Nat) (h : s.mem.wf = true) :
    Yields State.Canonical (performStripLoad d s els k) := by
  simp only [performStripLoad]
  (repeat' split) <;> simp [h, putV_mem]

theorem performStripStore_yields {d : VIdx} {s : State} (els : List Elt) (k : Nat) (h : s.mem.wf = true) :
    Yields State.Canonical (performStripStore d s els k) := by
  refine .after fun _ => .after fun _ => .after fun _ => ?_
  simp only [yields_ok, canonical_iff, put_mem, occupy_mem]
  refine List.foldlRecOn (motive := fun a : State × Sticky => a.1.mem.wf = true) _ _ h fun a ha e _ => ?_
  split
  · exact ha
  · simpa using ha

theorem stripAccess_wf {s : State} {i : Instr} {x : HReg} {d : VIdx} {stores advance : Bool}
    {perform : State → List Elt → Nat → Except Stop State} (hp : ∀ els k, Yields State.Canonical (perform s els k)) (h : s.mem.wf = true) :
    (s.stripAccess i x d stores advance perform).mem.wf = true := by
  refine vecGate_wf ?_ h
  dsimp only
  split
  · simp [h]
  · split
    · (repeat' split) <;> simp [h]
    · generalize walkElts (stripElt s x (if stores then some d else none)) (s, []) s.actives = r
      refine runElts_wf (fun k => ?_) h
      split
      · exact .error _
      · next t e =>
        have ht : t.mem.wf = true := (hp _ _).of_ok e
        rw [yields_ok]
        split <;> exact ht

/-! ### Copy requests -/

theorem makeCopy_yields {s : State} (d : SReg) (ends : BitVec 2) (rows : List CopyRow) (moves : List CopyMove) (h : s.mem.wf = true) :
    Yields State.Canonical (makeCopy s d ends rows moves) := by
  refine .after fun _ => .after fun _ => ?_
  dsimp only
  split <;> simp [h, putS_mem]

@[simp] theorem copyRequest_wf {s : State} {d : SReg} {ends : BitVec 2} {ok : Bool} {bases : List (Bool × Word)} {rows : List CopyRow}
    (h : s.mem.wf = true) : (s.copyRequest d ends ok bases rows).mem.wf = true := by
  refine onStrand_wf (guarded_wf ?_ h) h
  dsimp only
  split
  · next t e => simpa using (Yields.after fun moves => makeCopy_yields d ends rows moves h).of_ok e
  · exact stop_wf h

/-! ### The matrix engine -/

@[simp] theorem engine_mem (s : State) (c : Cls) (base work : Nat) (u : EngineUse) : (s.engine c base work u).1.mem = s.mem := by
  unfold State.engine
  split <;> rfl

theorem engineGate_wf {s : State} {i : Instr} {lease : Bool} {f : State → Except Stop State} (hf : Yields State.Canonical (f s))
    (h : s.mem.wf = true) : (s.engineGate i lease f).mem.wf = true := by
  refine onStrand_wf ?_ h
  split
  · exact stop_wf h
  · split
    · exact stop_wf h
    · split
      · next t e => simpa using hf.of_ok e
      · exact stop_wf h

@[simp] theorem matrix_wf {s : State} {i : Instr} {d : AReg} {a : VIdx} {b : BSource} {z ternary : Bool} (h : s.mem.wf = true) :
    (s.matrix i d a b z ternary).mem.wf = true := by
  refine engineGate_wf (.after fun _ => .after fun _ => .after fun _ => .after fun _ => .after fun _ => ?_) h
  dsimp only
  split <;> exact .after fun _ => .after fun _ => by simp [h]

theorem engineSectors_yields {s : State} (els : List Elt) (h : s.mem.wf = true) :
    Yields (fun r : List (Elt × Sector) × State => r.2.Canonical) (engineSectors s els) :=
  (readSectors_yields (plainFetch_keepsMem _) _ _ h).bind fun _ hg => .ok hg

@[simp] theorem weightLoad_wf {s : State} {i : Instr} {w : WSlot} {a b : SReg} {cb : Option CBook} (h : s.mem.wf = true) :
    (s.weightLoad i w a b cb).mem.wf = true := by
  refine engineGate_wf (.after fun _ => .after fun e => (engineSectors_yields _ h).bind fun r hr => .after fun _ => ?_) h
  have hr : r.2.mem.wf = true := hr
  dsimp only
  split <;> exact .after fun _ => by simp [hr]

/-! ### Queues -/

@[simp] theorem clearBinding_mem (s : State) (d : Nat) (hd : d < 8) : (s.clearBinding d hd).mem = s.mem := by
  unfold State.clearBinding
  split <;> simp

@[simp] theorem fromQueue_mem (t s : State) : (State.fromQueue t s).mem = t.mem := rfl

@[simp] theorem tellsQueue_mem (s : State) (q : Nat) (vec : Bool) : (s.tellsQueue q vec).mem = s.mem := by
  simp [State.tellsQueue]

@[simp] theorem learnsQueue_mem (s : State) (q : Nat) (vec : Bool) : (s.learnsQueue q vec).mem = s.mem := by
  simp [State.learnsQueue]

@[simp] theorem enqueue_mem (s : State) (q : Nat) (e : QEntry) (vec : Bool) : (s.enqueue q e vec).mem = s.mem := by
  simp [State.enqueue]

@[simp] theorem pushSlots_mem (d : QReg) (r : VReg) (w fuel : Nat) (l : List Nat) (s : State) :
    (pushSlots d r w fuel l s).1.mem = s.mem := by
  induction fuel generalizing l s with
  | zero => rfl
  | succ fuel ih =>
    cases l with
    | nil => rfl
    | cons i l =>
      simp only [pushSlots]
      (repeat' split) <;> simp [ih]

@[simp] theorem pushScalar_wf {s : State} {d : QReg} {branch : Bool} {v : Word} (h : s.mem.wf = true) :
    (s.pushScalar d branch v).mem.wf = true := by
  refine onStrand_wf (guarded_wf ?_ h) h
  (repeat' split) <;> simp [h]

@[simp] theorem popVector_wf {d : VIdx} {a : QReg} {q : Nat} {x : Queue} {s : State} (h : s.mem.wf = true) :
    (popVector d a q x s).mem.wf = true := by
  simp only [popVector]
  (repeat' split) <;> simp [h, putV_mem]

@[simp] theorem skipPop_wf {s : State} {d : VIdx} (h : s.mem.wf = true) : (s.skipPop d).mem.wf = true := by
  simp [State.skipPop, h]

@[simp] theorem popScalar_wf {s : State} {d : SReg} {a : QReg} {removes : Bool} (h : s.mem.wf = true) :
    (s.popScalar d a removes).mem.wf = true := by
  refine onStrand_wf (guarded_wf ?_ h) h
  dsimp only
  (repeat' split) <;> simp [h, putS_mem]

/-! ### Fences, rounds and waits -/

@[simp] theorem fence_wf {s : State} {scope : Scope} {sc ve sv vs : Bool} (h : s.mem.wf = true) :
    (s.fence scope sc ve sv vs).mem.wf = true := by
  simp only [State.fence]
  split <;> simp [h]

theorem unmetCounters_yields {s : State} (base : Word) (l : List Nat) (h : s.mem.wf = true) :
    Yields (fun r : List Nat × List Nat × State => r.2.2.Canonical) (unmetCounters s base l) := by
  induction l generalizing s with
  | nil => exact .ok h
  | cons i l ih =>
    unfold unmetCounters
    refine (loadBytes_yields _ _ h).bind fun r hr => .after fun p => (ih hr).bind fun t ht => ?_
    have ht : t.2.2.mem.wf = true := ht
    split <;> simp [ht]

@[simp] theorem multicast_mem (s : State) (rg : Nat) (n : Word) : (s.multicast rg n).mem = s.mem := rfl

@[simp] theorem settleRegion_mem (s : State) (rg : Nat) : (s.settleRegion rg).mem = s.mem := by
  simp only [State.settleRegion]
  split <;> simp

@[simp] theorem writeRegion_mem (s : State) (rg : Nat) (w : RegionWrite) : (s.writeRegion rg w).mem = s.mem := by
  simp [State.writeRegion]

/-! ### Rivals -/

theorem worldOp_wf {s : State} {word : Word} {check : State → Except Stop Unit} {run : State → State} (hr : (run s).mem.wf = true)
    (h : s.mem.wf = true) : (s.worldOp word check run).mem.wf = true := by
  refine onStrand_wf ?_ h
  (repeat' split) <;> simp [h, afterDrain_wf hr]

@[simp] theorem takeGranules_mem (s : State) (c n : Nat) : (s.takeGranules c n).1.mem = s.mem := rfl

@[simp] theorem copyGranules_mem (s : State) (c : Nat) (src dst : List Nat) : (copyGranules s c src dst).mem = s.mem :=
  foldl_mem (fun t _ => foldl_mem (fun _ _ => setCore_mem _ _ _) _ t) _ s

@[simp] theorem makeRival_mem (x : Strand) (core : Nat) (d : SReg) (k seq : Nat) (stripCopy : Bool) (s : State) (p : Nat × Nat) :
    (makeRival x core d k seq stripCopy s p).mem = s.mem := by
  simp only [makeRival]
  cases stripCopy <;> simp [foldl_mem]

@[simp] theorem openFork_mem (d : SReg) (k : Nat) (stripCopy : Bool) (s : State) : (openFork d k stripCopy s).mem = s.mem := by
  simp [openFork, putS_mem, foldl_mem]

@[simp] theorem closeFork_mem (s : State) (seq : Nat) (rivals : List Rival) : (closeFork s seq rivals).mem = s.mem := rfl

@[simp] theorem discardRivals_mem (s : State) (seq : Nat) : (discardRivals s seq).mem = s.mem :=
  foldl_mem (fun t r => by (repeat' split) <;> simp) _ s

@[simp] theorem abandonRivals_mem (s : State) (seq : Nat) : (abandonRivals s seq).mem = s.mem := by
  simp [abandonRivals]

@[simp] theorem performDeferred_wf {s : State} {e : Deferred} (h : s.mem.wf = true) : (performDeferred s e).mem.wf = true := by
  simp only [performDeferred]
  (repeat' split) <;> simp [h]

@[simp] theorem relabelLines_mem (s : State) (id parent : Nat) : (relabelLines s id parent).mem = s.mem := by
  simp [relabelLines, foldl_mem]

@[simp] theorem relabelSlots_mem (s : State) (id parent : Nat) : (relabelSlots s id parent).mem = s.mem := by
  simp [relabelSlots]

@[simp] theorem commitInto_mem (s : State) (parent id : Nat) (v : View) : (commitInto s parent id v).mem = s.mem := by
  simp only [commitInto]
  split <;> simp [foldl_mem]

@[simp] theorem commitSector_wf {s : State} {sec : Nat} {x : Sector} (h : s.mem.wf = true) : (commitSector s sec x).mem.wf = true := by
  unfold commitSector
  split <;> simp [h, writeBase_wf]

@[simp] theorem commitBase_wf {s : State} {id : Nat} {v : View} (h : s.mem.wf = true) : (commitBase s id v).mem.wf = true :=
  foldl_wf (fun _ _ ht => performDeferred_wf ht) _ (foldl_wf (fun t c ht => by simp [ht]) _ (by simp [h]))

@[simp] theorem learnRival_mem (s : State) (id : Nat) : (learnRival s id).mem = s.mem := by
  simp [learnRival]

@[simp] theorem commitFork_wf {d : SReg} {seq : Nat} {sel : Option Nat} {s : State} (h : s.mem.wf = true) :
    (commitFork d seq sel s).mem.wf = true := by
  unfold commitFork
  extract_lets l parent chosen room full held crowded merged after returned closed
  have hm : merged.mem.wf = true := by
    clear_value chosen
    simp only [merged]
    (repeat' split) <;> simp [h]
  have hr : returned.mem = merged.mem := foldl_mem (fun u r => by (repeat' split) <;> simp) _ _
  clear_value full held crowded
  split
  · exact stop_wf h
  · split
    · exact stop_wf h
    · exact stop_wf h
    · simp [closed, hr, hm, putS_mem]

@[simp] theorem chooseBy_wf {d : SReg} {pick : List Rival → Option Nat} {s : State} (h : s.mem.wf = true) :
    (chooseBy d pick s).mem.wf = true := by
  simp only [chooseBy]
  (repeat' split) <;> simp [h]

@[simp] theorem runImage_mem (s : State) (g : Nat) (x : Strand) : (runImage s g x).mem = s.mem := by
  simp [runImage]

/-! ### Images -/

@[simp] theorem writeImage_wf {s : State} {die core : Nat} {x : Strand} {save : Word} {st : ImageState} {mig stg records : Bool}
    (h : s.mem.wf = true) : (writeImage s die core x save st mig stg records).mem.wf = true := by
  refine writeArea_wf ?_
  split
  · exact foldl_wf (fun _ _ ht => writeArea_wf ht) _ h
  · exact h

/-! ### Tasks -/

theorem readBlock_yields {s : State} (a : Word) (h : s.mem.wf = true) : Yields (fun r : Nat × State => r.2.Canonical) (readBlock s a) :=
  .after fun _ => (loadSector_yields _ _ _ _ h).bind fun x hx => by
    split
    · exact .error _
    · exact .ok hx

theorem writeBlock_yields {s : State} (a : Word) (off n v : Nat) (h : s.mem.wf = true) : Yields State.Canonical (writeBlock s a off n v) :=
  .after fun _ => storeSector_yields _ _ _ _ _ _ _ h

theorem joinFrame_yields {s : State} (f : Frame) (h : s.mem.wf = true) : Yields State.Canonical (joinFrame s f) := by
  unfold joinFrame
  split
  · exact .ok h
  · exact .after fun _ => (amoAt_yields _ _ _ _ _ h).bind fun r hr => by simpa using hr

theorem appendIfRoom_yields {s : State} (q f : Word) (n : Nat) (h : s.mem.wf = true) :
    Yields (fun o : Option State => ∀ t ∈ o, t.mem.wf = true) (appendIfRoom s q f n) := by
  unfold appendIfRoom
  refine Yields.bind (loadBytes_yields _ _ h) fun t ht => ?_
  refine Yields.bind (loadBytes_yields _ _ ht) fun hd hhd => ?_
  refine .after fun _ => ?_
  split
  · simp
  · exact (amoAt_yields _ _ _ _ _ hhd).bind fun r hr => (storeBytes_yields _ _ _ hr).bind fun u hu => by simpa using hu

@[simp] theorem deviceStore_wf {s : State} {ctx : Ctx} {a v : Word} (h : s.mem.wf = true) : (deviceStore s ctx a v).mem.wf = true := by
  unfold deviceStore
  split
  · exact h
  · split
    · next t e => exact (storeSector_yields _ _ _ _ _ _ _ h).of_ok e
    · exact h

@[simp] theorem storePhys_wf {s : State} {die : Option Nat} {pa n v : Nat} (h : s.mem.wf = true) : (s.storePhys die pa n v).mem.wf = true :=
  writeBase_wf _ _ _ _ h

theorem deviceAppend_wf {s : State} (die pa : Nat) (f : Word) (h : s.mem.wf = true) : ∀ t ∈ deviceAppend s die pa f, t.mem.wf = true := by
  simp only [deviceAppend]
  split <;> simp [h]

theorem requeue_wf {s : State} (die : Nat) (t : TaskInfo) (asid : BitVec 12) (h : s.mem.wf = true) :
    ∀ u ∈ requeue s die t asid, u.mem.wf = true := by
  unfold requeue
  extract_lets lq q d waiting put named
  have hnamed (u : State) (hu : u.mem.wf = true) : (named u).mem.wf = true := by
    simp only [named]
    split <;> simp [hu]
  have hput : ∀ u ∈ put, u.mem.wf = true := by
    simp only [put]
    (repeat' split) <;> simp
    exact deviceAppend_wf _ _ _ h
  clear_value put named
  split
  · simp [hnamed _ (hput _ rfl)]
  · split <;> simp [hnamed, h]

@[simp] theorem inlineCall_wf {d : SReg} {fa : Word} {f : Frame} {s : State} (h : s.mem.wf = true) :
    (inlineCall d fa f s).mem.wf = true := by
  unfold inlineCall
  dsimp only
  split
  · exact stop_wf h
  · next t e => exact show t.mem.wf = true from (Yields.after fun _ => writeBlock_yields _ _ _ _ h).of_ok e

@[simp] theorem spawnFrame_wf {s : State} {d a b : SReg} {tryOnly : Bool} (h : s.mem.wf = true) :
    (s.spawnFrame d a b tryOnly).mem.wf = true := by
  refine onStrand_wf ?_ h
  dsimp only
  split
  · exact stop_wf h
  · next f hb t e =>
    suffices ht : t.mem.wf = true by simp [ht, putS_mem]
    refine Yields.of_ok (p := fun r : Frame × Nat × Option State => ∀ t ∈ r.2.2, t.mem.wf = true) ?_ e t rfl
    refine .after fun _ => .after fun _ => .after fun _ => .after fun _ => .after fun _ => .after fun _ => ?_
    refine (loadSector_yields _ _ _ _ h).bind fun x hx => (loadSector_yields _ _ _ _ hx).bind fun n hn => ?_
    refine .after fun _ => .after fun _ => .after fun _ => .after fun _ => (appendIfRoom_yields _ _ _ hn).bind fun o ho => ?_
    split
    · simp
    · exact (writeBlock_yields _ _ _ _ (ho _ rfl)).bind fun u hu => by simpa using hu
  · (repeat' split) <;> simp [h, putS_mem, afterDrain_wf]

@[simp] theorem freeSlot_mem (s : State) (t : Option TaskInfo) (asid : BitVec 12) : (s.freeSlot t asid).mem = s.mem := by
  unfold State.freeSlot
  (repeat' split) <;> rfl

@[simp] theorem inlineReturn_wf {s : State} (h : s.mem.wf = true) : (inlineReturn s).mem.wf = true := by
  unfold inlineReturn
  dsimp only
  split
  · exact stop_wf h
  · next b t e =>
    refine show t.mem.wf = true from Yields.of_ok (p := fun r : Nat × State => r.2.Canonical) ?_ e
    exact .after fun _ => (readBlock_yields _ h).bind fun r hr => .after fun _ => (readBlock_yields _ hr).bind fun f hf =>
      .after fun _ => .after fun _ => (joinFrame_yields _ hf).bind fun _ ht => .ok ht

@[simp] theorem endTask_wf {s : State} (h : s.mem.wf = true) : (endTask s).mem.wf = true := by
  simp only [endTask]
  split
  · exact stop_wf h
  · next t e =>
    suffices ht : t.mem.wf = true by simpa using ht
    split at e
    · cases e; exact h
    · exact ((readBlock_yields _ h).bind fun f hf => .after fun _ => joinFrame_yields _ hf).of_ok e

theorem afterCopies_wf {f : State → State} {s : State} (hf : (f s).mem.wf = true) (h : s.mem.wf = true) :
    (s.afterCopies f).mem.wf = true := by
  unfold State.afterCopies
  split
  · exact hf
  · exact stop_wf h

@[simp] theorem releaseOp_wf {s : State} {discard : Bool} (h : s.mem.wf = true) : (s.releaseOp discard).mem.wf = true := by
  refine onStrand_wf ?_ h
  split <;> simp [h]

@[simp] theorem setBarrier_mem (s : State) (c b : Nat) (x : Barrier) : (s.setBarrier c b x).mem = s.mem := rfl

@[simp] theorem completeBarrier_mem (s : State) (c b gen : Nat) : (completeBarrier s c b gen).mem = s.mem := by
  simp only [completeBarrier]
  split <;> simp [foldl_mem]

@[simp] theorem arrive_wf {b count : Nat} {s : State} (h : s.mem.wf = true) : (arrive b count s).mem.wf = true := by
  simp only [arrive]
  (repeat' split) <;> simp [h]

@[simp] theorem withdraw_mem (s : State) (g : Nat) : (withdraw s g).mem = s.mem := by
  simp only [withdraw]
  (repeat' split) <;> simp

@[simp] theorem atBoundary_mem (s : State) (g : Nat) : (atBoundary s g).mem = s.mem := by
  unfold atBoundary
  split <;> simp

@[simp] theorem takeEvent_wf {s : State} {g : Nat} {code : BitVec 8} {data : Word} (h : s.mem.wf = true) :
    (takeEvent s g code data).mem.wf = true :=
  as_wf (fun _ ht => enterTrap_wf ht) _ (by simp [h])

/-! ### The journal -/

@[simp] theorem jrnPut_wf {s : State} {v : Nat} (h : s.mem.wf = true) : (s.jrnPut v).mem.wf = true := by
  simp [State.jrnPut, h]

@[simp] theorem jrnHeader_wf {s : State} {at_ : Word} {r : JrnRecord} (h : s.mem.wf = true) : (s.jrnHeader at_ r).mem.wf = true := by
  simp [State.jrnHeader, h]

@[simp] theorem jrnPadTo_wf {s : State} {at_ : Word} {len : Nat} (h : s.mem.wf = true) : (s.jrnPadTo at_ len).mem.wf = true := by
  simp only [State.jrnPadTo]
  split <;> simp [h]

@[simp] theorem jrnWrite_wf {s : State} {at_ : Word} {r : JrnRecord} (h : s.mem.wf = true) : (s.jrnWrite at_ r).mem.wf = true :=
  foldl_wf (fun _ _ ht => jrnPut_wf (jrnPut_wf ht)) _ (jrnHeader_wf (jrnPadTo_wf h))

@[simp] theorem drainJournal_wf {n : Nat} {s : State} (h : s.mem.wf = true) : (drainJournal n s).mem.wf = true := by
  induction n generalizing s with
  | zero => exact h
  | succ n ih =>
    unfold drainJournal
    (repeat' split) <;> simp [h, ih]

@[simp] theorem settleJournal_wf {s : State} (h : s.mem.wf = true) : s.settleJournal.mem.wf = true := by
  simp [State.settleJournal, h]

@[simp] theorem journal_wf {s : State} {r : JrnRecord} (h : s.mem.wf = true) : (s.journal r).mem.wf = true := by
  unfold State.journal
  split <;> simp [h]

theorem recorded_wf {s : State} {r : JrnRecord} {effect : State → State} (hf : ∀ t, t.mem.wf = true → (effect t).mem.wf = true)
    (h : s.mem.wf = true) : (s.recorded r effect).mem.wf = true := by
  unfold State.recorded
  split
  · exact h
  · exact hf _ (journal_wf h)

theorem errorAt_wf {s : State} {u : ErrorUnit} {src pa : Nat} {place : List Nat} {effect : State → State}
    (hf : ∀ t, t.mem.wf = true → (effect t).mem.wf = true) (h : s.mem.wf = true) : (s.errorAt u src pa place effect).mem.wf = true :=
  recorded_wf hf h

/-! ### Switches and events of a strand -/

@[simp] theorem landUnkept_mem (s : State) (g : Nat) : (landUnkept s g).mem = s.mem := by
  simp only [landUnkept]
  split
  · rfl
  · exact as_mem (fun t => by simp [foldl_mem]) g

@[simp] theorem shiftCopies_mem (s : State) (pick : CopyReq → Bool) (f : CopyReq → CopyReq) : (s.shiftCopies pick f).mem = s.mem := rfl

@[simp] theorem detachCopies_mem (s : State) (g : Nat) : (detachCopies s g).mem = s.mem := by
  simp [detachCopies]

@[simp] theorem attachCopies_mem (s : State) (g : Nat) : (attachCopies s g).mem = s.mem := by
  simp [attachCopies]

@[simp] theorem orphanCopies_mem (s : State) (block : Nat) (pick : CopyReq → Bool) : (orphanCopies s block pick).mem = s.mem := rfl

@[simp] theorem withdrawPosting_mem (s : State) (g : Nat) : (withdrawPosting s g).mem = s.mem := by
  simp only [withdrawPosting]
  split <;> simp

@[simp] theorem drawSave_wf {s : State} {die : Nat} {asid : BitVec 12} {t : TaskInfo} (h : s.mem.wf = true) :
    (drawSave s die asid t).1.mem.wf = true := by
  unfold drawSave
  (repeat' split) <;> simp [h]

@[simp] theorem demandReserve_mem (s : State) (core : Nat) : (s.demandReserve core).mem = s.mem := by
  simp [State.demandReserve]

theorem switchOut_wf {s : State} (g : Nat) (pc : Word) (st : ImageState) (migrate : Bool) (h : s.mem.wf = true) :
    ∀ t ∈ switchOut s g pc st migrate, t.mem.wf = true := by
  unfold switchOut
  split
  · simp
  · dsimp only
    split
    · simp [h]
    · split
      · simp [h]
      · intro t ht
        obtain ⟨u, hu, rfl⟩ := Option.map_eq_some_iff.mp ht
        have hu : u.mem.wf = true := by
          split at hu
          · exact requeue_wf _ _ _ (by simp [h]) u hu
          · cases hu
            simp [h]
        simp [hu]

@[simp] theorem modImage_mem (s : State) (core : Nat) (asid : BitVec 12) (save : Word) (f : StagedImage → StagedImage) :
    (s.modImage core asid save f).mem = s.mem :=
  rfl

@[simp] theorem dropImage_mem (s : State) (core : Nat) (asid : BitVec 12) (save : Word) : (s.dropImage core asid save).mem = s.mem := rfl

@[simp] theorem editHeader_wf {s : State} {die : Nat} {asid : BitVec 12} {save : Word} {f : Word → Word} (h : s.mem.wf = true) :
    (editHeader s die asid save f).mem.wf = true := by
  simp only [editHeader]
  split <;> simp [h]

@[simp] theorem writeStripImage_wf {s : State} {core : Nat} {i : StagedImage} (h : s.mem.wf = true) :
    (writeStripImage s core i).mem.wf = true := by
  simp only [writeStripImage, dropImage_mem, freeGranules_mem]
  exact editHeader_wf (foldl_wf (fun _ _ ht => foldl_wf (fun _ _ hu => writeAreaSector_wf hu) _ ht) _ (by simp [h]))

@[simp] theorem drainImage_wf {s : State} {core : Nat} {i : StagedImage} (h : s.mem.wf = true) : (drainImage s core i).mem.wf = true := by
  unfold drainImage
  split <;> simp [h]

@[simp] theorem writeDirectory_wf {s : State} {ctx : Ctx} {save : Word} {x : Strand} (h : s.mem.wf = true) :
    (writeDirectory s ctx save x).mem.wf = true :=
  foldl_wf (fun _ _ ht => writeArea_wf ht) _ h

@[simp] theorem takeImage_wf {s : State} {core : Nat} {asid : BitVec 12} {save : Word} {x granules : Nat} (h : s.mem.wf = true) :
    (takeImage s core asid save x granules).1.mem.wf = true := by
  unfold takeImage
  extract_lets ctx fromArea
  have hf (u : State) (hu : u.mem.wf = true) : (fromArea u).1.mem.wf = true := by
    simp only [fromArea]
    rw [foldl_mem (fun t p => foldl_mem (fun u k => by split <;> simp) _ t)]
    simp [hu]
  clear_value fromArea
  split
  · exact hf _ h
  · split
    · dsimp only
      split <;> simp [h]
    · exact hf _ (by simp [h])

@[simp] theorem awaitCopies_mem (s : State) (g : Nat) : (awaitCopies s g).mem = s.mem := by
  simp only [awaitCopies]
  split <;> simp

@[simp] theorem restoreOn_wf {s : State} {g : Nat} {asid : BitVec 12} {t : TaskInfo} {x granules : Nat} (h : s.mem.wf = true) :
    (restoreOn s g asid t x granules).mem.wf = true := by
  simp [restoreOn, h]

@[simp] theorem takeGrant_mem (s : State) (g : Nat) : (takeGrant s g).mem = s.mem := by
  simp [takeGrant]

@[simp] theorem postNotice_mem (s : State) (g : Nat) (source : NoticeSource) : (postNotice s g source).mem = s.mem := by
  simp [postNotice]

@[simp] theorem forceSwitch_wf {s : State} {g : Nat} {migrate : Bool} (h : s.mem.wf = true) : (forceSwitch s g migrate).mem.wf = true := by
  unfold forceSwitch
  cases e : switchOut s g (s.strandAt g).pc .queued migrate with
  | none => simp [h]
  | some t => exact switchOut_wf _ _ _ _ h t e

@[simp] theorem removeImage_wf {s : State} {core : Nat} {i : StagedImage} (h : s.mem.wf = true) : (removeImage s core i).mem.wf = true := by
  simp only [removeImage, freeSlot_mem, dropImage_mem, freeGranules_mem, orphanCopies_mem]
  rw [foldl_mem (fun t b => by split <;> simp)]
  simp [h]

@[simp] theorem removeLost_wf {s : State} {block : Nat} {asid : BitVec 12} {frame save : Word} {r : RecordParts} (h : s.mem.wf = true) :
    (removeLost s block asid frame save r).mem.wf = true := by
  simp only [removeLost]
  split <;> simp [h]

@[simp] theorem unhandled_mem (s : State) : s.unhandled.mem = s.mem := by
  simp [State.unhandled]

@[simp] theorem malformedImage_wf {s : State} {frame : Word} (h : s.mem.wf = true) : (malformedImage s frame).mem.wf = true := by
  simp [malformedImage, h]

@[simp] theorem placeRival_mem (s : State) (g id : Nat) (v : View) : (placeRival s g id v).mem = s.mem := by
  unfold placeRival
  split <;> simp

@[simp] theorem parkJudge_mem (s : State) (g : Nat) : (parkJudge s g).mem = s.mem := by
  simp only [parkJudge]
  (repeat' split) <;> simp

/-! ### The copy engine -/

@[simp] theorem copyTouch_wf {s : State} {core : Nat} {r : CopyReq} {side : CopyMove → CopyEnd} {p : Page} {va : Word} {write : Bool}
    (h : s.mem.wf = true) : (copyTouch s core r side p va write).mem.wf = true := by
  simp [copyTouch, h]

theorem copyRead_yields {s : State} (core : Nat) (r : CopyReq) (e : CopyEnd) (h : s.mem.wf = true) :
    Yields (fun x : Sector × State => x.2.Canonical) (copyRead s core r e) := by
  unfold copyRead
  split
  · split <;> simp [h]
  · split
    · (repeat' split) <;> simp [h]
    · exact (loadSector_yields _ _ _ _ (by simp [h])).mapError

theorem copyMove_yields {s : State} (core : Nat) (r : CopyReq) (m : CopyMove) (h : s.mem.wf = true) :
    Yields State.Canonical (copyMove s core r m) := by
  unfold copyMove
  dsimp only
  split <;> refine Yields.bind (p := fun x : Sector × State => x.2.mem.wf = true) ?_ fun x hx => ?_
  · exact .ok h
  rotate_left
  · exact copyRead_yields _ _ _ h
  all_goals
    split
    · exact .error _
    · split
      · split <;> simp [hx]
      · exact (storeSector_yields _ _ _ _ _ _ _ (by simp [hx])).mapError

@[simp] theorem modCopy_mem (s : State) (core id : Nat) (f : CopyReq → CopyReq) : (s.modCopy core id f).mem = s.mem := rfl

@[simp] theorem endCopy_mem (s : State) (core : Nat) (r : CopyReq) : (s.endCopy core r).mem = s.mem := by
  unfold State.endCopy
  split <;> rfl

@[simp] theorem holdInImage_wf {s : State} {die : Nat} {asid : BitVec 12} {save : Word} {e : CopyEvent} (h : s.mem.wf = true) :
    (holdInImage s die asid save e).mem.wf = true := by
  simp only [holdInImage]
  split <;> simp [h]

@[simp] theorem raiseCopyEvent_wf {s : State} {core : Nat} {r : CopyReq} {e : CopyEvent} (h : s.mem.wf = true) :
    (raiseCopyEvent s core r e).mem.wf = true := by
  simp only [raiseCopyEvent]
  (repeat' split) <;> simp [h]

@[simp] theorem missRequest_wf {s : State} {core : Nat} {r : CopyReq} {promise : Word} (h : s.mem.wf = true) :
    (missRequest s core r promise).mem.wf = true := by
  simp [missRequest, h]

/-! ### Failures -/

@[simp] theorem report_wf {s : State} {code : BitVec 8} {core block : Nat} (h : s.mem.wf = true) :
    (s.report code core block).mem.wf = true := by
  simp [State.report, h]

@[simp] theorem removeWith_wf {s : State} {g : Nat} {code : BitVec 8} (h : s.mem.wf = true) : (removeWith s g code).mem.wf = true := by
  simp only [removeWith]
  (repeat' split) <;> simp [h, as_mem]

@[simp] theorem removeTask_wf {s : State} {g : Nat} (h : s.mem.wf = true) : (removeTask s g).mem.wf = true := by
  simp [removeTask, h]

@[simp] theorem stateError_wf {s : State} {g : Nat} (h : s.mem.wf = true) : (stateError s g).mem.wf = true := by
  unfold stateError
  split <;> simp [h]

@[simp] theorem retireLane_wf {s : State} {core lane : Nat} (h : s.mem.wf = true) : (retireLane s core lane).mem.wf = true := by
  simp only [retireLane]
  split <;> simp [h]

@[simp] theorem wordError_wf {s : State} {core lane word : Nat} {part : RegFilePart} {again : Bool} (h : s.mem.wf = true) :
    (wordError s core lane word part again).mem.wf = true := by
  simp only [wordError]
  (repeat' split) <;> simp [h]

@[simp] theorem stripError_mem (s : State) (core sector : Nat) : (stripError s core sector).mem = s.mem := rfl

@[simp] theorem queueError_mem (s : State) (core queue entry : Nat) : (queueError s core queue entry).mem = s.mem := by
  unfold queueError
  split <;> rfl

@[simp] theorem scratchError_wf {s : State} {pa : Nat} (h : s.mem.wf = true) : (scratchError s pa).mem.wf = true := by
  unfold scratchError
  split
  · exact wf_setTag _ _ h
  · exact h

@[simp] theorem modViewCopy_mem (s : State) (view sector : Nat) (f : Sector × Word → Sector × Word) :
    (s.modViewCopy view sector f).mem = s.mem := by
  simp [State.modViewCopy]

@[simp] theorem poisonSector_wf {s : State} {view sector : Nat} (h : s.mem.wf = true) : (poisonSector s view sector).mem.wf = true := by
  unfold poisonSector
  split
  · simp [h]
  · split
    · exact h
    · exact wf_setTag _ _ h

@[simp] theorem sliceError_wf {s : State} {die sector view : Nat} {inStamp : Bool} (h : s.mem.wf = true) :
    (sliceError s die sector view inStamp).mem.wf = true := by
  simp only [sliceError]
  (repeat' split) <;> simp [h]

@[simp] theorem llcError_wf {s : State} {sector view : Nat} {inStamp : Bool} (h : s.mem.wf = true) :
    (llcError s sector view inStamp).mem.wf = true := by
  simp only [llcError]
  (repeat' split) <;> simp [h]

@[simp] theorem slotError_wf {s : State} {die sector view : Nat} {inStamp : Bool} (h : s.mem.wf = true) :
    (slotError s die sector view inStamp).mem.wf = true := by
  unfold slotError
  split <;> simp [h]

/-! ### Baristas -/

theorem onBarista_wf {s : State} {word : Word} {f : Nat → Invocation → State → State} (hf : ∀ b v, (f b v s).mem.wf = true)
    (h : s.mem.wf = true) : (s.onBarista word f).mem.wf = true := by
  unfold State.onBarista
  split
  · exact stop_wf h
  · split
    · exact h
    · exact guarded_wf (hf _ _) h

@[simp] theorem dropPrefetch_mem (s : State) (b : Nat) : (s.dropPrefetch b).mem = s.mem := rfl

@[simp] theorem hpost_wf {s : State} {me : Nat} {v : Invocation} {addr payload source : Word} {fwd : Bool} (h : s.mem.wf = true) :
    (hpost s me v addr payload source fwd).mem.wf = true := by
  unfold hpost
  split
  · simp [h]
  · split
    · simp [h]
    · split
      · simp [h]
      · dsimp only
        split
        · simp [h]
        · split
          · split
            · simp [h]
            · next t e =>
              have ht : t.mem = s.mem := (defer_yields _ _ _).of_ok e
              simp [ht, h]
          · split <;> simp [h]

@[simp] theorem endInvocation_mem (s : State) (b : Nat) : (s.endInvocation b).mem = s.mem := by
  simp [State.endInvocation]

@[simp] theorem baristaError_wf {s : State} {bar : Nat} (h : s.mem.wf = true) : (baristaError s bar).mem.wf = true := by
  simp [baristaError, h]

@[simp] theorem clearCounters_mem (s : State) (bar : Nat) : (s.clearCounters bar).mem = s.mem := rfl

@[simp] theorem chargeBaristas_mem (s : State) : (chargeBaristas s).mem = s.mem :=
  foldl_mem (fun _ _ => chargeInvocation_mem _ _) _ s

/-! ### Home stacks -/

@[simp] theorem granuleError_wf {s : State} {granule : Nat} (h : s.mem.wf = true) : (granuleError s granule).mem.wf = true :=
  List.foldlRecOn (motive := fun m : Memory => m.wf = true) _ _ h fun _ hm _ _ => wf_setTag _ _ hm

@[simp] theorem recodingError_wf {s : State} {stack : Nat} (h : s.mem.wf = true) : (recodingError s stack).mem.wf = true := by
  unfold recodingError
  split
  · exact h
  · exact settleCounts_wf (storeLine_wf (wf_setTag _ _ h))

@[simp] theorem writeLlcpart_mem (s : State) (n : Nat) (value : Word) : (s.writeLlcpart n value).mem = s.mem := by
  unfold State.writeLlcpart
  split <;> rfl

@[simp] theorem giveTicket_mem (s : State) (g : Nat) : (giveTicket s g).mem = s.mem := by
  simp only [giveTicket]
  split <;> simp

/-! ### Fault queues -/

@[simp] theorem enterPosting_wf {s : State} {die : Nat} {p : Posting} {rest : List Posting} (h : s.mem.wf = true) :
    (enterPosting s die p rest).mem.wf = true := by
  have hw : ((s.setDie die { s.die die with heldPostings := rest }).writeRecord die p.record true).mem.wf = true := writeRecord_wf h
  simp only [enterPosting]
  split
  · exact hw
  · split
    · exact as_wf (fun _ ht => enterTrap_wf ht) _ hw
    · exact hw

@[simp] theorem enterPostings_wf {die n : Nat} {s : State} (h : s.mem.wf = true) : (enterPostings die n s).mem.wf = true := by
  induction n generalizing s with
  | zero => exact h
  | succ n ih =>
    unfold enterPostings
    (repeat' split) <;> simp [h, ih]

@[simp] theorem drainPostings_wf {s : State} {die : Nat} (h : s.mem.wf = true) : (s.drainPostings die).mem.wf = true := by
  simp [State.drainPostings, h]

@[simp] theorem writeFqhead_wf {s : State} {die : Nat} {value : Word} (h : s.mem.wf = true) : (s.writeFqhead die value).mem.wf = true := by
  simp only [State.writeFqhead]
  split <;> simp [h]

@[simp] theorem writeFqbase_wf {s : State} {die : Nat} {value : Word} (h : s.mem.wf = true) : (s.writeFqbase die value).mem.wf = true := by
  simp [State.writeFqbase, h]

@[simp] theorem writeFqstat_mem (s : State) (die : Nat) (value : Word) : (s.writeFqstat die value).mem = s.mem := by
  unfold State.writeFqstat
  split <;> rfl

/-! ### Removal and recovery -/

@[simp] theorem install_mem (s : State) (a : Nat) : (install s a).2.mem = s.mem := by
  simp only [install]
  (repeat' split) <;> rfl

@[simp] theorem report406_mem (s : State) (status : Nat) : (s.report406 status).mem = s.mem := rfl

@[simp] theorem removeParked_mem (s : State) (p : Parked) : (removeParked s p).mem = s.mem := by
  simp only [removeParked, freeSlot_mem, freeGranules_mem, faultView_mem]
  split
  · rw [foldl_mem (fun t b => by split <;> simp)]
    simp
  · rw [orphanCopies_mem, foldl_mem (fun t b => by split <;> simp)]
    simp

@[simp] theorem removeTasks_wf {s : State} {mine : Nat → Bool} (h : s.mem.wf = true) : (removeTasks s mine).mem.wf = true :=
  foldl_wf (fun _ _ ht => removeImage_wf ht)
    _ (foldl_wf (fun _ _ ht => by simpa using ht) _ (foldl_wf (fun _ _ ht => removeWith_wf ht) _ h))

@[simp] theorem removeQueued_wf {s : State} {block : Nat} {frame : Word} (h : s.mem.wf = true) :
    (removeQueued s block frame).mem.wf = true := by
  simp only [removeQueued]
  (repeat' split) <;> simp [h]

@[simp] theorem emptyQueue_wf {s : State} {pa : Nat} (h : s.mem.wf = true) : (emptyQueue s pa).mem.wf = true :=
  storePhys_wf (foldl_wf (fun t i ht => by split <;> simp [ht]) _ h)

@[simp] theorem dropQueued_wf {s : State} {die block : Nat} {removal : Bool} {frame : Word} (h : s.mem.wf = true) :
    (dropQueued s die block removal frame).mem.wf = true := by
  unfold dropQueued
  split <;> simp [h]

@[simp] theorem emptyQueues_wf {s : State} {mine : Nat → Bool} {removal : Bool} (h : s.mem.wf = true) :
    (emptyQueues s mine removal).mem.wf = true := by
  refine foldl_wf (fun t d ht => ?_) _ (foldl_wf (fun t b ht => foldl_wf (fun u q hu => ?_) _ ht) _ h)
  · exact foldl_wf (fun _ _ hu => dropQueued_wf hu) _ ht
  · exact emptyQueue_wf (foldl_wf (fun _ _ hv => dropQueued_wf hv) _ hu)

@[simp] theorem dropAsids_wf {s : State} {l : List Nat} (h : s.mem.wf = true) : (dropAsids s l).mem.wf = true := by
  simp [dropAsids, h]

@[simp] theorem recoverBlocks_wf {s : State} {mine : Nat → Bool} {removal : Bool} (h : s.mem.wf = true) :
    (recoverBlocks s mine removal).mem.wf = true :=
  dropAsids_wf (emptyQueues_wf (removeTasks_wf h))

@[simp] theorem dropBlocks_mem (s : State) (block : Nat) : (dropBlocks s block).mem = s.mem := rfl

/-! ### Launch queues -/

@[simp] theorem setTrack_mem (s : State) (die pa : Nat) (t : QueueTrack) : (s.setTrack die pa t).mem = s.mem := rfl

@[simp] theorem observe_mem (s : State) (die : Nat) (q : LaunchQueue) : (s.observe die q).mem = s.mem := rfl

@[simp] theorem takeHead_wf {s : State} {die : Nat} {q : LaunchQueue} {held : Bool} (h : s.mem.wf = true) :
    (takeHead s die q held).mem.wf = true := by
  unfold takeHead
  split <;> simp [h]

@[simp] theorem loadSpace_mem (s : State) (die block : Nat) : (loadSpace s die block).mem = s.mem := rfl

@[simp] theorem loadBank_mem (s : State) (block core : Nat) : (loadBank s block core).mem = s.mem := by
  simp only [loadBank]
  (repeat' split) <;> simp

@[simp] theorem clearFrameBit_wf {s : State} {die block : Nat} {frame : Word} {k : Nat} (h : s.mem.wf = true) :
    (clearFrameBit s die block frame k).mem.wf = true := by
  unfold clearFrameBit
  split <;> simp [h]

@[simp] theorem place_wf {s : State} {die : Nat} {q : LaunchQueue} {frame : Word} {n : Need} {core : Nat} (h : s.mem.wf = true) :
    (place s die q frame n core).mem.wf = true := by
  simp only [place]
  (repeat' split) <;> simp [h]

@[simp] theorem dropHead_wf {s : State} {die : Nat} {q : LaunchQueue} {frame : Word} {held : Bool} {code : BitVec 8} (h : s.mem.wf = true) :
    (dropHead s die q frame held code).mem.wf = true := by
  have hd : ((takeHead s die q held).distributorPost die (frameRecord s q.block frame code)).mem.wf = true := by simp [h]
  simp only [dropHead]
  generalize (takeHead s die q held).distributorPost die (frameRecord s q.block frame code) = t at hd
  (repeat' split) <;> simp [hd]

@[simp] theorem payDeficits_mem (s : State) (die : Nat) (l : List Candidate) (chosen : Candidate) :
    (payDeficits s die l chosen).mem = s.mem := by
  simp only [payDeficits, setTrack_mem]
  exact foldl_mem (fun _ _ => setTrack_mem _ _ _ _) l s

@[simp] theorem acquireQueue_mem (s : State) (q : LaunchQueue) (g : Option Nat) : (acquireQueue s q g).mem = s.mem := by
  unfold acquireQueue
  split <;> simp

@[simp] theorem takeAndPlace_wf {s : State} {die : Nat} {c : Candidate} {core : Nat} (h : s.mem.wf = true) :
    (takeAndPlace s die c core).mem.wf = true := by
  simp [takeAndPlace, h]

@[simp] theorem selectByShare_wf {s : State} {die : Nat} (h : s.mem.wf = true) : (selectByShare s die).mem.wf = true := by
  simp only [selectByShare]
  (repeat' split) <;> simp [h]

@[simp] theorem reserveFrame_mem (s : State) (die : Nat) (c : Candidate) : (reserveFrame s die c).mem = s.mem := by
  simp only [reserveFrame]
  split <;> simp

@[simp] theorem moveTask_wf {s : State} {g : Nat} {nowhere : Bool} (h : s.mem.wf = true) : (moveTask s g nowhere).mem.wf = true := by
  unfold moveTask
  split <;> simp [h]

@[simp] theorem selectAndPlace_wf {s : State} {die : Nat} (h : s.mem.wf = true) : (selectAndPlace s die).mem.wf = true := by
  simp only [selectAndPlace]
  (repeat' split) <;> simp [h]

/-! ### The fabric -/

@[simp] theorem reachHome_wf {s : State} {secs : List Nat} (h : s.mem.wf = true) : (s.reachHome secs).mem.wf = true :=
  foldl_wf (fun _ _ ht => llcRequest_wf ht) _ h

theorem hostWriteEffect_wf {s : State} (pa : Nat) (data : BitVec 512) (enables : BitVec 64) (h : s.mem.wf = true) :
    ∀ t ∈ hostWriteEffect s pa data enables, t.mem.wf = true := by
  simp only [hostWriteEffect]
  (repeat' split) <;> simp [h, writeBase_wf]

theorem hostReadEffect_wf {s : State} (pa : Nat) (h : s.mem.wf = true) : ∀ t ∈ hostReadEffect s pa, t.mem.wf = true := by
  simp only [hostReadEffect]
  (repeat' split) <;> simp [h]

theorem taggedWriteEffect_wf {s : State} (m : CemenMsg) (h : s.mem.wf = true) : ∀ t ∈ taggedWriteEffect s m, t.mem.wf = true := by
  simp only [taggedWriteEffect]
  (repeat' split) <;> simp [h, writeBase_wf]
  exact foldl_wf (fun _ _ ht => writeBase_wf _ _ _ _ ht) _ (reachHome_wf h)

@[simp] theorem respond_mem (s : State) (x : Sent) : (s.respond x).mem = s.mem := rfl

theorem taggedReadEffect_wf {s : State} (m : CemenMsg) (h : s.mem.wf = true) : ∀ t ∈ taggedReadEffect s m, t.mem.wf = true := by
  simp only [taggedReadEffect]
  (repeat' split) <;> simp [h]

@[simp] theorem copyResponse_mem (s : State) (m : CemenMsg) : (copyResponse s m).mem = s.mem := by
  simp only [copyResponse]
  split <;> simp

theorem readResponseEffect_wf {s : State} (m : CemenMsg) (h : s.mem.wf = true) : ∀ t ∈ readResponseEffect s m, t.mem.wf = true := by
  simp only [readResponseEffect]
  (repeat' split) <;> simp [h]

theorem atomicEffect_wf {s : State} (m : CemenMsg) (h : s.mem.wf = true) : ∀ t ∈ atomicEffect s m, t.mem.wf = true := by
  simp only [atomicEffect]
  (repeat' split) <;> simp [h, writeBase_wf]

/-! ### Collectives -/

theorem readAll_yields {s : State} (ctx : Ctx) (l : List (Word × Page)) (h : s.mem.wf = true) :
    Yields (fun r : List Sector × State => r.2.Canonical) (readAll s ctx l) := by
  induction l generalizing s with
  | nil => exact .ok h
  | cons e l ih => exact (loadSector_yields _ _ _ _ h).bind fun x hx => (ih hx).bind fun r hr => .ok hr

@[simp] theorem sendFragments_mem (s : State) (c : Collective) (members : List (Option Nat)) : (sendFragments s c members).mem = s.mem := by
  refine foldl_mem (fun t m => ?_) _ s
  split
  · split
    · rfl
    · exact foldl_mem (fun _ _ => sendPlain_mem _ _) _ t
  · rfl

theorem collIssue_yields {s : State} (d a : SReg) (op : CollOp) (h : s.mem.wf = true) : Yields State.Canonical (collIssue s d a op) := by
  unfold collIssue
  refine .after fun _ => .after fun _ => .after fun _ => .after fun _ => ?_
  dsimp only
  split <;> refine .after fun from_ => .after fun into => .after fun _ => (loadSector_yields _ _ _ _ h).bind fun x hx => ?_
  all_goals
    refine .after fun _ => .after fun _ => .after fun _ => .after fun _ => .after fun _ => .after fun _ => ?_
    refine (readAll_yields _ _ hx).bind fun own ho => (storeSector_yields _ _ _ _ _ _ _ ho).bind fun t ht => ?_
    have ht : t.mem.wf = true := ht
    simp [ht, putS_mem]

@[simp] theorem collective_wf {s : State} {d a : SReg} {op : CollOp} (h : s.mem.wf = true) : (s.collective d a op).mem.wf = true := by
  refine onStrand_wf ?_ h
  split
  · exact finish_wf (collIssue_yields _ _ _ h) h
  · exact stop_wf h

theorem writeResult_wf {s : State} (c : Collective) (f : Nat → Page → Sector → Sector × Sticky) (h : s.mem.wf = true) :
    ∀ r ∈ writeResult s c f, r.1.mem.wf = true := by
  refine List.foldlRecOn (motive := fun r : Option (State × Sticky) => ∀ x ∈ r, x.1.mem.wf = true) _ _ (by simpa using h) ?_
  intro r hr e _
  split
  · simp
  · next t fl =>
    have ht : t.mem.wf = true := hr _ rfl
    dsimp only
    split
    · next u eu => simpa using (storeSector_yields _ _ _ _ _ _ _ ht).of_ok eu
    · simp
    · simpa using ht

@[simp] theorem setCollective_mem (s : State) (i : Nat) (c : Collective) : (s.setCollective i c).mem = s.mem := rfl

theorem matched_wf {s : State} (c : Collective) (h : s.mem.wf = true) : ∀ r ∈ matched s c, r.1.mem.wf = true := by
  unfold matched
  split
  · dsimp only
    split
    · intro r hr
      obtain ⟨u, hu, rfl⟩ := Option.map_eq_some_iff.mp hr
      exact writeResult_wf _ _ h u hu
    · simpa using h
  · simp

theorem writeCompletion_wf {s : State} (c : Collective) (h : s.mem.wf = true) : ∀ t ∈ writeCompletion s c, t.mem.wf = true := by
  simp only [writeCompletion]
  (repeat' split) <;> simp [h]
  next e => exact (storeSector_yields _ _ _ _ _ _ _ h).of_ok e

/-! ### Control flow and loops -/

@[simp] theorem branch_mem (s : State) (c : Bool) (off : BitVec 19) : (s.branch c off).mem = s.mem := by
  unfold State.branch State.guarded
  (repeat' split) <;> simp

@[simp] theorem transfer_wf {s : State} {link : Option SReg} {target : Word} (h : s.mem.wf = true) :
    (s.transfer link target).mem.wf = true := by
  refine guarded_wf ?_ h
  (repeat' split) <;> simp [h, putS_mem]

@[simp] theorem waitAtPass_mem (s : State) (l : LoopContext) (w : Wait) : (s.waitAtPass l w).mem = s.mem := rfl

@[simp] theorem loopPass_wf {s : State} {l : LoopContext} (h : s.mem.wf = true) : (loopPass s l).mem.wf = true := by
  simp only [loopPass]
  (repeat' split) <;> simp [h]

@[simp] theorem endPass_wf {s : State} {l : LoopContext} (h : s.mem.wf = true) : (endPass s l).mem.wf = true := by
  simp [endPass, h]

@[simp] theorem lend_mem (s : State) (l : Lent) : (s.lend l).mem = s.mem := by
  simp [State.lend]

/-! ### Management registers -/

@[simp] theorem writeFwctl_mem (s : State) (value : Word) : (writeFwctl s value).mem = s.mem := by
  unfold writeFwctl
  split <;> rfl

@[simp] theorem writeMgmtst_mem (s : State) (value : Word) : (writeMgmtst s value).mem = s.mem := by
  unfold writeMgmtst
  split <;> rfl

@[simp] theorem applyRetirement_mem (s : State) : (applyRetirement s).mem = s.mem := by
  unfold applyRetirement
  exact foldl_mem (fun t r => setCore_mem _ _ _) _ _

@[simp] theorem writeSkewmap_mem (s : State) (half : Bool) (value : Word) : (writeSkewmap s half value).mem = s.mem := by
  unfold writeSkewmap
  split <;> rfl

@[simp] theorem writeJrnhead_wf {s : State} {value : Word} (h : s.mem.wf = true) : (writeJrnhead s value).mem.wf = true := by
  simp only [writeJrnhead]
  split <;> simp [h]

@[simp] theorem writeJrnsize_mem (s : State) (value : Word) : (writeJrnsize s value).mem = s.mem := by
  unfold writeJrnsize
  split <;> rfl

@[simp] theorem writeJrnctl_mem (s : State) (value : Word) : (writeJrnctl s value).mem = s.mem := rfl

@[simp] theorem writeRcbcmd_mem (s : State) (value : Word) : (writeRcbcmd s value).mem = s.mem := by
  unfold writeRcbcmd
  split <;> rfl

@[simp] theorem writeFaultQueue_wf {s : State} {die reg : Nat} {value : Word} (h : s.mem.wf = true) :
    (writeFaultQueue s die reg value).mem.wf = true := by
  unfold writeFaultQueue
  split <;> simp [h]

@[simp] theorem writeHomeRegister_mem (s : State) (reg : Nat) (value : Word) : (writeHomeRegister s reg value).mem = s.mem := by
  simp only [writeHomeRegister]
  (repeat' split) <;> simp

@[simp] theorem writeWindowEntry_mem (s : State) (slot : Nat) (upper : Bool) (value : Word) :
    (writeWindowEntry s slot upper value).mem = s.mem :=
  rfl

@[simp] theorem writeJournalRegister_wf {s : State} {reg : Nat} {value : Word} (h : s.mem.wf = true) :
    (writeJournalRegister s reg value).mem.wf = true := by
  simp only [writeJournalRegister]
  (repeat' split) <;> simp [h]

@[simp] theorem writeCommandRegister_mem (s : State) (reg : Nat) (value : Word) : (writeCommandRegister s reg value).mem = s.mem := by
  simp only [writeCommandRegister]
  (repeat' split) <;> simp

@[simp] theorem registerWrite_wf {s : State} {offset : Nat} {value : Word} (h : s.mem.wf = true) :
    (registerWrite s offset value).mem.wf = true := by
  unfold registerWrite
  refine ite_wf h <| ite_wf (ite_wf (by simp [h]) h) <| ite_wf (by simp [h]) <| ite_wf (by simp [h]) <| ite_wf (by simp [h]) <|
    ite_wf ?_ <| ite_wf (ite_wf (by simp [h]) h) <| ite_wf (by simp [h]) <| ite_wf (by simp [h]) <| ite_wf h <| ite_wf h h
  simp [h]

/-! ### Ingress -/

theorem ingressEffect_wf {s : State} (x : Ingress) (h : s.mem.wf = true) : ∀ t ∈ ingressEffect s x, t.mem.wf = true := by
  unfold ingressEffect
  split
  · exact hostWriteEffect_wf _ _ _ h
  · exact hostReadEffect_wf _ h
  · simp [h]
  · split
    · exact taggedWriteEffect_wf _ h
    · split
      · exact taggedReadEffect_wf _ h
      · split
        · exact readResponseEffect_wf _ h
        · split
          · exact atomicEffect_wf _ h
          · (repeat' split) <;> simp [h]

theorem admitIngress_wf {s : State} (x : Ingress) (h : s.mem.wf = true) : ∀ t ∈ admitIngress s x, t.mem.wf = true := by
  unfold admitIngress
  split
  · simp
  · intro t ht
    obtain ⟨u, -, rfl⟩ := Option.map_eq_some_iff.mp ht
    have hj (o : Option JrnRecord) : (match o with
        | some r => s.journal r
        | none => s).mem.wf = true := by split <;> simp [h]
    dsimp only
    cases e : ingressEffect _ x with
    | none => exact hj _
    | some u => exact ingressEffect_wf x (hj _) u e

@[simp] theorem arriveIngress_wf {s : State} {x : Ingress} (h : s.mem.wf = true) : (s.arrive x).mem.wf = true := by
  unfold State.arrive
  split
  · exact h
  · split
    · exact h
    · split
      · next t e => exact admitIngress_wf _ h _ e
      · exact h

theorem heldIngress_wf {s : State} (h : s.mem.wf = true) : ∀ t ∈ heldIngress s, t.mem.wf = true := by
  unfold heldIngress
  split
  · simp
  · intro t ht
    obtain ⟨u, hu, rfl⟩ := Option.map_eq_some_iff.mp ht
    exact admitIngress_wf _ (by exact h) u hu

@[simp] theorem cemenIn_wf {s : State} {m : CemenMsg} {type : Nat} (h : s.mem.wf = true) : (s.cemenIn m type).mem.wf = true := by
  unfold State.cemenIn
  split <;> simp [h]

@[simp] theorem hostRegister_wf {s : State} {offset : Nat} {value : Word} (h : s.mem.wf = true) :
    (s.hostRegister offset value).mem.wf = true := by
  unfold State.hostRegister
  split <;> simp [h]

/-! ### Replay -/

@[simp] theorem diverge_mem (s : State) : (diverge s).mem = s.mem := rfl

@[simp] theorem recordedResponse_mem (s : State) (r : JrnRecord) : (recordedResponse s r).mem = s.mem := by
  simp [recordedResponse]

theorem replayError_wf {s : State} (r : JrnRecord) (h : s.mem.wf = true) : ∀ t ∈ replayError s r, t.mem.wf = true := by
  unfold replayError
  (repeat' split) <;> simp [h]

theorem replayEffect_wf {s : State} (r : JrnRecord) (h : s.mem.wf = true) : ∀ t ∈ replayEffect s r, t.mem.wf = true := by
  unfold replayEffect
  dsimp only
  (repeat' split) <;> simp [h]
  · exact ingressEffect_wf _ h
  · exact replayError_wf _ h

/-! ### Format transforms -/

@[simp] theorem putPos_mem (s : State) (latency : Nat) (h : HReg) (v : BitVec 32) (stop : Option (Nat × Stop)) :
    (s.putPos latency h v stop).mem = s.mem := by
  unfold State.putPos
  split <;> simp

@[simp] theorem finishDecode_mem (s : State) (d : VIdx) (x : HReg) (f : Fmt) (varint : Bool) (els : List Elem) (p : StreamPos)
    (stop : Option (Nat × Stop)) : (finishDecode s d x f varint els p stop).mem = s.mem := by
  simp only [finishDecode]
  (repeat' split) <;> simp [putV_mem]

@[simp] theorem vxfDecode_wf {s : State} {i : Instr} {d : VIdx} {x : HReg} {f : Fmt} {varint signed : Bool} (h : s.mem.wf = true) :
    (s.vxfDecode i d x f varint signed).mem.wf = true := by
  refine vecGate_wf ?_ h
  dsimp only
  (repeat' split) <;> simp [h]

@[simp] theorem writePieces_mem (s : State) (x : HReg) (ps : List Piece) : (writePieces s x ps).mem = s.mem :=
  foldl_mem (fun _ _ => stripWrite_mem _ _ _) _ s

@[simp] theorem vxfEncode_wf {s : State} {i : Instr} {d : VIdx} {x : HReg} {varint signed : Bool} (h : s.mem.wf = true) :
    (s.vxfEncode i d x varint signed).mem.wf = true := by
  refine vecGate_wf ?_ h
  dsimp only
  (repeat' split) <;> simp [h]

/-! ### Reductions -/

@[simp] theorem reduce_wf {α : Type} {s : State} {d : SReg} {base w : Nat} {marked : Nat → Bool} {identity : α} {leaf : Nat → α × Sticky}
    {finish : List α → Word × Sticky} (h : s.mem.wf = true) : (s.reduce d base w marked identity leaf finish).mem.wf = true := by
  simp only [State.reduce]
  (repeat' split) <;> simp [h, putS_mem]

@[simp] theorem vred_wf {s : State} {i : Instr} {d : SReg} {a : VIdx} {b : SReg} {op : RedOp} (h : s.mem.wf = true) :
    (s.vred i d a b op).mem.wf = true := by
  refine vecGate_wf ?_ h
  dsimp only
  (repeat' split) <;> simp [h]

@[simp] theorem vredBits_wf {s : State} {i : Instr} {d : SReg} {a : VIdx} {b : SReg} {op : Word → Word → Word} {ones : Bool}
    (h : s.mem.wf = true) : (s.vredBits i d a b op ones).mem.wf = true := by
  refine vecGate_wf ?_ h
  dsimp only
  (repeat' split) <;> simp [h]

/-! ### Turns and the clock -/

@[simp] theorem giveTurn_mem (s : State) (k : Nat) : (giveTurn s k).mem = s.mem := by
  unfold giveTurn
  split <;> simp

@[simp] theorem handOn_mem (s : State) : (handOn s).mem = s.mem := by
  simp only [handOn]
  (repeat' split) <;> simp

@[simp] theorem passClock_wf {s : State} (h : s.mem.wf = true) : (passClock s).mem.wf = true := by
  simp [passClock, foldl_mem, h]

@[simp] theorem endTurn_wf {s : State} (h : s.mem.wf = true) : (endTurn s).mem.wf = true := by
  unfold endTurn
  split <;> simp [h]

@[simp] theorem dropReplies_mem (s : State) : (dropReplies s).mem = s.mem := by
  unfold dropReplies
  split <;> rfl

@[simp] theorem offered_mem (s : State) : s.offered.mem = s.mem := by
  unfold State.offered
  split <;> rfl

@[simp] theorem resume_mem (s : State) : (resume s).mem = s.mem := by
  simp only [resume]
  split <;> simp

@[simp] theorem stallClock_wf {s : State} (h : s.mem.wf = true) : (stallClock s).mem.wf = true := by
  simp [stallClock, h]

/-! ### Instructions and events with a proof of their own -/

theorem execWfe_canonical {a b : SReg} {s : State} (h : s.mem.wf = true) : (execWfe a b s).Canonical := by
  refine canonical_next (onStrand_wf ?_ h)
  dsimp only
  split
  · simp [h]
  · split
    · simp [h]
    · have hl := loadBytes_yields (s.rdS a) 8 h
      split
      · next p r _ e =>
        have hr : r.2.mem.wf = true := hl.of_ok e
        split <;> simp [hr]
      all_goals simp [h]

theorem execTlbinvComplete_canonical {s : State} (h : s.mem.wf = true) : (execTlbinvComplete s).Canonical := by
  refine canonical_next ?_
  rw [mapStrands_mem, foldl_mem (fun t p => by (repeat' split) <;> simp)]
  exact h

theorem execLdAcq_canonical {d base : SReg} {scope : Scope} {off : BitVec 10} {s : State} (h : s.mem.wf = true) :
    (execLdAcq d base scope off s).Canonical :=
  canonical_next (memory_wf ((loadBytes_yields _ _ h).bind fun r (hr : r.2.mem.wf = true) => by simp [putS_mem, hr]) h)

theorem execStRel_canonical {d base : SReg} {scope : Scope} {off : BitVec 10} {s : State} (h : s.mem.wf = true) :
    (execStRel d base scope off s).Canonical := by
  refine canonical_next (memory_wf ?_ h)
  exact .after fun _ => .after fun _ => .after fun _ => (storeBytes_yields _ _ _ h).bind fun t (ht : t.mem.wf = true) => by simp [ht]

theorem execVscale_canonical {d a : VIdx} {b : SReg} {s : State} (h : s.mem.wf = true) : (execVscale d a b s).Canonical := by
  refine canonical_next ?_
  dsimp only
  split
  · refine vecGate_wf ?_ h
    split <;> simp [h]
  · exact runVec_wf h

theorem execCpGth_canonical {d a : SReg} {b : VIdx} {ends : BitVec 2} {s : State} (h : s.mem.wf = true) :
    (execCpGth d a b ends s).Canonical := by
  refine canonical_next (vecGate_wf ?_ h)
  extract_lets src dst len l rows ok index poison r
  have hr : Yields State.Canonical r := .after fun moves => makeCopy_yields _ _ _ _ h
  clear_value r
  split
  · simp [h]
  · cases hr with
    | ok ht => simpa using ht
    | error x => exact stop_wf h

theorem execCbLoad_canonical {cb : CBook} {a b : SReg} {s : State} (h : s.mem.wf = true) : (execCbLoad cb a b s).Canonical := by
  refine canonical_next (engineGate_wf ?_ h)
  refine .after fun _ => .after fun e => (engineSectors_yields _ h).bind fun r hr => .after fun tag => .ok ?_
  have hr : r.2.mem.wf = true := hr
  simp [hr]

theorem execAccLd_canonical {d : AReg} {a : SReg} {s : State} (h : s.mem.wf = true) : (execAccLd d a s).Canonical := by
  refine canonical_next (engineGate_wf ?_ h)
  refine .after fun l => (engineSectors_yields _ h).bind fun r hr => ?_
  have hr : r.2.mem.wf = true := hr
  dsimp only
  split <;> refine .after fun _ => ?_
  all_goals split <;> exact .after fun _ => .ok (by simp [hr])

/-- The stores of an image, one sector after another. -/
theorem storeImage_yields (l : List (Nat × Word × Page)) (op : Nat → StoreOp) {s : State} (h : s.mem.wf = true) :
    Yields State.Canonical
      (l.foldlM (fun t e => storeSector t (t.vecCtx true) e.2.2 e.2.1 (BitVec.allOnes 128) none (op e.1) false) s) := by
  induction l generalizing s with
  | nil => exact .ok h
  | cons e l ih => exact (storeSector_yields _ _ _ _ _ _ _ h).bind fun t ht => ih ht

theorem execAccSt_canonical {d : AReg} {a : SReg} {s : State} (h : s.mem.wf = true) : (execAccSt d a s).Canonical := by
  refine canonical_next (engineGate_wf ?_ h)
  refine .after fun l => (storeImage_yields l (fun i => .whole (imageSector _ i)) (touchAll_wf h)).bind fun t ht => .ok ?_
  have ht : t.mem.wf = true := ht
  simp [ht]

theorem execAccRd_canonical {d : VIdx} {a : AReg} {b : SReg} {s : State} (h : s.mem.wf = true) : (execAccRd d a b s).Canonical := by
  refine canonical_next (vecGate_wf ?_ h)
  refine ite_wf (stop_wf h) <| ite_wf ?_ ?_ <;> simp [h, putV_mem]

theorem execVldQ_canonical {d : QReg} {base : SReg} {off : BitVec 10} {s : State} (h : s.mem.wf = true) :
    (execVldQ d base off s).Canonical := by
  refine canonical_next (onStrand_wf (guarded_wf ?_ h) h)
  extract_lets va checked r
  have hr : Yields State.Canonical r := by
    have go (p : Page) := loadSector_yields (s.vecCtx false) p va false h
    have hc : Yields State.Canonical (checked ()) := by
      refine .after fun _ => .after fun p => .after fun _ => .after fun b => (go p).bind fun x hx => ?_
      have hx : x.2.mem.wf = true := hx
      exact .after fun _ => .after fun _ => .ok (by simp [hx])
    unfold r
    split <;> exact .after fun _ => hc
  clear_value r
  cases hr with
  | ok ht => exact ht
  | error x => exact stop_wf h

theorem execVwait_canonical {d : PReg} {a b : SReg} {scope : Scope} {s : State} (h : s.mem.wf = true) :
    (execVwait d a b scope s).Canonical := by
  refine canonical_next (onStrand_wf ?_ h)
  extract_lets m w
  split
  · exact stop_wf h
  · next left lines t e =>
    have ht : t.mem.wf = true := (unmetCounters_yields _ _ h).of_ok e
    split <;> simp [ht, putP_mem]

theorem execSettle_canonical {a : SReg} {s : State} (h : s.mem.wf = true) : (execSettle a s).Canonical := by
  refine canonical_next (worldOp_wf ?_ h)
  dsimp only
  split
  · exact h
  · rw [modView_mem, vacate_mem, setViewState_mem, foldl_mem fun t ve => by simp]
    exact h

theorem execAbandonAll_canonical {s : State} (h : s.mem.wf = true) : (execAbandonAll s).Canonical := by
  refine canonical_next (worldOp_wf ?_ h)
  split <;> simp [h]

theorem execVid_canonical {d a : SReg} {s : State} (h : s.mem.wf = true) : (execVid d a s).Canonical := by
  refine canonical_next (worldOp_wf ?_ h)
  split <;> simp [h, putS_mem]

theorem execTaskEnd_canonical {s : State} (h : s.mem.wf = true) : (execTaskEnd s).Canonical := by
  refine canonical_next (onStrand_wf ?_ h)
  refine ite_wf (stop_wf h) <| ite_wf (stop_wf h) <| ite_wf (stop_wf h) <| afterDrain_wf (afterCopies_wf ?_ h) h
  exact ite_wf (inlineReturn_wf h) (endTask_wf h)

theorem execYield_canonical {s : State} (h : s.mem.wf = true) : (execYield s).Canonical := by
  refine canonical_next (onStrand_wf ?_ h)
  refine ite_wf (stop_wf h) <| ite_wf (stop_wf h) <| ite_wf (stop_wf h) <| afterDrain_wf ?_ h
  extract_lets u
  have hu : u.mem.wf = true := by unfold u; split <;> simp [h]
  clear_value u
  split
  · simp [hu]
  · next t e =>
    extract_lets go
    have hgo : Yields State.Canonical go :=
      (writeBlock_yields _ _ _ _ hu).bind fun a ha => (readBlock_yields _ ha).bind fun f hf => writeBlock_yields _ _ _ _ hf
    clear_value go
    cases hgo with
    | error x => exact stop_wf hu
    | ok hw =>
      dsimp only
      split
      · simp [hu]
      · next v e =>
        have hv : v.mem.wf = true := requeue_wf _ _ _ hw v e
        rw [vacate_mem]
        split <;> simp [hv]

theorem execBarCl_canonical {a b : SReg} {s : State} (h : s.mem.wf = true) : (execBarCl a b s).Canonical :=
  canonical_next (onStrand_wf (ite_wf (stop_wf h) <| ite_wf (stop_wf h) <| afterDrain_wf (afterCopies_wf (arrive_wf h) h) h) h)

theorem execStagingDrainComplete_canonical {core save : Nat} {s : State} (h : s.mem.wf = true) :
    (execStagingDrainComplete core save s).Canonical := by
  refine canonical_next ?_
  dsimp only
  split
  · exact h
  · split
    · exact ite_wf (writeStripImage_wf (drainImage_wf h)) (drainImage_wf h)
    · split
      · exact h
      · rw [assayGate_mem, setStrandAt_mem]
        refine writeDirectory_wf (foldl_wf (fun t r ht => ite_wf (writeArea_wf ht) ht) _ ?_)
        simp [h]

theorem execCtxSave_canonical {s : State} (h : s.mem.wf = true) : (execCtxSave s).Canonical := by
  refine canonical_next (privileged_wf (ite_wf (stop_wf h) ?_) h)
  extract_lets x t
  have ht : t.mem.wf = true := ite_wf (by simp [h]) h
  clear_value t
  split
  · next u e => exact switchOut_wf _ _ _ _ ht u e
  · exact stop_wf h

theorem execCtxLoad_canonical {d a : SReg} {s : State} (h : s.mem.wf = true) : (execCtxLoad d a s).Canonical := by
  refine canonical_next (onStrand_wf ?_ h)
  refine ite_wf (stop_wf h) <| ite_wf (stop_wf h) <| ite_wf (stop_wf h) ?_
  extract_lets fa own go
  clear_value go
  split
  · exact stop_wf h
  · simp [h, putS_mem]
  · next f x =>
    extract_lets c u
    have hu : u.mem.wf = true := ite_wf (by simp [h]) h
    clear_value u c
    refine ite_wf (by simp [hu, putS_mem]) ?_
    extract_lets
    split
    · exact hu
    · next t e =>
      have ht : t.mem.wf = true := switchOut_wf _ _ _ _ (by exact hu) t e
      exact restoreOn_wf ht

theorem execCommitLand_canonical {g : Nat} {s : State} (h : s.mem.wf = true) : (execCommitLand g s).Canonical := by
  refine canonical_next (ite_wf h (as_wf (fun t ht => ?_) g h))
  rw [foldl_mem applyCommit_mem]
  exact ht

theorem execCopySectorMove_canonical {core : Nat} {s : State} (h : s.mem.wf = true) : (execCopySectorMove core s).Canonical := by
  refine canonical_next ?_
  split
  · exact h
  · split
    · exact h
    · split
      · next t e =>
        have ht : t.mem.wf = true := (copyMove_yields _ _ _ h).of_ok e
        simp [ht]
      · exact h
      · split <;> simp [h]
      · simp [h]

theorem execPromiseMiss_canonical {core req : Nat} {s : State} (h : s.mem.wf = true) : (execPromiseMiss core req s).Canonical := by
  refine canonical_next ?_
  split
  · exact h
  · exact ite_wf h (recorded_wf (fun t ht => by simp [ht]) h)

theorem execHStamp_canonical {d a : SReg} {s : State} (h : s.mem.wf = true) : (execHStamp d a s).Canonical := by
  refine canonical_next (onBarista_wf (fun b v => ?_) h)
  split <;> simp [h, putS_mem]

theorem execBmsg_canonical {a b : SReg} {s : State} (h : s.mem.wf = true) : (execBmsg a b s).Canonical := by
  refine canonical_next (onStrand_wf (guarded_wf ?_ h) h)
  extract_lets va m go
  have hg : Yields (fun t : State => t.mem = s.mem) go := by
    refine .after fun _ => .after fun p => .after fun _ => ?_
    split
    · exact defer_yields _ _ _
    · exact .after fun _ => .after fun _ => by simp
  clear_value go
  cases hg with
  | ok ht => simp [ht, h]
  | error x => exact stop_wf h

theorem execHandlerTimeLimit_canonical {bar : Nat} {s : State} (h : s.mem.wf = true) : (execHandlerTimeLimit bar s).Canonical := by
  refine canonical_next ?_
  split
  · exact h
  · exact ite_wf (recorded_wf (fun _ ht => abortHandler_wf ht) h) h

theorem execGrinderSweep_canonical {stack sector : Nat} {uncorrectable : Bool} {s : State} (h : s.mem.wf = true) :
    (execGrinderSweep stack sector uncorrectable s).Canonical :=
  canonical_next (ite_wf (ite_wf (errorAt_wf (fun _ ht => granuleError_wf ht) h) (by simp [h])) h)

theorem execGrinderRecallComplete_canonical {stack : Nat} {uncorrectable : Bool} {s : State} (h : s.mem.wf = true) :
    (execGrinderRecallComplete stack uncorrectable s).Canonical := by
  refine canonical_next ?_
  split
  · exact h
  · refine ite_wf (errorAt_wf (fun _ ht => recodingError_wf ht) h) ?_
    dsimp only
    split
    · exact settleCounts_wf h
    · exact settleCounts_wf (storeLine_wf (wf_setSector _ _ h))

theorem execLlcFill_canonical {line vline : Nat} {user : LineUser} {s : State} (h : s.mem.wf = true) :
    (execLlcFill line vline user s).Canonical := by
  refine canonical_next ?_
  dsimp only
  split
  · exact h
  · exact ite_wf h (foldl_wf (fun _ _ ht => llcRequest_wf ht) _ h)

theorem execTouchstoneGrant_canonical {g : Nat} {s : State} (h : s.mem.wf = true) : (execTouchstoneGrant g s).Canonical := by
  refine canonical_next ?_
  split
  · exact h
  · exact ite_wf (recorded_wf (fun t ht => by simp [ht]) h) (by simp [h])

theorem execReservePreemptTimeout_canonical {die : Nat} {s : State} (h : s.mem.wf = true) :
    (execReservePreemptTimeout die s).Canonical := by
  refine canonical_next ?_
  split
  · exact h
  · dsimp only
    split
    · exact h
    · exact foldl_wf (fun t g ht => by simp [ht]) _ (by exact h)

theorem execCompletionLost_canonical {id : Nat} {s : State} (h : s.mem.wf = true) : (execCompletionLost id s).Canonical := by
  refine canonical_next ?_
  split
  · exact h
  · exact ite_wf (as_wf (fun _ ht => takeTrap_wf ht) _ h) (abortHandler_wf h)

theorem execCollectiveMatch_canonical {die gid : Nat} {s : State} (h : s.mem.wf = true) : (execCollectiveMatch die gid s).Canonical := by
  refine canonical_next ?_
  split
  · exact h
  · split
    · exact h
    · next e => exact matched_wf _ h _ e

theorem execCollectiveComplete_canonical {die gid : Nat} {s : State} (h : s.mem.wf = true) :
    (execCollectiveComplete die gid s).Canonical := by
  refine canonical_next ?_
  split
  · exact h
  · split
    · exact h
    · next t e => exact writeCompletion_wf _ h t e

theorem execModuleReset_canonical {s : State} (h : s.mem.wf = true) : (execModuleReset s).Canonical := by
  refine canonical_next ?_
  dsimp only
  split
  · exact wf_noScratch h
  · exact wf_empty

theorem execReplayApply_canonical {s : State} (h : s.mem.wf = true) : (execReplayApply s).Canonical := by
  refine canonical_next (ite_wf h ?_)
  dsimp only
  split
  · simp [h]
  · next t e => exact replayEffect_wf _ h t e

/-! ### Every instruction and every event

Grouped by the shared operation that runs the instruction: the rule of that operation, then the branches of what it runs. -/

theorem exec_canonical (i : Instr) {s : State} (h : s.mem.wf = true) : Out.Canonical (exec i s) := by
  cases i with
  -- one shared operation, whose rule simp knows
  | add | sub | mul | mulh | mulhu | div | divu | rem | remu | and | or | xor | andn | sll | srl | sra | min | max | minu | maxu | clz
      | popc | sextB | sextH | sextW | zextB | zextH | zextW | addi | andi | ori | xori | cmpEq | cmpNe | cmpLt | cmpGe | cmpLtu | cmpGeu
      | cmpiEq | cmpiNe | cmpiLt | cmpiGe | pand | por | pxor | pandn | pnot | pmov | movi | movhi | adr | ldB | ldBU | ldH | ldHU | ldW
      | ldWU | ldD | stB | stH | stW | stD | ldBndS | ldBndF | amoAdd | amoAnd | amoOr | amoXor | amoMin | amoMax | amoMinu | amoMaxu
      | amoSwap | amoCas | bz | bnz | bp | bnp | call | jmp | callReg | jmpReg | ret | nop | modeX | modeI | mfs | vadd | vsub | vmul
      | vfma | vfms | vmin | vmax | vabs | vneg | vdiv | vexp | vlog | vrcp | vrsqrt | vtanh | vsigm | vsin | vcos | vcmpEq | vcmpNe
      | vcmpLt | vcmpLe | vcmpGt | vcmpGe | vsel | vand | vor | vxor | vandn | vnot | vsll | vsrl | vsra | vcvt | vcvtSat | vcvtFit
      | vbcastF32 | vbcastI64 | vredAdd | vredMin | vredMax | vredAnd | vredOr | vredXor | viota | vperm | vrot | vslideup | vslidedn
      | vcompress | vexpand | vldBndS | vldBndF | qpushS | qpushB | qpopS | qpeekS | vamoAdd | vamoMin | vamoMax | vamoSwap | vamoCas
      | fenceAll | mma | mmaW | mmaZ | mmaWz | mmaT | mmaTW | mmaTZ | mmaTWz | wbLoad | wbLoadCb | cpStart | cp2d | vxfUvar | vxfSvar
      | vxfUnpk | vxfEuvar | vxfEsvar | vxfPack | pre | preN | preCopy | preNCopy | spawn | spawnT | leaseRel | leaseRelD | collRedAdd
      | collRedMin | collRedMax | collRedFo | collBcast | reshapeComplete | lateResultReady | drainComplete | verticalBusCorrectedError
      | btimeWindowStart | wfeWake | sleepUntilExpiry | vwaitWake | vwaitDeadline | queueWaitEnd | boundedLoadWaitEnd | viewReclaim
      | stripTaggingComplete | rcbInstall | fwCommit | mgmtstWrite | skewmapWrite | jrnheadWrite | jrnsizeWrite | jrnctlWrite
      | packageRegisterWrite | thermalTrip | hostMemoryWrite | hostMemoryRead | cemenTaggedWrite | cemenTaggedRead | cemenReadResponse
      | cemenAtomic | cemenHostMessage | cemenCollectiveFragment | fabricAck | illegalInstruction | instructionFetchFault
      | participantLost =>
    exact canonical_next (by simp [h])
  -- a branch before it, or within it
  | slli | srli | srai => exact canonical_ite (canonical_next (by simp [h])) (canonical_next (by simp [h]))
  | barrierWake | grantWaitApply | arbiterHoldTimeout | selectAndPlace | selfTestComplete | hbmTrainingComplete | linkTraining
      | fqheadWrite | fqbaseWrite | fqstatWrite | rgcntWrite | rgctlWrite | llcpartWrite | baristaCountersClear =>
    exact canonical_next (ite_wf (by simp [h]) (by simp [h]))
  | homeRead => exact canonical_next (ite_wf (errorAt_wf (fun _ ht => granuleError_wf ht) h) h)
  | stateUncorrectableError | registerFileUncorrectableError | stripUncorrectableError | queueEntryUncorrectableError
      | scratchpadUncorrectableError | sliceUncorrectableError | baristaUncorrectableError =>
    exact canonical_next (errorAt_wf (fun t ht => by simp [ht]) h)
  -- the rule of the shared operation from the rule of what it runs
  | ldeF32 | ldeI64 | ldeRaw => exact canonical_next (memory_wf (lde_yields _ _ _ _ h) h)
  | steF32 | steI64 | steRaw => exact canonical_next (memory_wf (ste_yields _ _ _ _ h) h)
  | vld | vlds | vldx => exact canonical_next (runMem_wf (fun _ _ => performLoad_yields (plainFetch_keepsMem _) _ _ h) h)
  | vldSc => exact canonical_next (runMem_wf (fun _ _ => withTickets_yields (performLoad_yields (plainFetch_keepsMem _) _ _ h)) h)
  | vst | vsts | vstx => exact canonical_next (runMem_wf (fun _ _ => performStore_yields _ _ h) h)
  | vstSc => exact canonical_next (runMem_wf (fun _ _ => withTickets_yields (performStore_yields _ _ h)) h)
  | vsctadd => exact canonical_next (runMem_wf (fun _ _ => performScatter_yields _ _ h) h)
  | stripLd | stripLdNa => exact canonical_next (stripAccess_wf (fun _ _ => performStripLoad_yields _ _ h) h)
  | stripSt | stripStNa => exact canonical_next (stripAccess_wf (fun _ _ => performStripStore_yields _ _ h) h)
  | trap | brk => exact canonical_next (onStrand_wf (guarded_wf (stop_wf h) h) h)
  | fenceSv | fenceVs | fenceVv => exact canonical_next (onStrand_wf (fence_wf h) h)
  | sleepUntil => exact canonical_next (onStrand_wf (ite_wf (by simp [h]) (stop_wf h)) h)
  | sev | stripClose => exact canonical_next (onStrand_wf (by simp [h]) h)
  | icinv => exact canonical_next (privileged_wf (finish_wf (.after fun _ => by simp [h]) h) h)
  | tileSet | accZero => exact canonical_next (engineGate_wf (by simp [h]) h)
  | fork | forkS | abandon | choose | chooseBest => exact canonical_next (worldOp_wf (by simp [h]) h)
  | hPost | hFwd | hDone | hAbort => exact canonical_next (onBarista_wf (fun b v => by simp [h]) h)
  -- every branch of what runs under the shared operation
  | eret =>
    refine canonical_next (privileged_wf ?_ h)
    (repeat' split) <;> simp [h]
  | blendw | tlbinv | asidSet =>
    refine canonical_next (privileged_wf ?_ h)
    dsimp only
    (repeat' split) <;> simp [h]
  | mts =>
    refine canonical_next (onStrand_wf (guarded_wf ?_ h) h)
    dsimp only
    (repeat' split) <;> simp [h]
  | roundRd =>
    refine canonical_next (onStrand_wf (guarded_wf ?_ h) h)
    (repeat' split) <;> simp [h, putS_mem]
  | accRdS =>
    refine canonical_next (onStrand_wf (guarded_wf ?_ h) h)
    dsimp only
    (repeat' split) <;> simp [h, putS_mem]
  | qbr =>
    refine canonical_next (onStrand_wf ?_ h)
    (repeat' split) <;> simp [h]
  | loopv | stripOpen | qbind | leaseReq =>
    refine canonical_next (onStrand_wf ?_ h)
    dsimp only
    (repeat' split) <;> simp [h]
  | vcfg | roundAdv =>
    refine canonical_next (onStrand_wf ?_ h)
    (repeat' split) <;> simp [h, putS_mem]
  | setvl =>
    refine canonical_next (onStrand_wf ?_ h)
    dsimp only
    (repeat' split) <;> simp [h, putS_mem]
  | vbcastRaw | qpopV =>
    refine canonical_next (vecGate_wf ?_ h)
    (repeat' split) <;> simp [h]
  | vretag | vtag | vbcastEl | vdot | qpushV | qpeekV =>
    refine canonical_next (vecGate_wf ?_ h)
    dsimp only
    (repeat' split) <;> simp [h]
  | vtagRd =>
    refine canonical_next (vecGate_wf ?_ h)
    (repeat' split) <;> simp [h, putS_mem]
  | hFetch =>
    refine canonical_next (onBarista_wf (fun b v => ?_) h)
    dsimp only
    (repeat' split) <;> simp [h]
  | hStampAdv =>
    refine canonical_next (onBarista_wf (fun b v => ?_) h)
    dsimp only
    (repeat' split) <;> simp [h, putS_mem]
  -- every branch of an event
  | restoreAtGrant | stripCopyWaitEnd | rivalPlace | copyRequestComplete | messageArrival | frameAged | queueTailObserved
      | shadowMulticastArrival | faultDomainRecovery | rcbRecover | collectiveTimeout | fabricBind =>
    refine canonical_next ?_
    (repeat' split) <;> simp [h]
  | gracePeriodExpiry | preemptionNotice | resumedReshaped | copyEventTaken | chooseResume | forcedSwitchRequest
      | registerFileCorrectedError | assayerRun | assayerVectorEnd | coherenceInvalidate | sliceFill | invocationStart | prefetchFill
      | roundMirrorsComplete | rgcntLand | recoveryComplete | rcbRemove | fwCommitComplete | firmwareCheckComplete =>
    refine canonical_next ?_
    dsimp only
    (repeat' split) <;> simp [h]
  -- a lemma of its own
  | wfe => exact execWfe_canonical h
  | tlbinvComplete => exact execTlbinvComplete_canonical h
  | ldAcq _ _ scope _ => exact execLdAcq_canonical (scope := scope) h
  | stRel _ _ scope _ => exact execStRel_canonical (scope := scope) h
  | vscale => exact execVscale_canonical h
  | cpGth => exact execCpGth_canonical h
  | cbLoad => exact execCbLoad_canonical h
  | accLd => exact execAccLd_canonical h
  | accSt => exact execAccSt_canonical h
  | accRd => exact execAccRd_canonical h
  | vldQ => exact execVldQ_canonical h
  | vwait _ _ _ scope => exact execVwait_canonical (scope := scope) h
  | settle => exact execSettle_canonical h
  | abandonAll => exact execAbandonAll_canonical h
  | vid => exact execVid_canonical h
  | taskEnd => exact execTaskEnd_canonical h
  | yield => exact execYield_canonical h
  | barCl => exact execBarCl_canonical h
  | stagingDrainComplete => exact execStagingDrainComplete_canonical h
  | ctxSave => exact execCtxSave_canonical h
  | ctxLoad => exact execCtxLoad_canonical h
  | commitLand => exact execCommitLand_canonical h
  | copySectorMove => exact execCopySectorMove_canonical h
  | promiseMiss => exact execPromiseMiss_canonical h
  | hStamp => exact execHStamp_canonical h
  | bmsg => exact execBmsg_canonical h
  | handlerTimeLimit => exact execHandlerTimeLimit_canonical h
  | grinderSweep => exact execGrinderSweep_canonical h
  | grinderRecallComplete => exact execGrinderRecallComplete_canonical h
  | llcFill => exact execLlcFill_canonical h
  | touchstoneGrant => exact execTouchstoneGrant_canonical h
  | reservePreemptTimeout => exact execReservePreemptTimeout_canonical h
  | completionLost => exact execCompletionLost_canonical h
  | collectiveMatch => exact execCollectiveMatch_canonical h
  | collectiveComplete => exact execCollectiveComplete_canonical h
  | moduleReset => exact execModuleReset_canonical h
  | replayApply => exact execReplayApply_canonical h

/-! ### The step -/

theorem after_canonical {t : State} (h : t.mem.wf = true) : Out.Canonical (after (.next t)) :=
  canonical_next (endTurn_wf (by simp [h]))

theorem issue_canonical (i : Instr) {s : State} (h : s.mem.wf = true) : Out.Canonical (issue i s) := by
  have hx := exec_canonical i h
  unfold issue
  split
  · next t e => exact canonical_ite (canonical_next (stallClock_wf h)) (after_canonical (hx t e))
  · exact hx

theorem runAgent_canonical {s : State} (h : s.mem.wf = true) : Out.Canonical (runAgent s) := by
  unfold runAgent
  split
  · exact canonical_ite (canonical_next (endPass_wf h)) (after_canonical (endPass_wf h))
  · exact after_canonical (loopPass_wf h)
  · split
    · exact canonical_ite (after_canonical (fetched_wf h)) (issue_canonical _ (fetched_wf h))
    · exact issue_canonical _ h
    · exact after_canonical (stop_wf h)

theorem turnOf_canonical {s : State} (h : s.mem.wf = true) : Out.Canonical (turnOf s) := by
  unfold turnOf
  split
  · exact canonical_ite (canonical_next (stop_wf h)) (runAgent_canonical h)
  · split
    · exact canonical_ite (after_canonical (stop_wf h)) (runAgent_canonical h)
    · exact runAgent_canonical h

theorem step_canonical {s : State} (h : s.mem.wf = true) : Out.Canonical (step s) := by
  unfold step
  split
  · exact exec_canonical _ h
  · split
    · next t e => exact canonical_next (heldIngress_wf h t e)
    · split
      · exact exec_canonical _ h
      · exact canonical_ite (turnOf_canonical (by simp [h])) (canonical_next (endTurn_wf (by simp [h])))

/-- Settles O8: every instruction and every device event writes memory through operations that keep its canonical form, and a step is one
of them, or none. -/
theorem stepKeepsCanonical : Obligations.StepKeepsCanonical := by
  unfold Obligations.StepKeepsCanonical
  exact fun s t h e => step_canonical h t e

end Sys2Proof.Machine
end

section
/-! Where scalar and predicate results land (O9): what a register reads after `putS`, for a strand in either kind of region and for a barista. -/

namespace Sys2Proof.Machine

/-! ### Registers after a write -/

/-- A scalar register of a strand after a write; a write to `s0` changes none (R19). -/
theorem Strand.setS_get (x : Strand) (d : SReg) (v : Word) {r : SReg} (h : r ≠ 0) :
    (x.setS d v).s[r.toNat] = if r = d then v else x.s[r.toNat] := by
  by_cases hd : d = 0
  · rw [hd, Strand.setS_zero, if_neg h]
  · exact x.setS_read d r v hd

/-- The scalar registers of a strand after a result, with the register of a lent copy (R72). -/
def Strand.setSCopy (x : Strand) (d : SReg) (c : Option SReg) (v : Word) : Strand := match c with
  | some c => if c = d then x.setS d v else (x.setS d v).setS c v
  | none => x.setS d v

theorem Strand.setSCopy_get (x : Strand) (d : SReg) (c : Option SReg) (v : Word) {r : SReg} (h : r ≠ 0) :
    (x.setSCopy d c v).s[r.toNat] = if r = d ∨ c = some r then v else x.s[r.toNat] := by
  cases c with
  | none => simp only [Strand.setSCopy, Strand.setS_get _ _ _ h, reduceCtorEq, or_false]
  | some c =>
    simp only [Strand.setSCopy]
    split
    · next hc => simp only [hc, Strand.setS_get _ _ _ h, Option.some.injEq, eq_comm (a := d), or_self]
    · simp only [Strand.setS_get _ _ _ h, Option.some.injEq, eq_comm (a := c)]
      split <;> simp_all

/-- A result changes the scalar registers alone. -/
theorem Strand.setSCopy_only (x : Strand) (d : SReg) (c : Option SReg) (v : Word) :
    x.setSCopy d c v = { x with s := (x.setSCopy d c v).s } := by
  unfold Strand.setSCopy Strand.setS
  (repeat' split) <;> rfl

/-- Write a scalar register of a barista; a write to `s0` is discarded (R324). -/
def Barista.setS (x : Barista) (r : SReg) (v : Word) : Barista := if r = 0 then x else { x with s := x.s.set r.toNat v }

@[simp] theorem Barista.setS_zero (x : Barista) (v : Word) : x.setS 0 v = x := by simp [Barista.setS]

theorem Barista.setS_get (x : Barista) (d : SReg) (v : Word) {r : SReg} (h : r ≠ 0) :
    (x.setS d v).s[r.toNat] = if r = d then v else x.s[r.toNat] := by
  by_cases hd : d = 0
  · rw [hd, Barista.setS_zero, if_neg h]
  · simp only [Barista.setS, if_neg hd, Vector.getElem_set, BitVec.toNat_inj]
    simp only [eq_comm (a := d)]

/-- The registers of a barista after a result, with the register of a lent copy (R324, R72). -/
def Barista.setSCopy (x : Barista) (d : SReg) (c : Option SReg) (v : Word) : Barista := match c with
  | some c => (x.setS d v).setS c v
  | none => x.setS d v

theorem Barista.setSCopy_get (x : Barista) (d : SReg) (c : Option SReg) (v : Word) {r : SReg} (h : r ≠ 0) :
    (x.setSCopy d c v).s[r.toNat] = if r = d ∨ c = some r then v else x.s[r.toNat] := by
  cases c with
  | none => simp only [Barista.setSCopy, Barista.setS_get _ _ _ h, reduceCtorEq, or_false]
  | some c =>
    simp only [Barista.setSCopy, Barista.setS_get _ _ _ h, Option.some.injEq, eq_comm (a := c)]
    split <;> simp_all

theorem Barista.setSCopy_only (x : Barista) (d : SReg) (c : Option SReg) (v : Word) :
    x.setSCopy d c v = { x with s := (x.setSCopy d c v).s } := by
  unfold Barista.setSCopy Barista.setS
  (repeat' split) <;> rfl

/-! ### Results -/

/-- A scalar result of an interlocked strand (R72, R19). -/
theorem putS_strand {s : State} (h : s.turn = none) (e : s.exposed = false) (n : Nat) (d : SReg) (v : Word) (fl : Sticky) :
    s.putS n d v fl = { s with strand := (s.strand.setSCopy d s.copyTo v).raise fl } := putS_interlocked h e n d v fl false

/-- A handler's scalar result (R324, R72). -/
theorem putS_barista {s : State} {b : Nat} (h : s.turn = some b) (n : Nat) (d : SReg) (v : Word) (fl : Sticky) :
    s.putS n d v fl = s.setBarista b ((s.barista b).setSCopy d s.copyTo v) := by
  simp only [State.putS, h]
  rfl

theorem rdS_barista {s : State} {b : Nat} (h : s.turn = some b) {r : SReg} (n : r ≠ 0) : s.rdS r = (s.barista b).s[r.toNat] := by
  simp only [State.rdS, if_neg n, h]

/-- A commit with no flags raises none. -/
@[simp] theorem Strand.raise_zero (x : Strand) : x.raise 0 = x := by simp [Strand.raise]

/-- A predicate result to `p0` is discarded, where no copy is lent (R19). -/
theorem putP_zero {s : State} (h : s.turn = none) (e : s.exposed = false) (c : s.copyTo = none) (n : Nat) (p : PosBits) :
    s.putP n 0 p 0 = s := by
  have hp : s.putP n 0 p 0 = s.put n (s.pDests 0 p) 0 := by simp only [State.putP, h]
  simp only [hp, put_interlocked e, State.pDests, c, applyCommit, List.foldl_cons, List.foldl_nil, applyDest, Strand.setP_zero,
    Strand.raise_zero]

/-- What the registers read after an interlocked strand's result. -/
theorem rdS_putS_strand {s : State} (h : s.turn = none) (e : s.exposed = false) (n : Nat) (d : SReg) (v : Word) (fl : Sticky) (r : SReg) :
    (s.putS n d v fl).rdS r = if r ≠ 0 ∧ (r = d ∨ s.copyTo = some r) then v else s.rdS r := by
  by_cases hr : r = 0
  · rw [hr, rdS_zero, rdS_zero, if_neg (fun h => h.1 rfl)]
  · have ht : (s.putS n d v fl).turn = none := by rw [putS_strand h e, h]
    rw [rdS_strand ht hr, rdS_strand h hr, putS_strand h e, Strand.raise_s, Strand.setSCopy_get _ _ _ _ hr]
    simp only [hr, ne_eq, not_false_eq_true, true_and]

/-- What the registers read after a handler's result. -/
theorem rdS_putS_barista {s : State} {b : Nat} (h : s.turn = some b) (n : Nat) (d : SReg) (v : Word) (fl : Sticky) (r : SReg) :
    (s.putS n d v fl).rdS r = if r ≠ 0 ∧ (r = d ∨ s.copyTo = some r) then v else s.rdS r := by
  by_cases hr : r = 0
  · rw [hr, rdS_zero, rdS_zero, if_neg (fun h => h.1 rfl)]
  · have ht : (s.putS n d v fl).turn = some b := by rw [putS_barista h]; exact h
    rw [rdS_barista ht hr, rdS_barista h hr, putS_barista h, barista_setBarista_same, Barista.setSCopy_get _ _ _ _ hr]
    simp only [hr, ne_eq, not_false_eq_true, true_and]

/-- A result in the commit buffer changes no register yet (R24). -/
theorem rdS_putS_exposed {s : State} (e : s.exposed = true) (n : Nat) (d : SReg) (v : Word) (fl : Sticky) (r : SReg) :
    (s.putS n d v fl).rdS r = s.rdS r := by
  rw [putS_exposed e]
  rfl

/-- Settles O9: a result lands in its register and in that of a lent copy, for a strand and for a barista, or stands in the commit buffer. -/
theorem registerWrites : Obligations.RegisterWrites := by
  unfold Obligations.RegisterWrites
  refine ⟨fun s n v p => ⟨rdS_zero s, rdP_zero s, fun h e c => ⟨?_, putP_zero h e c n p⟩, fun b h c => ⟨?_, ?_⟩⟩,
    fun s n d v fl h e => ⟨rdS_putS_strand h e n d v fl, ?_⟩, fun s b n d v fl h => ⟨rdS_putS_barista h n d v fl, ?_⟩,
    fun s n d v fl e => ⟨rdS_putS_exposed e n d v fl, _, putS_exposed e n d v fl false, rfl⟩⟩
  · rw [putS_strand h e, c, Strand.raise_zero, Strand.setSCopy, Strand.setS_zero]
  · rw [putS_barista h, c, barista_setBarista_same, Barista.setSCopy, Barista.setS_zero]
  · simp only [State.putP, h, if_true]
  · rw [putS_strand h e, Strand.setSCopy_only]
    rfl
  · rw [putS_barista h, barista_setBarista_same, ← Barista.setSCopy_only]

end Sys2Proof.Machine
end

section
/-! Traps and the return from them (O22, O24): the bits of sys.status at a trap's entry and at its return, and what a double trap leaves as it was. -/

namespace Sys2Proof.Machine

/-! ### Bits of a word -/

/-- A word after one of its bits is written. -/
theorem getLsbD_setBit (w : Word) {i : Nat} (hi : i < 64) (v : Bool) (k : Nat) :
    (setBit w i v).getLsbD k = if k = i then v else w.getLsbD k := by
  unfold setBit
  by_cases hk : k = i
  · subst hk
    split <;> simp_all
  · have hw : 64 ≤ k → w.getLsbD k = false := BitVec.getLsbD_of_ge w k
    split <;> simp [Ne.symm hk]
    exact fun h => lt_of_not_ge fun hge => by simp [hw hge] at h

/-- The bits of sys.status at a trap's entry (R29). -/
theorem getLsbD_trapStatus (w : Word) (pfx : Bool) (k : Nat) :
    (trapStatus w pfx).getLsbD k = if k = 8 then false else if k = 9 then pfx else if k = 10 then true
      else if k = 11 then w.getLsbD 10 else if k = 12 then w.getLsbD 8 else if k = 13 then true else w.getLsbD k := by
  simp only [trapStatus, bit, getLsbD_setBit _ (show 8 < 64 by decide), getLsbD_setBit _ (show 9 < 64 by decide),
    getLsbD_setBit _ (show 10 < 64 by decide), getLsbD_setBit _ (show 11 < 64 by decide), getLsbD_setBit _ (show 12 < 64 by decide),
    getLsbD_setBit _ (show 13 < 64 by decide)]
  grind

/-! ### A double trap -/

/-- What a posting leaves as it was: a strand's special registers, its scalar registers and its pc, and the views. -/
def State.regsViews (s : State) : SysRegs × Vector Word 64 × Word × List (Nat × View) := (s.strand.sys, s.strand.s, s.strand.pc, s.views)

/-- A write to an armed line changes nothing of a strand but its flags (R109, R162). -/
theorem notifyLine_regsViews (s : State) (line v : Nat) : (s.notifyLine line v).regsViews = s.regsViews := by
  simp only [State.notifyLine, State.mapStrands, State.regsViews]
  (repeat' split) <;> rfl

theorem modLlc_regsViews (s : State) (k : Nat) (f : LlcLine → LlcLine) : (s.modLlc k f).regsViews = s.regsViews := by
  unfold State.modLlc
  split <;> rfl

theorem writeBase_regsViews (s : State) (die : Option Nat) (sec : Nat) (x : Sector) (o : Option (BitVec 12 × Word)) :
    (s.writeBase die sec x o).regsViews = s.regsViews := by
  unfold State.writeBase
  dsimp only
  split <;> exact (notifyLine_regsViews _ _ _).trans (modLlc_regsViews s _ _)

theorem putRecord_regsViews (s : State) (die pa : Nat) (r : FaultRecord) : (s.putRecord die pa r).regsViews = s.regsViews := by
  unfold State.putRecord
  split
  · rfl
  · exact writeBase_regsViews _ _ _ _ _

theorem post_regsViews (s : State) (die : Nat) (r : FaultRecord) (source : Option Nat) :
    (s.post die r source).1.regsViews = s.regsViews := by
  unfold State.post
  dsimp only
  split
  · exact putRecord_regsViews _ _ _ _
  · rfl

theorem modBlock_strand (s : State) (a : Nat) (f : Block → Block) : (s.modBlock a f).strand = s.strand := by
  unfold State.modBlock
  split <;> rfl

theorem modView_strand (s : State) (v : Nat) (f : View → View) : (s.modView v f).strand = s.strand := by
  unfold State.modView
  split <;> rfl

theorem setViewState_strand (s : State) (id : Nat) (st : ViewState) : (s.setViewState id st).strand = s.strand := by
  unfold State.setViewState
  split
  · rfl
  · exact modView_strand _ _ _

/-- Discarding below a view with no open fork touches no strand. -/
theorem discardBelow_strand {s : State} {id : Nat} (h : ∀ p ∈ s.views, p.2.parent ≠ id) (n : Nat) :
    (s.discardBelow n id).strand = s.strand := by
  cases n with
  | zero => rfl
  | succ n =>
    have hl : s.views.filter (fun p => p.2.parent == id) = [] := by simpa using h
    simp only [State.discardBelow, hl, List.map_nil, List.foldl_nil]
    split <;> rfl

/-- A strand outside every world, or in a world with no fork open below it, is left as it is where its view is faulted. -/
theorem faultView_strand {s : State} (x : Strand) (g : Option Nat) (h : x.vid = 0 ∨ ∀ p ∈ s.views, p.2.parent ≠ x.vid) :
    (s.faultView x g).strand = s.strand := by
  unfold State.faultView State.ownView
  by_cases hv : x.vid = 0
  · simp only [if_pos hv]
  · simp only [if_neg hv]
    have hd := discardBelow_strand (h.resolve_left hv) 5
    split
    · rfl
    · next id hid =>
      have : id = x.vid := by
        split at hid
        · split at hid <;> simp_all
        · simp at hid
      subst this
      exact (setViewState_strand _ _ _).trans hd

/-- A double trap halts the strand and leaves its registers (R29). -/
theorem doubleTrap_halts {s : State} (t : TrapInfo) (h : s.strand.vid = 0 ∨ ∀ p ∈ s.views, p.2.parent ≠ s.strand.vid) :
    (s.doubleTrap t).strand.phase = .halted ∧ (s.doubleTrap t).strand.sys = s.strand.sys ∧ (s.doubleTrap t).strand.s = s.strand.s ∧
    (s.doubleTrap t).strand.pc = s.strand.pc := by
  simp only [State.doubleTrap, State.autoRecover, modBlock_strand, true_and]
  generalize hp : (s.post _ _ _).1 = p
  have hk : p.regsViews = s.regsViews := hp ▸ post_regsViews _ _ _ _
  simp only [State.regsViews, Prod.mk.injEq] at hk
  obtain ⟨hsys, hs, hpc, hviews⟩ := hk
  rw [faultView_strand _ _ (by rwa [hviews])]
  exact ⟨hsys, hs, hpc⟩

/-- Settles O22: the bits of the saved status one by one, and a double trap's halt, which its posting and its view's fault leave alone. -/
theorem takingTraps : Obligations.TakingTraps := by
  unfold Obligations.TakingTraps
  refine ⟨fun s e async h => ⟨trapStatus s.strand.sys.status s.strand.lent.isSome, ?_, getLsbD_trapStatus _ _⟩,
    fun s e async h hv => ?_⟩
  · have htip : s.strand.tip = false := h
    simp only [State.enterTrap, htip, Bool.false_eq_true, if_false]
    rfl
  · rw [enterTrap_double h]
    exact doubleTrap_halts e hv

/-! ### The return from a trap -/

/-- The bits of sys.status at a return (R30). -/
theorem getLsbD_returnStatus (w : Word) (k : Nat) :
    (returnStatus w).getLsbD k = if k = 10 then w.getLsbD 11 else if k = 8 then w.getLsbD 12
      else if k = 13 ∨ k = 9 then false else w.getLsbD k := by
  simp only [returnStatus, bit, getLsbD_setBit _ (show 8 < 64 by decide), getLsbD_setBit _ (show 9 < 64 by decide),
    getLsbD_setBit _ (show 10 < 64 by decide), getLsbD_setBit _ (show 13 < 64 by decide)]
  grind

/-- What the results that land leave of a strand as it was: its pc, its schedule and the schedules it holds. -/
def Strand.flow (x : Strand) : Word × Sched × List Sched := (x.pc, x.sched, x.heldRegion)

theorem applyDest_flow (s : State) (d : Dest) : (applyDest s d).strand.flow = s.strand.flow := by
  cases d with
  | s r v | p r v =>
    simp only [applyDest, Strand.setS, Strand.setP]
    split <;> rfl
  | queue q v =>
    simp only [applyDest, State.setQueue]
    split <;> rfl
  | _ => rfl

theorem applyCommit_flow (s : State) (c : Commit) : (applyCommit s c).strand.flow = s.strand.flow := by
  have h : ∀ (l : List Dest) (t : State), (l.foldl applyDest t).strand.flow = t.strand.flow := fun l => by
    induction l with
    | nil => exact fun _ => rfl
    | cons d l ih => exact fun t => (ih _).trans (applyDest_flow t d)
  exact h c.dests s

theorem landing_flow (l : List Commit) (s : State) : (l.foldl applyCommit s).strand.flow = s.strand.flow := by
  induction l generalizing s with
  | nil => rfl
  | cons c l ih => exact (ih _).trans (applyCommit_flow s c)

/-- The strand that a return leaves, before its schedule thaws (R30). -/
def Strand.returned (x : Strand) : Strand :=
  { x with
    pc := x.sys.epc, sys := { x.sys with status := returnStatus x.sys.status }
    lent := if x.pfxBit then some (x.sys.pfx.setWidth 15) else none
    loop := if (match x.loop with
        | some l => decide (l.pc.toNat + 4 ≤ x.sys.epc.toNat ∧ x.sys.epc.toNat ≤ l.pc.toNat + 4 * l.len ∧ x.sys.epc.toNat % 4 = 0)
        | none => false) then x.loop.map (fun l => { l with running := true }) else none }

theorem returnTrap_eq (s : State) : s.returnTrap = State.thaw { s with strand := s.strand.returned } := rfl

theorem returned_mode (x : Strand) : x.returned.mode = x.sys.status.getLsbD 12 := by
  simp only [Strand.mode, Strand.returned, bit, getLsbD_returnStatus]
  rfl

/-- A return to an exposed region thaws the schedule that the trap froze, where it froze one. -/
theorem thaw_exposed_none {s : State} (h : s.strand.mode = true) (e : s.strand.heldRegion = []) : s.thaw = s := by
  simp only [State.thaw, h, e, if_true]

theorem thaw_exposed {s : State} (h : s.strand.mode = true) {r : Sched} {l : List Sched} (e : s.strand.heldRegion = r :: l) :
    s.thaw = { s with strand := { s.strand with sched := r, heldRegion := l, ticked := true } } := by
  simp only [State.thaw, h, e, if_true]

/-- A return to an interlocked region lands what is pending. -/
theorem thaw_interlocked {s : State} (h : s.strand.mode = false) :
    s.thaw = ((s.strand.heldRegion.take 1 ++ [s.strand.sched]).flatMap (fun r => commitOrder r.commits)).foldl applyCommit
      { s with strand := { s.strand with
        heldRegion := s.strand.heldRegion.drop 1, sched := { s.strand.sched with commits := [] } } } := by
  simp only [State.thaw, h, Bool.false_eq_true, if_false]

theorem thaw_pc (s : State) : s.thaw.strand.pc = s.strand.pc := by
  cases h : s.strand.mode with
  | true =>
    cases e : s.strand.heldRegion with
    | nil => rw [thaw_exposed_none h e]
    | cons r l => rw [thaw_exposed h e]
  | false =>
    rw [thaw_interlocked h]
    exact congrArg (·.1) (landing_flow _ _)

/-- A strand that has drained has no commit to carry over (R26). -/
theorem carryCommits_drained {s : State} (h : drained s s.strandId = true) : s.strand.carryCommits = s.strand := by
  simp only [drained, strandAt_self, Bool.and_eq_true, List.isEmpty_iff] at h
  unfold Strand.carryCommits
  split
  · rfl
  · simp [h.1]

/-- eret in supervisor mode with nothing to drain and an aligned sys.epc returns (R107). -/
theorem eret_returns {s : State} (ht : s.turn = none) (hp : s.strand.sys.status.getLsbD 10 = true) (hd : drained s s.strandId = true)
    (ha : s.strand.sys.epc.toNat % 4 = 0) : exec .eret s = .next (State.thaw { s with strand := s.strand.returned }) := by
  have he : exec .eret s = execEret s := rfl
  rw [he, execEret, privileged_on ht hp]
  simp [hd, ha, carryCommits_drained hd, returnTrap_eq]

/-- Where nothing is pending, a return changes the strand's schedules alone. -/
theorem thaw_nothingPending {s : State} (hc : s.strand.sched.commits = [])
    (h : s.strand.mode = true ∨ ∀ r ∈ s.strand.heldRegion.take 1, r.commits = []) :
    ∃ c l b, s.thaw = { s with strand := { s.strand with sched := c, heldRegion := l, ticked := b } } ∧
      (s.strand.mode = true → ∀ r m, s.strand.heldRegion = r :: m → c = r ∧ l = m) := by
  cases hm : s.strand.mode with
  | true =>
    cases e : s.strand.heldRegion with
    | nil => exact ⟨_, _, _, thaw_exposed_none hm e, by simp⟩
    | cons r m => exact ⟨r, m, true, thaw_exposed hm e, by simp⟩
  | false =>
    have hr : ∀ r ∈ s.strand.heldRegion.take 1, commitOrder r.commits = [] := fun r hr => by
      rw [h.resolve_left (by simp [hm]) r hr]; rfl
    have hs : commitOrder s.strand.sched.commits = [] := by rw [hc]; rfl
    have hl : (s.strand.heldRegion.take 1 ++ [s.strand.sched]).flatMap (fun r => commitOrder r.commits) = [] := by
      simpa [List.flatMap_eq_nil_iff, or_imp, forall_and, hs] using hr
    have e := thaw_interlocked hm
    rw [hl] at e
    exact ⟨_, _, _, e, by simp⟩

/-- Settles O24: `eret` returns, and its thaw lands what is pending or finds nothing to land. -/
theorem returnFromTrap : Obligations.ReturnFromTrap := by
  unfold Obligations.ReturnFromTrap
  refine ⟨fun s ht hp hd ha => ⟨_, eret_returns ht hp hd ha, thaw_pc _, thaw_mem _, fun h12 => ?_⟩, fun s ht hp hd ha hh => ?_⟩
  · have hm : ({ s with strand := s.strand.returned } : State).strand.mode = false := (returned_mode _).trans h12
    have hf := landing_flow ((s.strand.returned.heldRegion.take 1 ++ [s.strand.returned.sched]).flatMap (fun r => commitOrder r.commits))
      { s with strand := { s.strand.returned with
        heldRegion := s.strand.returned.heldRegion.drop 1, sched := { s.strand.returned.sched with commits := [] } } }
    rw [thaw_interlocked hm]
    simp only [Strand.flow, Prod.mk.injEq] at hf
    obtain ⟨-, hsched, hheld⟩ := hf
    exact ⟨by rw [hsched], hheld⟩
  · have hc : s.strand.sched.commits = [] := by
      simp only [drained, strandAt_self, Bool.and_eq_true, List.isEmpty_iff] at hd
      exact hd.1
    have hh' : s.strand.returned.mode = true ∨ ∀ r ∈ s.strand.returned.heldRegion.take 1, r.commits = [] := by
      rw [returned_mode]
      exact hh
    obtain ⟨c, l, b, e, hcl⟩ := thaw_nothingPending (s := { s with strand := s.strand.returned }) hc hh'
    refine ⟨_, eret_returns ht hp hd ha, ?_⟩
    rw [e]
    exact ⟨rfl, rfl, rfl, rfl, rfl, rfl, getLsbD_returnStatus _, rfl, fun h => hcl ((returned_mode _).trans h)⟩

end Sys2Proof.Machine
end

section
/-! The special registers (O26): `readSys` reads what the spec's tables say, and `mts` writes bit by bit by the access of its fields. -/

namespace Sys2Proof.Machine

/-! ### Masks and fields -/

/-- The mask of the bits [lo, hi]. -/
theorem getLsbD_bitsOf {lo hi k : Nat} (h : lo ≤ hi + 1) (hk : k < 64) : (bitsOf lo hi).getLsbD k = decide (lo ≤ k ∧ k ≤ hi) := by
  have hm : 2 ^ (hi + 1) - 2 ^ lo = 2 ^ lo * (2 ^ (hi + 1 - lo) - 1) := by
    rw [Nat.mul_sub, ← Nat.pow_add, Nat.add_sub_cancel' h, Nat.mul_one]
  rw [bitsOf, BitVec.getLsbD_ofNat, hm, Nat.testBit_two_pow_mul, Nat.testBit_two_pow_sub_one]
  simp only [hk, decide_true, Bool.true_and, ge_iff_le, ← Bool.decide_and, decide_eq_decide]
  omega

/-- The masks of a special register's access say of each bit what the field tables say (R21 to R23, R54, R204, R306, R391). -/
theorem sysAccess_bits (r : SysReg) {k : Nat} (hk : k < 64) :
    (sysAccess r).reserved.getLsbD k = decide (bitAccess r k = .reserved) ∧
    (sysAccess r).rwp.getLsbD k = decide (bitAccess r k = .rwp) ∧
    (sysAccess r).rw.getLsbD k = decide (bitAccess r k = .rw) ∧
    (sysAccess r).w1c.getLsbD k = decide (bitAccess r k = .w1c) := by
  cases r <;> simp (disch := omega) only [sysAccess, bitAccess, BitVec.getLsbD_or, getLsbD_bitsOf] <;> grind

/-- A word meets a mask in some bit, or in none. -/
theorem and_ne_zero_iff (x m : Word) : x &&& m ≠ 0 ↔ ∃ k, k < 64 ∧ m.getLsbD k = true ∧ x.getLsbD k = true := by
  constructor
  · intro h
    by_contra hn
    push Not at hn
    refine h (BitVec.eq_of_getLsbD_eq fun k hk => ?_)
    by_cases hm : m.getLsbD k = true
    · simpa [hm] using hn k hk hm
    · simp [hm]
  · rintro ⟨k, -, hm, hx⟩ h
    have hk := congrArg (·.getLsbD k) h
    simp [hm, hx] at hk

theorem reserved_iff (r : SysReg) (x : Word) :
    x &&& (sysAccess r).reserved ≠ 0 ↔ ∃ k, k < 64 ∧ bitAccess r k = .reserved ∧ x.getLsbD k = true := by
  rw [and_ne_zero_iff]
  refine exists_congr fun k => and_congr_right fun hk => ?_
  rw [(sysAccess_bits r hk).1, decide_eq_true_iff]

theorem rwp_changed_iff (r : SysReg) (x old : Word) :
    (x ^^^ old) &&& (sysAccess r).rwp ≠ 0 ↔ ∃ k, k < 64 ∧ bitAccess r k = .rwp ∧ x.getLsbD k ≠ old.getLsbD k := by
  rw [and_ne_zero_iff]
  refine exists_congr fun k => and_congr_right fun hk => ?_
  rw [(sysAccess_bits r hk).2.1, decide_eq_true_iff, BitVec.getLsbD_xor, ← Bool.bne_eq_xor, bne_iff_ne]

theorem field_extract (x : Word) (lo n : Nat) : field x lo n = (x.extractLsb' lo n).toNat := by
  rw [BitVec.extractLsb'_toNat, Nat.shiftRight_eq_div_pow, field]

theorem breaksLimit_iff (r : SysReg) (x : Word) : breaksLimit r x = true ↔ ¬ fieldLimit r x := by
  cases r <;> simp only [breaksLimit, fieldLimit, field_extract, Bool.or_eq_true, decide_eq_true_iff] <;> grind

/-! ### Reading and writing -/

theorem peerWord_eq (s : State) : peerWord s = BitVec.ofNat 64 (Config.deviceId.toNat + if s.mgmt.fab then 4096 else 0) := by
  unfold peerWord
  cases s.mgmt.fab <;> decide

/-- `mfs` reads what the spec gives each register (R114, R21). -/
theorem readSys_eq (s : State) (r : SysReg) : readSys s r = sysValue s r := by
  cases r with
  | peer => exact peerWord_eq s
  | _ => rfl

/-- The bits of the value that `mts` leaves, by their access (R115). -/
theorem getLsbD_mtsValue (r : SysReg) (old x : Word) {k : Nat} (hk : k < 64) :
    (mtsValue (sysAccess r) old x).getLsbD k = match bitAccess r k with
      | .rw | .rwp => x.getLsbD k
      | .w1c => old.getLsbD k && !x.getLsbD k
      | .ro | .reserved => old.getLsbD k := by
  obtain ⟨-, hrwp, hrw, hw1c⟩ := sysAccess_bits r hk
  simp only [mtsValue, BitVec.getLsbD_and, BitVec.getLsbD_or, BitVec.getLsbD_not, hk, hrwp, hrw, hw1c]
  cases bitAccess r k <;> simp

/-- A register without a field that software may write keeps its value. -/
theorem mtsValue_readOnly {r : SysReg} (h : r = .lanemap ∨ r = .peer ∨ r = .cycle) (old x : Word) :
    mtsValue (sysAccess r) old x = old := by
  have hro : ∀ k < 64, bitAccess r k ≠ .rw ∧ bitAccess r k ≠ .rwp ∧ bitAccess r k ≠ .w1c := by
    rcases h with rfl | rfl | rfl <;> simp only [bitAccess] <;> grind
  refine BitVec.eq_of_getLsbD_eq fun k hk => ?_
  obtain ⟨hrw, hrwp, hw1c⟩ := hro k hk
  rw [getLsbD_mtsValue r old x hk]
  split <;> simp_all

/-- The registers of a strand that has written one of them. -/
theorem sysValue_writeSys_other (s : State) {q r : SysReg} (h : q ≠ r) (v : Word) :
    sysValue { s with strand := s.strand.writeSys r v } q = sysValue s q := by
  cases q with
  | lanemap | peer | cycle => rfl
  | _ => cases r <;> simp_all [sysValue, Strand.writeSys]

/-- The state with what `mts` of a value leaves in a special register (R115). -/
def State.wroteSys (s : State) (r : SysReg) (x : Word) : State :=
  { s with strand := s.strand.writeSys r (mtsValue (sysAccess r) (sysValue s r) x) }

theorem sysValue_wroteSys (s : State) (r : SysReg) (x : Word) :
    sysValue (s.wroteSys r x) r = mtsValue (sysAccess r) (sysValue s r) x := by
  cases r with
  | lanemap | peer | cycle => exact (mtsValue_readOnly (by simp) _ _).symm
  | _ => rfl

theorem sysValue_retire {s : State} (h : s.turn = none) (r : SysReg) : sysValue s.retire r = sysValue s r := by
  rw [retire_strand h]
  cases r <;> rfl

/-- The traps of a strand on an instruction's word (R76, R77). -/
theorem stop_illegal {s : State} (ht : s.turn = none) (i : Instr) : s.stop (illegal s i) = s.takeTrap
    { code := 0x01, data := wordOf i, vec := false, sub := 0, pa := 0xFFFFFFFFFFFFFFFF } := by
  simp only [illegal, illegalWith, ht, Option.isSome_none, Bool.false_eq_true, if_false, trapOf, stop_trap ht]

theorem stop_privilege {s : State} (ht : s.turn = none) (i : Instr) : s.stop (privilege i) = s.takeTrap
    { code := 0x02, data := wordOf i, vec := false, sub := 0, pa := 0xFFFFFFFFFFFFFFFF } := stop_trap ht _

/-- `mts` of a strand under its guard (R115). -/
theorem exec_mts {s : State} (ht : s.turn = none) (hg : s.guard0 = true) (r : SysReg) (a : SReg) :
    exec (.mts r a) s = .next (
      if s.rdS a &&& (sysAccess r).reserved ≠ 0 ∨ breaksLimit r (s.rdS a) = true then
        s.takeTrap { code := 0x01, data := wordOf (.mts r a), vec := false, sub := 0, pa := 0xFFFFFFFFFFFFFFFF }
      else if s.strand.priv = false ∧ (s.rdS a ^^^ sysValue s r) &&& (sysAccess r).rwp ≠ 0 then
        s.takeTrap { code := 0x02, data := wordOf (.mts r a), vec := false, sub := 0, pa := 0xFFFFFFFFFFFFFFFF }
      else (s.wroteSys r (s.rdS a)).retire) := by
  have he : exec (.mts r a) s = execMts r a s := rfl
  rw [he, execMts, onStrand_strand ht, guarded_on hg]
  simp only [readSys_eq, stop_illegal ht, stop_privilege ht, Bool.not_eq_true']
  rfl

/-- A value with a 1 in a reserved field or beyond a limit is what the two checks of `mts` find (R115). -/
theorem mts_illegal_iff (r : SysReg) (x : Word) : (x &&& (sysAccess r).reserved ≠ 0 ∨ breaksLimit r x = true) ↔
    ((∃ k, k < 64 ∧ bitAccess r k = .reserved ∧ x.getLsbD k = true) ∨ ¬ fieldLimit r x) := by
  rw [reserved_iff, breaksLimit_iff]

/-- A value without a 1 in a reserved field and within the limits passes them. -/
theorem mts_legal {r : SysReg} {x : Word} (hr : ∀ k, k < 64 → bitAccess r k = .reserved → x.getLsbD k = false) (hl : fieldLimit r x) :
    ¬ (x &&& (sysAccess r).reserved ≠ 0 ∨ breaksLimit r x = true) := by
  rw [mts_illegal_iff]
  rintro (⟨k, hk, hres, hx⟩ | hn)
  · simp [hr k hk hres] at hx
  · exact hn hl

/-- Settles O26: the checks of `mts` by their bits, and the value it leaves, bit by bit. -/
theorem specialRegisters : Obligations.SpecialRegisters := by
  unfold Obligations.SpecialRegisters
  refine ⟨fun d r s hg => ?_, fun r a s ht hg hr hl hp => ?_, fun r a s ht hg => ⟨fun hbad => ?_, fun hr hl hpriv hch => ?_⟩⟩
  · have he : exec (.mfs d r) s = execMfs d r s := rfl
    rw [he, execMfs, State.scalar, guarded_on hg, readSys_eq]
  · have hpass : ¬ (s.strand.priv = false ∧ (s.rdS a ^^^ sysValue s r) &&& (sysAccess r).rwp ≠ 0) := by
      rintro ⟨hpriv, hch⟩
      obtain ⟨k, hk, hrwp, hne⟩ := (rwp_changed_iff _ _ _).mp hch
      have hp := hp.resolve_left (fun h => Bool.false_ne_true (hpriv.symm.trans h))
      exact hne (hp k hk hrwp)
    have htw : (s.wroteSys r (s.rdS a)).turn = none := ht
    rw [exec_mts ht hg, if_neg (mts_legal hr hl), if_neg hpass]
    refine ⟨_, rfl, fun k hk => ?_, fun q hq => ?_, ?_⟩
    · rw [sysValue_retire htw, sysValue_wroteSys]
      exact getLsbD_mtsValue r _ _ hk
    · rw [sysValue_retire htw]
      exact sysValue_writeSys_other s hq _
    · rw [retire_strand htw]
      rfl
  · rw [exec_mts ht hg, if_pos ((mts_illegal_iff _ _).mpr hbad)]
  · rw [exec_mts ht hg, if_neg (mts_legal hr hl), if_pos ⟨hpriv, (rwp_changed_iff _ _ _).mpr hch⟩]

end Sys2Proof.Machine
end

section
/-! The gates of the vector instructions (O34): each runs behind `vecGate`, which stops on an undeclared register and on an empty lease. -/

namespace Sys2Proof.Machine

/-! ### The gate -/

/-- A vector instruction does nothing before its gate (R17, R19). -/
def Gated (i : Instr) (s : State) : Prop := ∃ f, exec i s = .next (s.vecGate i true f)

theorem vregsOk_iff (x : Strand) (i : Instr) : vregsOk x i = true ↔ ∀ r ∈ vregsOf i, r.toNat < x.nreg := by
  simp [vregsOk]

/-- A strand's vector instruction that names an undeclared register (R19). -/
theorem Gated.undeclared {i : Instr} {s : State} (h : Gated i s) (ht : s.turn = none) (hr : ∃ r ∈ vregsOf i, s.strand.nreg ≤ r.toNat) :
    exec i s = .next (s.takeTrap { code := 0x01, data := wordOf i, vec := true, sub := 0, pa := 0xFFFFFFFFFFFFFFFF }) := by
  obtain ⟨f, hf⟩ := h
  have hn : vregsOk s.strand i = false := by
    rw [← Bool.not_eq_true, vregsOk_iff]
    push Not
    exact hr
  rw [hf, State.vecGate, onStrand_strand ht, hn]
  simp [illegal, illegalWith, ht, vecStop, trapOf, stop_trap]

/-- A strand's vector instruction that comes with an empty lease (R17). -/
theorem Gated.unleased {i : Instr} {s : State} (h : Gated i s) (ht : s.turn = none) (hr : ∀ r ∈ vregsOf i, r.toNat < s.strand.nreg)
    (hg : s.strand.grant = 0) :
    exec i s = .next (s.takeTrap { code := 0x06, data := 0, vec := true, sub := 0, pa := 0xFFFFFFFFFFFFFFFF }) := by
  obtain ⟨f, hf⟩ := h
  rw [hf, State.vecGate, onStrand_strand ht, (vregsOk_iff _ _).mpr hr]
  simp [hg, leaseAbsent, vecStop, trapOf, stop_trap, ht]

/-! ### The instructions behind it -/

/-- The rows of arithmetic, bits, shifts, compares, reductions and moves are behind the gate. -/
theorem gated_of_row {i : Instr} {s : State} (h : (vectorRow i).isSome ∨ (bitsRow i).isSome ∨ (shiftRow i).isSome ∨ (compareRow i).isSome ∨
    (reduceRow s i).isSome ∨ (reduceBitsRow i).isSome ∨ (moveRow i).isSome) : Gated i s := by
  unfold vectorRow bitsRow shiftRow compareRow reduceRow reduceBitsRow moveRow at h
  rcases h with h | h | h | h | h | h | h <;> split at h <;> cases h
  all_goals exact ⟨_, rfl⟩

/-- Settles O34: every vector instruction of the rows is behind the gate. -/
theorem vectorGates : Obligations.VectorGates := by
  unfold Obligations.VectorGates
  exact fun i s h ht => ⟨(gated_of_row h).undeclared ht, (gated_of_row h).unleased ht⟩

end Sys2Proof.Machine
end

section
/-! A step of a strand (O4): the fetch of its word leaves the strand and the turn as they were, and so it issues the word's instruction. -/

namespace Sys2Proof.Machine

/-! ### What the slices do leaves the agents as they are -/

/-- `t` has the turn and the current strand of `s`. -/
structure SameAgent (s t : State) : Prop where
  turn : t.turn = s.turn
  strandId : t.strandId = s.strandId
  strand : t.strand = s.strand

@[simp] theorem sameAgent_self (s : State) : SameAgent s s := ⟨rfl, rfl, rfl⟩

theorem SameAgent.trans {s t u : State} (h : SameAgent s t) (g : SameAgent t u) : SameAgent s u :=
  ⟨g.turn.trans h.turn, g.strandId.trans h.strandId, g.strand.trans h.strand⟩

theorem foldl_sameAgent {α : Type} {f : State → α → State} (hf : ∀ s a, SameAgent s (f s a)) (l : List α) (s : State) :
    SameAgent s (l.foldl f s) := by
  induction l generalizing s with
  | nil => exact sameAgent_self s
  | cons a l ih => exact (hf s a).trans (ih _)

theorem setDie_sameAgent (s : State) (d : Nat) (x : DieSt) : SameAgent s (s.setDie d x) := ⟨rfl, rfl, rfl⟩

theorem setBarista_sameAgent (s : State) (b : Nat) (x : Barista) : SameAgent s (s.setBarista b x) := ⟨rfl, rfl, rfl⟩

theorem keep_sameAgent (s : State) (l : List Translation) : SameAgent s (s.keep l) := by
  unfold State.keep
  dsimp only
  split <;> exact ⟨rfl, rfl, rfl⟩

theorem modLlc_sameAgent (s : State) (k : Nat) (f : LlcLine → LlcLine) : SameAgent s (s.modLlc k f) := by
  unfold State.modLlc
  split <;> exact ⟨rfl, rfl, rfl⟩

theorem modView_sameAgent (s : State) (v : Nat) (f : View → View) : SameAgent s (s.modView v f) := by
  unfold State.modView
  split <;> exact ⟨rfl, rfl, rfl⟩

theorem noteFill_sameAgent (s : State) (sec : Nat) : SameAgent s (s.noteFill sec) := by
  unfold State.noteFill
  (repeat' split) <;> exact ⟨rfl, rfl, rfl⟩

theorem storeLine_sameAgent (s : State) (line : Nat) (page : PageAttr) : SameAgent s (s.storeLine line page) := by
  unfold State.storeLine
  split <;> exact ⟨rfl, rfl, rfl⟩

theorem startGrinder_sameAgent (s : State) (sector : Nat) (page : PageAttr) : SameAgent s (startGrinder s sector page) := by
  unfold startGrinder
  split <;> exact ⟨rfl, rfl, rfl⟩

theorem evictBase_sameAgent (s : State) (line : Nat) (page : PageAttr) : SameAgent s (evictBase s line page) := by
  have hr (l) : SameAgent s (recallSectors s l) := ⟨rfl, rfl, rfl⟩
  unfold evictBase
  dsimp only
  split
  · exact hr _
  · refine SameAgent.trans ?_ (storeLine_sameAgent _ _ _)
    split
    · exact (hr _).trans (foldl_sameAgent (fun t x => startGrinder_sameAgent t x page) _ _)
    · exact hr _

theorem evictLine_sameAgent (s : State) (key : Nat) (e : LlcLine) : SameAgent s (evictLine s key e) := by
  have hl : SameAgent s { s with llc := eraseNat key s.llc } := ⟨rfl, rfl, rfl⟩
  unfold evictLine evictCopies
  dsimp only
  split
  · exact hl.trans (evictBase_sameAgent _ _ _)
  · exact hl.trans (modView_sameAgent _ _ _)

theorem setLlc_sameAgent {s t : State} (h : SameAgent s t) (l : List (Nat × LlcLine)) : SameAgent s { t with llc := l } :=
  ⟨h.turn, h.strandId, h.strand⟩

theorem llcFillSector_sameAgent (s : State) (key i part : Nat) (page : PageAttr) (rg : Option Nat) :
    SameAgent s (llcFillSector s key i part page rg) := by
  unfold llcFillSector
  dsimp only
  generalize ht : (if key % 4096 = 0 then
    { s.noteFill (key / 4096 * 4 + i) with pages := insertNat (key / 4096) page s.pages } else s : State) = t
  have hs : SameAgent s t := by
    subst ht
    split
    · exact SameAgent.trans (noteFill_sameAgent s _) ⟨rfl, rfl, rfl⟩
    · exact sameAgent_self s
  split
  · exact setLlc_sameAgent hs _
  · refine setLlc_sameAgent (hs.trans ?_) _
    (repeat' split)
    · exact evictLine_sameAgent _ _ _
    · exact sameAgent_self _
    · exact sameAgent_self _

theorem llcRequest_sameAgent (s : State) (key i part : Nat) (page : PageAttr) (rg : Option Nat) :
    SameAgent s (llcRequest s key i part page rg) := by
  unfold llcRequest
  dsimp only
  split
  · exact sameAgent_self s
  · split
    · split
      · exact ⟨rfl, rfl, rfl⟩
      · exact llcFillSector_sameAgent _ _ _ _ _ _
    · exact llcFillSector_sameAgent _ _ _ _ _ _

theorem passToLlc_sameAgent (s : State) (key : Nat) (gone : List (Nat × Slot)) : SameAgent s (passToLlc s key gone) := by
  refine foldl_sameAgent (fun t e => ?_) gone s
  dsimp only
  (repeat' split)
  · exact modLlc_sameAgent _ _ _
  · exact sameAgent_self t
  · exact sameAgent_self t
  · exact sameAgent_self t
  · exact (llcRequest_sameAgent _ _ _ _ _ _).trans (modLlc_sameAgent _ _ _)

theorem queueEvent_sameAgent (s : State) (b : Nat) (e : HandlerEvent) : SameAgent s (s.queueEvent b e) := by
  unfold State.queueEvent
  dsimp only
  (repeat' split) <;> exact setBarista_sameAgent _ _ _

theorem replaceWay_sameAgent (s : State) (die way : Nat) : SameAgent s (replaceWay s die way) := by
  have hp (d l gone) : SameAgent s (passToLlc (s.setDie die d) l gone) :=
    (setDie_sameAgent s die d).trans (passToLlc_sameAgent _ l gone)
  unfold replaceWay
  dsimp only
  (repeat' split)
  · exact sameAgent_self s
  · exact sameAgent_self s
  · exact hp _ _ _
  · exact hp _ _ _
  · exact hp _ _ _
  · exact (hp _ _ _).trans (queueEvent_sameAgent _ _ _)

theorem fromLlc_sameAgent (s : State) (die part : Nat) (p : Page) (sec w : Nat) : SameAgent s (fromLlc s die part p sec w) := by
  unfold fromLlc
  dsimp only
  (repeat' split)
  · exact (llcRequest_sameAgent _ _ _ _ _ _).trans (modLlc_sameAgent _ _ _)
  · exact sameAgent_self s
  · exact (llcRequest_sameAgent _ _ _ _ _ _).trans (modView_sameAgent _ _ _)
  · exact sameAgent_self s

theorem installSlot_sameAgent (s : State) (die part : Nat) (asid : BitVec 12) (va : Word) (p : Page) (sec v : Nat) :
    SameAgent s (installSlot s die part asid va p sec v) :=
  (fromLlc_sameAgent _ _ _ _ _ _).trans ((setDie_sameAgent _ _ _).trans (replaceWay_sameAgent _ _ _))

theorem installSlots_sameAgent (s : State) (die part : Nat) (asid : BitVec 12) (va : Word) (p : Page) (line : Nat) (mask : BitVec 4)
    (v : Nat) : SameAgent s (installSlots s die part asid va p line mask v) := by
  refine foldl_sameAgent (fun t i => ?_) _ s
  split
  · exact installSlot_sameAgent _ _ _ _ _ _ _ _
  · exact sameAgent_self t

theorem raiseEvent_sameAgent (s : State) (ctx : Ctx) (p : Page) (va : Word) (kind : BitVec 2) (mask dirty : BitVec 4) (hop : BitVec 4)
    (write engine : Bool) : SameAgent s (raiseEvent s ctx p va kind mask dirty hop write engine) := by
  unfold raiseEvent
  dsimp only
  (repeat' split) <;> simp [queueEvent_sameAgent]

theorem fillLine_sameAgent (s : State) (ctx : Ctx) (p : Page) (va : Word) (miss : BitVec 4) (write engine : Bool) :
    SameAgent s (fillLine s ctx p va miss write engine) := by
  unfold fillLine
  dsimp only
  split
  · exact installSlots_sameAgent _ _ _ _ _ _ _ _ _
  · exact ((raiseEvent_sameAgent _ _ _ _ _ _ _ _ _ _).trans (installSlots_sameAgent _ _ _ _ _ _ _ _ _)).trans
      (raiseEvent_sameAgent _ _ _ _ _ _ _ _ _ _)

/-- A request to the slice leaves the agents as they are (R318, R327). -/
theorem touch_sameAgent (s : State) (ctx : Ctx) (p : Page) (va : Word) (mask : BitVec 4) (write engine : Bool) :
    SameAgent s (s.touch ctx p va mask write engine) := by
  unfold State.touch
  dsimp only
  (repeat' split)
  · exact sameAgent_self s
  · exact sameAgent_self s
  · exact fillLine_sameAgent _ _ _ _ _ _ _

/-! ### The fetch of a strand -/

/-- A strand's fetch leaves the strand as it is (R327). -/
theorem fetched_sameAgent {s : State} (ht : s.turn = none) : SameAgent s s.fetched := by
  unfold State.fetched State.fetchedAt
  split
  · exact sameAgent_self s
  · split
    · exact sameAgent_self s
    · split
      · exact sameAgent_self s
      · simp only [ht]
        exact (touch_sameAgent _ _ _ _ _ _ _).trans (keep_sameAgent _ _)

/-- A strand that waits for nothing has its word from the fetch at once. -/
theorem fetched_ready {s : State} (ht : s.turn = none) (hw : s.strand.wait = none) : s.fetched.waiting = false := by
  obtain ⟨hturn, -, hstrand⟩ := fetched_sameAgent ht
  simp only [State.waiting, hturn, ht, hstrand, hw, Option.isSome_none]

/-! ### Issue -/

/-- What a step makes of an instruction's outcome (R235, R281, logs 1 to 3). -/
theorem issue_eq (i : Instr) (s : State) : issue i s = match exec i s with
    | .next t => if overFull s t || overBound s t then .next (stallClock s) else .next (endTurn (dropReplies t))
    | r => r := by
  unfold issue
  split <;> simp_all [after]

/-- A word without a lent prefix stands for what it decodes to (R66, R73). -/
theorem issueOf_decoded {s : State} {w : BitVec 32} {i : Instr} (ht : s.turn = none) (hl : s.lent = none) (hd : decodeWord w = .ok i) :
    issueOf s w = i := by
  have hf : decodeFields (unpackWord w) = .ok i := hd
  simp only [issueOf, hl, hf, ht, Option.isNone_none, Bool.true_or, Bool.and_true, if_true]

/-- A strand that stands at no end of a pass and at no boundary before one issues the instruction of its word. -/
theorem runAgent_strand {s : State} {w : BitVec 32} {i : Instr} (ht : s.turn = none) (hw : s.strand.wait = none)
    (he : s.atPassEnd = none) (hs : s.atPassStart = none) (hl : s.lent = none) (hf : fetchWord s = .ok w) (hd : decodeWord w = .ok i) :
    runAgent s = issue i s.fetched := by
  simp only [runAgent, he, hs, hf, fetched_ready ht hw, issueOf_decoded ht hl hd, Bool.false_eq_true, if_false]

theorem resume_strand {s : State} (ht : s.turn = none) :
    (resume s).turn = none ∧ (resume s).strandId = s.strandId ∧ (resume s).strand = { s.strand with wait := none } := by
  have ho : s.offered.turn = none ∧ s.offered.strandId = s.strandId ∧ s.offered.strand = s.strand := by
    unfold State.offered
    split <;> exact ⟨ht, rfl, rfl⟩
  obtain ⟨hturn, hid, hstrand⟩ := ho
  simp only [resume, hturn, hid, hstrand, and_self]

/-- Settles O4: a step is `runAgent` of the resumed strand, whose fetch leaves it ready. -/
theorem stepRunsDecoded : Obligations.StepRunsDecoded := by
  unfold Obligations.StepRunsDecoded
  intro s w i hin hheld hdue hrun hready ht hlate hpe hps hl hf hd
  obtain ⟨hrt, hrid, hrs⟩ := resume_strand ht
  have hrl : (resume s).lent = none := by
    rw [lent_strand hrt, hrs]
    exact (lent_strand ht).symm.trans hl
  have hstep : step s = runAgent (resume s) := by
    simp only [step, hin, hheld, hdue, hrun, hready, Bool.and_self, if_true, turnOf, hrt, hrid, hlate, Bool.false_eq_true, if_false]
  rw [hstep, runAgent_strand hrt (by rw [hrs]) hpe hps hrl hf hd]
  exact issue_eq i (resume s).fetched

end Sys2Proof.Machine
end

section
/-! The ends of waits (O53): the end of a wait, and what a grant leaves of a strand and of the copies of its core. -/

namespace Sys2Proof.Machine

/-! ### A wait that is over -/

/-- A wait of a running clock ends (R25). -/
theorem rerun_of_stall {x : Strand} {w : Wait} (h : x.wait = some w) (hs : stalls w = true) : x.rerun = { x with wait := none } := by
  simp [Strand.rerun, Strand.endWait, h, hs]

/-- A wait that froze the schedule clock ends, which stands still to the end of the clock (R25, log 2). -/
theorem rerun_of_freeze {x : Strand} {w : Wait} (h : x.wait = some w) (hs : stalls w = false) :
    x.rerun = { x with wait := none, ticked := true } := by
  simp [Strand.rerun, Strand.endWait, h, hs]

/-- A strand that waits, or runs, is not as after reset. -/
theorem ne_reset_of_running {x : Strand} (h : x.phase = .running) : x ≠ Strand.reset := by
  rintro rfl
  simp [Strand.reset] at h

/-! ### Lists by key -/

theorem lookupNat_forall {α : Type} {P : α → Prop} {d : α} (hd : P d) (k : Nat) {l : List (Nat × α)} (h : ∀ e ∈ l, P e.2) :
    P ((lookupNat k l).getD d) := by
  induction l with
  | nil => exact hd
  | cons e l ih =>
    rw [List.forall_mem_cons] at h
    unfold lookupNat
    split
    · exact h.1
    · exact ih h.2

/-- All entries have a property after a write of one that has it where the entry in its place had it. -/
theorem forall_insertNat {α : Type} {P : α → Prop} {d : α} (hd : P d) {k : Nat} {a : α} {l : List (Nat × α)}
    (ha : P a ↔ P ((lookupNat k l).getD d)) : (∀ e ∈ insertNat k a l, P e.2) ↔ ∀ e ∈ l, P e.2 := by
  induction l with
  | nil => simpa [insertNat, lookupNat, hd] using ha
  | cons e l ih =>
    obtain ⟨j, b⟩ := e
    by_cases hlt : k < j
    · have hpa : (∀ e ∈ (j, b) :: l, P e.2) → P a := fun h => ha.mpr (lookupNat_forall hd k h)
      simp only [insertNat, hlt, if_true, List.forall_mem_cons] at hpa ⊢
      exact and_iff_right_of_imp hpa
    · by_cases he : k = j
      · subst he
        have hab : P a ↔ P b := by simpa [lookupNat] using ha
        simp only [insertNat, lt_irrefl, if_false, if_true, List.forall_mem_cons, hab]
      · have hl : P a ↔ P ((lookupNat k l).getD d) := by simpa [lookupNat, Ne.symm he] using ha
        simp only [insertNat, hlt, he, if_false, List.forall_mem_cons, ih hl]

/-! ### Lanes and copies of a core -/

theorem copiesOf_eq_nil_iff (s : State) (g : Nat) : copiesOf s g = [] ↔ ∀ e ∈ s.cores, ∀ r ∈ e.2.copies, r.gid ≠ some g := by
  simp [copiesOf, List.flatMap_eq_nil_iff, List.filter_eq_nil_iff]

/-- `t` differs from `s` in its cores alone, and strand `g` has copies in flight in both or in neither. -/
structure LanesOnly (g : Nat) (s t : State) : Prop where
  rest : t = { s with cores := t.cores }
  copies : copiesOf t g = [] ↔ copiesOf s g = []

theorem LanesOnly.refl (g : Nat) (s : State) : LanesOnly g s s := ⟨rfl, Iff.rfl⟩

theorem LanesOnly.trans {g : Nat} {s t u : State} (h : LanesOnly g s t) (k : LanesOnly g t u) : LanesOnly g s u :=
  ⟨k.rest.trans (by rw [h.rest]), k.copies.trans h.copies⟩

theorem LanesOnly.strandAt {g : Nat} {s t : State} (h : LanesOnly g s t) (k : Nat) : t.strandAt k = s.strandAt k := by
  rw [h.rest]
  rfl

/-- A write of a core that keeps its copies. -/
theorem setCore_lanesOnly (g : Nat) (s : State) (c : Nat) {x : CoreSt} (h : x.copies = (s.core c).copies) : LanesOnly g s (s.setCore c x) := by
  refine ⟨rfl, ?_⟩
  rw [copiesOf_eq_nil_iff, copiesOf_eq_nil_iff]
  exact forall_insertNat (P := fun x : CoreSt => ∀ r ∈ x.copies, r.gid ≠ some g) (d := CoreSt.reset) (by simp [CoreSt.reset])
    (by rw [h]; rfl)

theorem retireLanes_lanesOnly (g : Nat) (s : State) (k : Nat) : LanesOnly g s (retireLanes s k) := by
  unfold retireLanes
  dsimp only
  split
  · exact LanesOnly.refl g s
  · exact setCore_lanesOnly g s _ rfl

theorem darkenFree_lanesOnly (g : Nat) (s : State) (c : Nat) : LanesOnly g s (darkenFree s c) := by
  unfold darkenFree
  dsimp only
  (repeat' split)
  · exact LanesOnly.refl g s
  · exact LanesOnly.refl g s
  · exact setCore_lanesOnly g s _ rfl

theorem setStrandAt_copiesOf (s : State) (k : Nat) (x : Strand) (g : Nat) : copiesOf (s.setStrandAt k x) g = copiesOf s g := by
  unfold copiesOf
  rw [setStrandAt_cores]

/-! ### A grant -/

/-- What a grant leaves of a strand as it was. -/
def Strand.base (x : Strand) : Phase × Word × Vector Word 64 := (x.phase, x.pc, x.s)

/-- What a grant leaves of a strand, and its lease. -/
def Strand.granted (x : Strand) : (Phase × Word × Vector Word 64) × Word := (x.base, x.sys.lease)

theorem reshape_granted (x : Strand) (m n : Nat) : (x.reshape m n).granted = x.granted := by
  simp only [Strand.granted, Strand.base, Strand.reshape]

theorem setVcfg_granted (x : Strand) (w : Word) : (x.setVcfg w).granted = x.granted := by
  simp only [Strand.granted, Strand.base, Strand.setVcfg]

theorem setVl_granted (x : Strand) (n : Nat) : (x.setVl n).granted = x.granted := setVcfg_granted x _

/-- What follows a grant changes neither (R121, R231). -/
theorem follow_granted (x : Strand) (n : Nat) : (x.follow n).granted = x.granted := by
  unfold Strand.follow
  extract_lets m src y z
  have hy : y.granted = x.granted := by
    have hsrc : src.granted = x.granted := reshape_granted x _ m
    simp only [y]
    clear_value src
    split
    · exact hsrc
    · split
      · next v k hv hk => exact reshape_granted { x with v := v.v, p := v.p, tiles := v.tiles } v.vlmax m
      · split
        · rfl
        · exact reshape_granted x _ m
  have hz : z.granted = x.granted := (setVcfg_granted y _).trans hy
  clear_value z
  split
  · exact (setVl_granted z m).trans hz
  · exact hz

/-- A strand with a lease, as its age then settles (R229, R230). -/
theorem settleAge_base (x : Strand) (w : Word) : ((x.setLease w).settleAge).base = x.base := rfl

/-- A grant changes the strand that takes it, and what the cores say of lanes (R230). -/
theorem applyGrant_strand {s : State} {g : Nat} (h : (s.strandAt g).phase = .running) :
    ((applyGrant s g).strandAt g).base = (s.strandAt g).base ∧ (copiesOf (applyGrant s g) g = [] ↔ copiesOf s g = []) := by
  unfold applyGrant
  extract_lets d c x target map held kept released free took now y u
  have hd : LanesOnly g s d := (retireLanes_lanesOnly g s g).trans (darkenFree_lanesOnly g _ _)
  have hb : y.settleAge.base = (s.strandAt g).base := by
    rw [← hd.strandAt g]
    exact settleAge_base x _
  clear_value y released d
  have hr : y.settleAge ≠ Strand.reset := ne_reset_of_running ((congrArg (·.1) hb).trans h)
  have hu : u.strandAt g = y.settleAge := strandAt_setStrandAt_live d g hr
  have hcop : copiesOf u g = [] ↔ copiesOf s g = [] := by rw [← hd.copies, ← setStrandAt_copiesOf d g y.settleAge g]
  clear_value u
  split
  · exact ⟨by rw [hu, hb], hcop⟩
  · have hl := setCore_lanesOnly g u c (x := { u.core c with pendingFree := (u.core c).pendingFree ++ released.map (fun k => (k, g)) }) rfl
    exact ⟨by rw [hl.strandAt, hu, hb], hl.copies.trans hcop⟩

end Sys2Proof.Machine
end

section
/-! The ends of waits (O53): a strand that takes its grant, and a task that resumes with the copies it left in flight. -/

namespace Sys2Proof.Machine

theorem granted_phase {x y : Strand} (h : x.granted = y.granted) : x.phase = y.phase := congrArg (·.1.1) h
theorem granted_lease {x y : Strand} (h : x.granted = y.granted) : x.sys.lease = y.sys.lease := congrArg (·.2) h

theorem assayGate_lanesOnly (g : Nat) (s : State) (c : Nat) : LanesOnly g s (s.assayGate c) := setCore_lanesOnly g s c rfl

/-- The vector state that the save engine brings back leaves the rest of the strand (R231). -/
theorem restored_strand {s : State} {g : Nat} (h : (s.strandAt g).phase = .running) :
    ((s.restored g).strandAt g).granted = (s.strandAt g).granted ∧ (copiesOf (s.restored g) g = [] ↔ copiesOf s g = []) := by
  unfold State.restored
  extract_lets x
  split
  · next z hz =>
    split
    · exact ⟨rfl, Iff.rfl⟩
    · have hr : ({ x with leaseZero := some (savedNow s g z) } : Strand) ≠ Strand.reset := ne_reset_of_running h
      have hl := assayGate_lanesOnly g (s.setStrandAt g { x with leaseZero := some (savedNow s g z) }) (coreOf g)
      refine ⟨?_, by rw [hl.copies, setStrandAt_copiesOf]⟩
      rw [hl.strandAt, strandAt_setStrandAt_live s g hr]
      simp only [Strand.granted, Strand.base, x]
  · exact ⟨rfl, Iff.rfl⟩

/-- A strand whose wait for a grant is over: it goes on with the instruction that has begun (R121, R231). -/
def Strand.taking (y : Strand) (now : Nat) : Strand :=
  { y with lastBoundary := now, weights := Vector.replicate 4 none, wait := none, progress := some .granted }

theorem taking_granted (y : Strand) (now : Nat) : (y.taking now).granted = y.granted := by
  simp only [Strand.granted, Strand.base, Strand.taking]

theorem taking_wait (y : Strand) (now : Nat) : (y.taking now).wait = none := rfl
theorem taking_progress (y : Strand) (now : Nat) : (y.taking now).progress = some .granted := rfl

/-- A grant that a waiting strand takes (R230). -/
theorem takeGrant_eq (s : State) (g : Nat) : takeGrant s g = ((applyGrant s g).restored g).setStrandAt g
    (((((applyGrant s g).restored g).strandAt g).follow 0).taking ((applyGrant s g).restored g).cycle.toNat) := by
  unfold takeGrant
  extract_lets u y
  rfl

theorem takeGrant_strand {s : State} {g : Nat} (h : (s.strandAt g).phase = .running) :
    ((takeGrant s g).strandAt g).granted = ((applyGrant s g).strandAt g).granted ∧ ((takeGrant s g).strandAt g).wait = none ∧
    ((takeGrant s g).strandAt g).progress = some .granted ∧ (copiesOf (takeGrant s g) g = [] ↔ copiesOf s g = []) := by
  obtain ⟨hab, hac⟩ := applyGrant_strand h
  have hap : ((applyGrant s g).strandAt g).phase = .running := (congrArg (·.1) hab).trans h
  obtain ⟨hrg, hrc⟩ := restored_strand hap
  rw [takeGrant_eq]
  generalize (applyGrant s g).restored g = u at hrg hrc
  have hf := (follow_granted (u.strandAt g) 0).trans hrg
  generalize (u.strandAt g).follow 0 = y at hf
  have hg := (taking_granted y u.cycle.toNat).trans hf
  have hr : y.taking u.cycle.toNat ≠ Strand.reset := ne_reset_of_running ((granted_phase hg).trans hap)
  rw [strandAt_setStrandAt_live _ _ hr, setStrandAt_copiesOf]
  exact ⟨hg, taking_wait _ _, taking_progress _ _, hrc.trans hac⟩

/-- VL and VLMAX are fields of their own (R23). -/
theorem vlmax_setVl (x : Strand) (n : Nat) : (x.setVl n).vlmax = x.vlmax := by
  have hw := x.sys.vcfg.isLt
  simp only [Strand.vlmax, Strand.setVl, Strand.setVcfg, setField, field, BitVec.toNat_ofNat]
  omega

/-- A task that resumes waits for the copies that it left in flight (R269). -/
theorem awaitCopies_strand {s : State} {g : Nat} (h : (s.strandAt g).phase = .running) (hw : (s.strandAt g).wait = none) :
    (awaitCopies s g).strandAt g = { s.strandAt g with wait := if copiesOf s g = [] then none else some .resumed } := by
  unfold awaitCopies
  by_cases hc : copiesOf s g = []
  · simp only [hc, List.isEmpty_nil, Bool.not_true, Bool.and_false, Bool.false_eq_true, if_false, if_true]
    rw [← hw]
  · have hr : ({ s.strandAt g with wait := some .resumed } : Strand) ≠ Strand.reset := ne_reset_of_running h
    have hn : ((s.strandAt g).wait.isNone && !(copiesOf s g).isEmpty) = true := by simp [hw, hc]
    simp only [hn, if_true, if_neg hc]
    exact strandAt_setStrandAt_live s g hr

end Sys2Proof.Machine
end

section
/-! The ends of waits (O53): each wait that ends when its condition holds, and the landing of commits that are due. -/

namespace Sys2Proof.Machine

/-- A restored strand that has its grant: its pending values follow the new VLMAX, VL falls to it (R286, R287). -/
def Strand.resuming (y saved : Strand) : Strand :=
  let x : Strand := { y with
    sched := y.sched.reshape y.wmax saved.vlmax y.vlmax
    heldRegion := y.heldRegion.map (fun r => r.reshape y.wmax saved.vlmax y.vlmax)
    progress := none
    resumedReshaped := if saved.vlmax = y.vlmax then none else some (BitVec.ofNat 64 saved.vl) }
  x.setVl (Nat.min saved.vl x.vlmax)

theorem resuming_granted (y saved : Strand) : (y.resuming saved).granted = y.granted := (setVl_granted _ _).trans rfl
theorem resuming_wait (y saved : Strand) : (y.resuming saved).wait = y.wait := rfl
theorem resuming_vlmax (y saved : Strand) : (y.resuming saved).vlmax = y.vlmax := vlmax_setVl _ _
theorem resuming_reshaped (y saved : Strand) : (y.resuming saved).resumedReshaped =
    if saved.vlmax = y.vlmax then none else some (BitVec.ofNat 64 saved.vl) := rfl

theorem execRestoreAtGrant_eq {s : State} {g : Nat} (h : restoreNow s g = true) : execRestoreAtGrant g s = .next
    ((awaitCopies ((takeGrant s g).setStrandAt g (((takeGrant s g).strandAt g).resuming (s.strandAt g))) g).assayGate (coreOf g)) := by
  unfold execRestoreAtGrant
  simp only [h, Bool.not_true, Bool.false_eq_true, if_false]
  rfl

/-- The restore of a task at its grant (R286, R287). -/
theorem restoreAtGrant_restores {s : State} {g : Nat} (hp : (s.strandAt g).phase = .running) (h : restoreNow s g = true) :
    ∃ t, exec (.restoreAtGrant g) s = .next t ∧ t.mem = s.mem ∧
      (t.strandAt g).wait = (if copiesOf s g = [] then none else some .resumed) ∧
      (t.strandAt g).pc = (s.strandAt g).pc ∧ (t.strandAt g).s = (s.strandAt g).s ∧ (t.core (coreOf g)).assayNow = true ∧
      (t.strandAt g).resumedReshaped =
        (if (s.strandAt g).vlmax = (t.strandAt g).vlmax then none else some (BitVec.ofNat 64 (s.strandAt g).vl)) := by
  obtain ⟨hab, -⟩ := applyGrant_strand hp
  obtain ⟨htg, htw, -, htc⟩ := takeGrant_strand hp
  have htp : ((takeGrant s g).strandAt g).base = (s.strandAt g).base := (congrArg (·.1) htg).trans hab
  have htm := takeGrant_mem s g
  refine ⟨_, execRestoreAtGrant_eq h, ?_⟩
  generalize takeGrant s g = u at *
  generalize hz : (u.strandAt g).resuming (s.strandAt g) = z
  have hzb : z.base = (s.strandAt g).base := by
    rw [← htp, ← hz]
    exact congrArg (·.1) (resuming_granted _ _)
  have hzp : z.phase = .running := (congrArg (·.1) hzb).trans hp
  have hu : (u.setStrandAt g z).strandAt g = z := strandAt_setStrandAt_live _ _ (ne_reset_of_running hzp)
  have hw : z.wait = none := by rw [← hz, resuming_wait, htw]
  have ha := awaitCopies_strand (s := u.setStrandAt g z) (g := g) (by rw [hu, hzp]) (by rw [hu, hw])
  rw [hu, setStrandAt_copiesOf] at ha
  have hl := assayGate_lanesOnly g (awaitCopies (u.setStrandAt g z) g) (coreOf g)
  rw [hl.strandAt, ha]
  refine ⟨by simp [htm], ?_, congrArg (·.2.1) hzb, congrArg (·.2.2) hzb, ?_, ?_⟩
  · simp only [htc]
  · rw [State.assayGate, core_setCore_same]
  · have hv : z.vlmax = (u.strandAt g).vlmax := by rw [← hz, resuming_vlmax]
    have hr : z.resumedReshaped = if (s.strandAt g).vlmax = (u.strandAt g).vlmax then none
        else some (BitVec.ofNat 64 (s.strandAt g).vl) := by rw [← hz, resuming_reshaped]
    rw [← hv] at hr
    exact hr

/-- The wait for a grant ends with it (R230). -/
theorem grantWaitApply_ends {s : State} {g : Nat} (hp : (s.strandAt g).phase = .running) (hw : (s.strandAt g).wait = some .grant)
    (h : grantNow s g = true) :
    ∃ t, exec (.grantWaitApply g) s = .next t ∧ t.mem = s.mem ∧ (t.strandAt g).wait = none ∧ (t.strandAt g).progress = some .granted ∧
      (t.strandAt g).pc = (s.strandAt g).pc ∧ (t.strandAt g).s = (s.strandAt g).s ∧
      ((t.strandAt g).grant ≠ 0 ∨ (t.strandAt g).pend = false) := by
  obtain ⟨hab, -⟩ := applyGrant_strand hp
  obtain ⟨htg, htw, hpr, -⟩ := takeGrant_strand hp
  have htb : ((takeGrant s g).strandAt g).base = (s.strandAt g).base := (congrArg (·.1) htg).trans hab
  have he : exec (.grantWaitApply g) s = execGrantWaitApply g s := rfl
  refine ⟨takeGrant s g, by rw [he, execGrantWaitApply, if_pos ⟨hw, h⟩], takeGrant_mem s g, htw, hpr, congrArg (·.2.1) htb,
    congrArg (·.2.2) htb, ?_⟩
  have hlease : ((applyGrant s g).strandAt g).grant ≠ 0 ∨ ((applyGrant s g).strandAt g).pend = false := by
    simp only [grantNow, Bool.and_eq_true, Bool.or_eq_true, bne_iff_ne, Bool.not_eq_true'] at h
    exact h.2
  simp only [Strand.grant, Strand.pend, granted_lease htg]
  exact hlease

theorem darkenFree_pendingFree (s : State) (c : Nat) : ((darkenFree s c).core c).pendingFree = (s.core c).pendingFree := by
  unfold darkenFree
  extract_lets k free dark
  (repeat' split)
  · rfl
  · rfl
  · rw [core_setCore_same]

/-- The end of a reshape frees its clusters (R230, R232). -/
theorem reshapeComplete_frees (s : State) (g : Nat) :
    ∃ t, exec (.reshapeComplete g) s = .next t ∧ (t.core (coreOf g)).freed = true ∧ t.mem = s.mem ∧
      (t.core (coreOf g)).pendingFree = (s.core (coreOf g)).pendingFree.filter (fun p => p.2 != g) := by
  refine ⟨_, rfl, ?_, by simp, ?_⟩
  · rw [State.clustersFreed, core_setCore_same]
  · rw [State.clustersFreed, core_setCore_same]
    simp only [Bool.false_eq_true, if_false]
    rw [darkenFree_pendingFree, core_setCore_same]

theorem giveTicket_eq {s : State} {g since pa : Nat} {l : List Nat} (hw : (s.strandAt g).wait = some (.touchstone since (pa :: l))) :
    ∃ p, giveTicket s g = { s.setStrandAt g { s.strandAt g with
        wait := if l = [] then some .finish else some (.touchstone since l), progress := p } with touchstone := s.touchstone + 1 } := by
  unfold giveTicket
  extract_lets x
  simp only [x, hw]
  cases l <;> exact ⟨_, rfl⟩

/-- The Touchstone gives the next element of a strand its ticket (R375, log 47). -/
theorem touchstoneGrant_gives {s : State} {g since pa : Nat} {l : List Nat} (hp : (s.strandAt g).phase = .running)
    (hw : (s.strandAt g).wait = some (.touchstone since (pa :: l))) (hn : nextTicket s g = some pa) (hj : journalled s pa = false) :
    ∃ t, exec (.touchstoneGrant g) s = .next t ∧ t.touchstone = s.touchstone + 1 ∧ t.mem = s.mem ∧
      (t.strandAt g).wait = (if l = [] then some .finish else some (.touchstone since l)) ∧ (t.strandAt g).pc = (s.strandAt g).pc := by
  have he : exec (.touchstoneGrant g) s = .next (giveTicket s g) := by
    have hx : exec (.touchstoneGrant g) s = execTouchstoneGrant g s := rfl
    simp [hx, execTouchstoneGrant, hn, hj]
  obtain ⟨p, hp'⟩ := giveTicket_eq hw
  rw [hp'] at he
  refine ⟨_, he, rfl, setStrandAt_mem s g _, ?_⟩
  generalize hz : ({ s.strandAt g with wait := if l = [] then some .finish else some (.touchstone since l), progress := p } : Strand) = z
  have hr : z ≠ Strand.reset := ne_reset_of_running (by rw [← hz]; exact hp)
  have hs : (s.setStrandAt g z).strandAt g = z := strandAt_setStrandAt_live s g hr
  have ht : ({ s.setStrandAt g z with touchstone := s.touchstone + 1 } : State).strandAt g = z := hs
  rw [ht, ← hz]
  exact ⟨rfl, rfl⟩

/-! ### Commits that land -/

/-- What the strand whose turn it is does for itself. -/
theorem as_self {s : State} {f : State → State} (h : (f { s with turn := none }).strandId = s.strandId) :
    s.as s.strandId f = { f { s with turn := none } with turn := s.turn } := by
  simp only [State.as, State.focus, if_true, h]

theorem landing_strandId (l : List Commit) (s : State) : (l.foldl applyCommit s).strandId = s.strandId := by
  induction l generalizing s with
  | nil => rfl
  | cons c l ih =>
    obtain ⟨-, -, hid, -⟩ := applyCommit_frame s c
    exact (ih _).trans hid

/-- A scalar result that lands is in its register (R24). -/
theorem applyCommit_scalar (s : State) (due : Nat) {r : SReg} (h : r ≠ 0) (v : Word) (b : Bool) :
    (applyCommit s { due := due, dests := [.s r v], flags := 0, vec := b }).strand.s[r.toNat] = v := by
  have hs : (applyCommit s { due := due, dests := [.s r v], flags := 0, vec := b }).strand.s = (s.strand.setS r v).s := rfl
  simp only [hs, Strand.setS_read _ _ _ _ h, if_true]

/-- The strand whose turn it is, with the commits that are due out of its buffer. -/
def State.undue (s : State) : State :=
  { s with strand := { s.strand with sched := { s.strand.sched with
      commits := s.strand.sched.commits.filter (fun c => decide (s.strand.sched.clock < c.due)) } } }

/-- The strand whose turn it is lands its own commits that are due. -/
theorem execCommitLand_self {s : State} (h : lateCopy s s.strandId = false) : execCommitLand s.strandId s = .next
    { (commitOrder (commitsDue s.strand)).foldl applyCommit ({ s with turn := none } : State).undue with turn := s.turn } := by
  have has := as_self (s := s) (f := fun s' => (commitOrder (commitsDue s.strand)).foldl applyCommit s'.undue) (landing_strandId _ _)
  unfold execCommitLand
  rw [h, strandAt_self, if_neg Bool.false_ne_true]
  exact congrArg Host.Outcome.next has

/-- Commits that are due land (R24, R235). -/
theorem commitLand_lands {s : State} (h : lateCopy s s.strandId = false) :
    ∃ t, exec (.commitLand s.strandId) s = .next t ∧ t.mem = s.mem ∧ t.strand.pc = s.strand.pc ∧
      t.strand.sched.commits = s.strand.sched.commits.filter (fun c => decide (s.strand.sched.clock < c.due)) ∧
      ∀ r v b, s.strand.sched.commits = [{ due := s.strand.sched.clock, dests := [.s r v], flags := 0, vec := b }] → r ≠ 0 →
        t.strand.s[r.toNat] = v := by
  have he : exec (.commitLand s.strandId) s = execCommitLand s.strandId s := rfl
  refine ⟨_, he.trans (execCommitLand_self h), ?_⟩
  generalize hu : ({ s with turn := none } : State).undue = u
  have hum : u.mem = s.mem := by rw [← hu]; rfl
  have hup : u.strand.pc = s.strand.pc := by rw [← hu]; rfl
  have huc : u.strand.sched.commits = s.strand.sched.commits.filter (fun c => decide (s.strand.sched.clock < c.due)) := by
    rw [← hu]; rfl
  have hf := landing_flow (commitOrder (commitsDue s.strand)) u
  simp only [Strand.flow, Prod.mk.injEq] at hf
  obtain ⟨hpc, hsched, -⟩ := hf
  refine ⟨(foldl_mem applyCommit_mem _ u).trans hum, hpc.trans hup, (congrArg (·.commits) hsched).trans huc, fun r v b hc hr => ?_⟩
  have hd : commitOrder (commitsDue s.strand) = [{ due := s.strand.sched.clock, dests := [.s r v], flags := 0, vec := b }] := by
    simp [commitsDue, hc, commitOrder, insertCommit]
  rw [hd]
  exact applyCommit_scalar u _ hr v b

/-! ### Waits that end when their condition holds -/

/-- The waits of `vwait`: the condition holds (R162). -/
theorem vwait_ends {s : State} {g : Nat} {t : Word} (hp : (s.strandAt g).phase = .running)
    (hw : (s.strandAt g).wait = some (.vwait t)) :
    ((s.strandAt g).watchHit = true →
      exec (.vwaitWake g) s = .next (s.setStrandAt g { s.strandAt g with wait := none, watchHit := false, monitors := [] })) ∧
    (t ≤ s.cycle →
      exec (.vwaitDeadline g) s = .next (s.setStrandAt g { s.strandAt g with wait := none, watchHit := false, monitors := [] })) := by
  have hr := rerun_of_stall hw rfl
  refine ⟨fun h => ?_, fun h => ?_⟩
  · have he : exec (.vwaitWake g) s = execVwaitWake g s := rfl
    rw [he, execVwaitWake, onWait_ready hp (by simp [hw, h]), hr]
  · have he : exec (.vwaitDeadline g) s = execVwaitDeadline g s := rfl
    rw [he, execVwaitDeadline, onWait_ready hp (by simp [hw, h]), hr]

/-- The wait of a queue instruction: the queue holds another number of ripe entries (R181). -/
theorem queueWait_ends {s : State} {g q n : Nat} {y : Queue} (hp : (s.strandAt g).phase = .running)
    (hw : (s.strandAt g).wait = some (.queue q n)) (hq : lookupNat q (s.core (coreOf g)).queues = some y)
    (hn : (y.ripe s.cycle).length ≠ n) :
    exec (.queueWaitEnd g) s = .next (s.setStrandAt g { s.strandAt g with wait := none }) := by
  have he : exec (.queueWaitEnd g) s = execQueueWaitEnd g s := rfl
  rw [he, execQueueWaitEnd, onWait_ready hp (by simp [hw, hq, hn]), rerun_of_stall hw rfl]

/-- The wait of a bounded load: the round has come (R166). -/
theorem boundedLoadWait_ends {s : State} {g rg : Nat} {n : Word} (hp : (s.strandAt g).phase = .running)
    (hw : (s.strandAt g).wait = some (.bounded rg n)) (h : roundAtLeast (shadowOf s (dieOf g) rg) n = true) :
    exec (.boundedLoadWaitEnd g) s = .next (s.setStrandAt g { s.strandAt g with wait := none, ticked := true }) := by
  have he : exec (.boundedLoadWaitEnd g) s = execBoundedLoadWaitEnd g s := rfl
  rw [he, execBoundedLoadWaitEnd, onWait_ready hp (by simp [hw, h]), rerun_of_freeze hw rfl]

/-- The wait for a late value (R236). -/
theorem lateResult_ends {s : State} {g : Nat} (hp : (s.strandAt g).phase = .running) (hw : (s.strandAt g).wait = some .late)
    (h : lateCopy s g = false) :
    exec (.lateResultReady g) s = .next (s.setStrandAt g { s.strandAt g with wait := none, ticked := true }) := by
  have he : exec (.lateResultReady g) s = execLateResultReady g s := rfl
  rw [he, execLateResultReady, onWait_ready hp (by simp [hw, h]), rerun_of_freeze hw rfl]

/-- The wait for the tags of a strip allocation (R240). -/
theorem tagging_ends {s : State} {g t : Nat} (hp : (s.strandAt g).phase = .running) (hw : (s.strandAt g).wait = some (.tagging t))
    (h : t ≤ s.cycle.toNat) :
    exec (.stripTaggingComplete g) s = .next (s.setStrandAt g { s.strandAt g with wait := none, ticked := true }) := by
  have he : exec (.stripTaggingComplete g) s = execStripTaggingComplete g s := rfl
  rw [he, execStripTaggingComplete, onWait_ready hp (by simp [hw, h]), rerun_of_freeze hw rfl]

/-- A strand that waits at a barrier whose generation has passed goes on behind it (R314). -/
theorem barrier_wakes {s : State} {g n b : Nat} (hw : (s.strandAt g).wait = some (.barrier b n))
    (h : (s.barrier (clusterOf g) b).gen.toNat ≠ n) :
    exec (.barrierWake g) s =
      .next (s.setStrandAt g { s.strandAt g with pc := (s.strandAt g).pc + 4, lent := none, wait := none }) := by
  have he : exec (.barrierWake g) s = execBarrierWake g s := rfl
  have hd : barrierDone s g = true := by simp [barrierDone, hw, h]
  have hc : (s.strandAt g).complete = { s.strandAt g with pc := (s.strandAt g).pc + 4, lent := none, wait := none } := by
    have hr := rerun_of_stall hw rfl
    rw [Strand.rerun] at hr
    rw [Strand.complete, hr]
  rw [he, execBarrierWake, if_pos hd, hc]

/-- Settles O53, wait by wait. -/
theorem waitEnds : Obligations.WaitEnds := by
  unfold Obligations.WaitEnds
  rintro s g x rfl hp
  refine ⟨fun t hw => (vwait_ends hp hw).1, fun t hw => (vwait_ends hp hw).2,
    fun q n y => queueWait_ends hp, fun rg n => boundedLoadWait_ends hp, lateResult_ends hp, fun t => tagging_ends hp,
    fun b n => barrier_wakes, fun since pa l => touchstoneGrant_gives hp, grantWaitApply_ends hp, restoreAtGrant_restores hp,
    reshapeComplete_frees s g, ?_⟩
  rintro rfl h
  rw [strandAt_self]
  exact commitLand_lands h

end Sys2Proof.Machine
end

section
/-! What a vector instruction writes (R47, R123): the format and the slots of a register after `writeReg`, and how an instruction that is ready
and meets no poison mark runs. -/

namespace Sys2Proof.Machine

/-! ### Tags, formats and slots -/

@[simp] theorem Fmt.ofCode_code (f : Fmt) : Fmt.ofCode f.code = some f := by cases f <;> rfl

@[simp] theorem tagFmt_mkTag (c : BitVec 2) (sc : Byte) (m : BitVec 6) : tagFmt (mkTag c sc m) = m := by
  rw [tagFmt, mkTag, extract_within _ _ _ _ (by decide), extract_lower]

@[simp] theorem tagFormat_mkTag (c : BitVec 2) (sc : Byte) (f : Fmt) : tagFormat (mkTag c sc f.code) = f := by simp [tagFormat]

/-- Dropping the zeros at the end changes no slot. -/
theorem trimSlots_getD (l : List Word) (k : Nat) : (trimSlots l).getD k 0 = l.getD k 0 := by
  change (l.rdropWhile (· == 0)).getD k 0 = l.getD k 0
  induction l using List.reverseRecOn with
  | nil => rfl
  | append_singleton l x ih =>
    by_cases hx : x = 0
    · rw [List.rdropWhile_concat_pos _ _ _ (by simpa using hx), ih, hx]
      rcases Nat.lt_or_ge k l.length with h | h
      · rw [List.getD_append _ _ _ _ h]
      · rw [List.getD_append_right _ _ _ _ h, List.getD_eq_default _ _ h]
        cases k - l.length <;> rfl
    · rw [List.rdropWhile_concat_neg _ _ _ (by simpa using hx)]

/-- A number below 2 ^ w is not changed by a word, nor by the cut to `w` bits. -/
theorem toNat_ofNat_lt {w m : Nat} (hw : w ≤ 64) (h : m < 2 ^ w) : (BitVec.ofNat 64 m).toNat % 2 ^ w = m := by
  rw [BitVec.toNat_ofNat, Nat.mod_eq_of_lt (h.trans_le (Nat.pow_le_pow_right (by decide) hw)), Nat.mod_eq_of_lt h]

/-! ### A register after a write -/

theorem writeReg_fmt (wmax oldN n bound : Nat) (old : VReg) (vcls : BitVec 2) (f : Fmt) (sc : Byte) (sat : Bool) (rm : Nat → Rounding)
    (el : Nat → Elem) : (writeReg wmax oldN n bound old vcls f sc sat rm el).1.fmt = f := by
  unfold writeReg
  dsimp only
  split <;> exact tagFormat_mkTag _ _ _

/-- A position that an instruction puts bits at holds them, cut to the format's width (R47); the microscaled formats are written in blocks. -/
theorem writeReg_slot {n bound k : Nat} {f : Fmt} {el : Nat → Elem} {b : Word} (hf : Fmt.isMicro f = false) (hn : k < n) (hb : k < bound)
    (he : el k = .bits b) (wmax oldN : Nat) (old : VReg) (vcls : BitVec 2) (sc : Byte) (sat : Bool) (rm : Nat → Rounding) :
    (writeReg wmax oldN n bound old vcls f sc sat rm el).1.slot k = cutBits (Fmt.width wmax f) b := by
  have hspan : ∀ (c : Bool) (m : Nat), k < if c then n else Nat.min n (Nat.max bound m) := fun c m => by
    split
    · exact hn
    · exact lt_min hn (lt_max_of_lt_left hb)
  unfold writeReg
  simp only [hf, Bool.false_eq_true, if_false, VReg.slot, trimSlots_getD, List.map_map]
  rw [List.getD_eq_getElem?_getD, List.getElem?_map, List.getElem?_range (hspan _ _)]
  simp [he]

theorem vecResult_fmt (s : State) (d : VIdx) (o : VecOp) (k : Nat) : (s.vecResult d o k).1.fmt = o.fmt := writeReg_fmt _ _ _ _ _ _ _ _ _ _ _

/-- An active position below the instruction's end holds the bits that the instruction puts there. -/
theorem vecResult_slot {s : State} {o : VecOp} {n k : Nat} {b : Word} (hf : Fmt.isMicro o.fmt = false) (hp : k < s.strand.positions o.fmt)
    (hv : s.strand.sys.vstart.toNat ≤ k) (hk : k < n) (hg : s.guardAt k = true) (he : o.el k = .bits b) (d : VIdx) :
    (s.vecResult d o n).1.slot k = cutBits (Fmt.width s.strand.wmax o.fmt) b :=
  writeReg_slot hf hp hk (by simp [hv, hk, hg, he]) _ _ _ _ _ _ _

/-! ### Operands without marks, of a format that fits -/

theorem Strand.tooWide_of_fits {x : Strand} {f : Fmt} (h : Fmt.isWide f = false ∧ Fmt.width x.wmax f ≤ x.wmax) : x.tooWide f = false := by
  simp [Strand.tooWide, h]

theorem PlainReg.tooWide {s : State} {r : VIdx} {f : Fmt} (h : PlainReg s r f) : s.strand.tooWide f = false :=
  Strand.tooWide_of_fits h.fits

theorem PlainReg.marked {s : State} {r : VIdx} {f : Fmt} (h : PlainReg s r f) (k : Nat) : (s.vreg r).marked k = false := by
  simp [VReg.marked, h.unmarked]

theorem PlainReg.wideReg {s : State} {r : VIdx} {f : Fmt} (h : PlainReg s r f) : s.wideReg r = false := by
  simp [State.wideReg, h.format, h.fits]

theorem firstActive_unmarked {s : State} {m : Nat → Bool} (h : ∀ k, m k = false) : s.firstActive m = none := by
  simp [State.firstActive, h]

/-- Two operands of one plain format under the default blend table (R56, R59). -/
theorem lookup_plain {s : State} {f : Fmt} (h : f ∈ plainFloats) (hb : s.strand.bank = 0) : s.lookup f f = .ok (f, .use) := by
  have he : ∀ c, blend c 0 f f = (f, .use) := by
    intro c
    revert h
    simp only [blend, blendEntry, if_true]
    cases f <;> decide
  simp only [State.lookup, hb, he, reduceCtorEq, if_false]

/-! ### A ready instruction runs -/

theorem VecReady.vecGate {s : State} {i : Instr} (h : VecReady s i) (f : State → State) : s.vecGate i true f = f s := by
  simp [State.vecGate, onStrand_strand h.strand, (vregsOk_iff _ _).mpr h.declared, h.leased]

theorem VecReady.not_skipped {s : State} {i : Instr} (h : VecReady s i) : ¬ s.strand.vl ≤ s.strand.sys.vstart.toNat :=
  Nat.not_le.mpr h.left

theorem VecReady.positions {s : State} {i : Instr} (h : VecReady s i) {f : Fmt} (hf : s.strand.tooWide f = false) :
    s.strand.vl ≤ s.strand.positions f := by
  unfold Strand.tooWide at hf
  unfold Strand.positions
  split at hf
  · next hw => simpa [hw] using hf
  · next hw => simpa [hw] using h.bound.1

/-- `o` reads no mark, and writes format `f` with the bits that `bits` gives for a position. -/
structure VecOp.Puts (o : VecOp) (f : Fmt) (bits : Nat → Option Word) : Prop where
  fmt : o.fmt = f
  unmarked : ∀ k, o.marked k = false
  el : ∀ k b, bits k = some b → o.el k = .bits b

/-- The register `r` has format `f`, and the bits of `bits`, cut to its width, at the active positions. -/
def State.Holds (s : State) (r : VReg) (f : Fmt) (bits : Nat → Option Word) : Prop :=
  r.fmt = f ∧ ∀ k b, s.strand.sys.vstart.toNat ≤ k → k < s.strand.vl → s.guardAt k = true → bits k = some b →
    r.slot k = cutBits (Fmt.width s.strand.wmax f) b

theorem VecOp.Puts.holds {s : State} {i : Instr} {o : VecOp} {f : Fmt} {bits : Nat → Option Word} (p : o.Puts f bits) (h : VecReady s i)
    (hf : Fmt.isMicro f = false) (hw : s.strand.tooWide f = false) (d : VIdx) : s.Holds (s.vecResult d o s.strand.vl).1 f bits := by
  obtain ⟨rfl, -, hel⟩ := p
  exact ⟨vecResult_fmt _ _ _ _, fun k b hv hk hg hb => vecResult_slot hf (hk.trans_le (h.positions hw)) hv hk hg (hel k b hb) d⟩

/-- RunVector over all the elements (R123). -/
theorem runVec_puts {s : State} {i : Instr} {prep : State → Except Stop VecOp} {o : VecOp} {f : Fmt} {bits : Nat → Option Word}
    (h : VecReady s i) (ho : prep s = .ok o) (p : o.Puts f bits) (hf : Fmt.isMicro f = false) (hw : s.strand.tooWide f = false)
    (d : VIdx) (c : Cls) (base : Nat) (wide : Bool) :
    ∃ (r : VReg) (fl : Sticky) (q : State × Nat), s.Holds r f bits ∧
      q = s.occupy c base 0 (s.strand.beatsTo s.strand.vl (if wide || Fmt.isWide f then 64 else s.strand.wmax)) ∧
      s.runVec i d c base false wide prep = (q.1.putV q.2 d r fl).vecDone := by
  refine ⟨_, (s.vecResult d o s.strand.vl).2, _, p.holds h hf hw d, rfl, ?_⟩
  simp only [State.runVec, h.vecGate, ho, h.not_skipped, if_false, firstActive_unmarked p.unmarked, p.fmt, Option.getD_none, Bool.false_eq_true]
  rfl

/-- A move over all the elements (R168, R182). -/
theorem runMove_puts {s : State} {i : Instr} {prep : State → Except Stop VecOp} {o : VecOp} {f : Fmt} {bits : Nat → Option Word}
    (h : VecReady s i) (ho : prep s = .ok o) (p : o.Puts f bits) (hf : Fmt.isMicro f = false) (hw : s.strand.tooWide f = false)
    (d : VIdx) (wide : Bool) :
    ∃ (r : VReg) (fl : Sticky) (b : Nat) (q : State × Nat), s.Holds r f bits ∧
      b = s.strand.beatsTo s.strand.vl (if wide || Fmt.isWide f then 64 else s.strand.wmax) ∧
      q = s.occupy .perm 3 ((s.strand.grantCount - 1) * b) b ∧
      s.runMove i d wide prep = (q.1.putV q.2 d r fl).vecDone := by
  refine ⟨_, (s.vecResult d o s.strand.vl).2, _, _, p.holds h hf hw d, rfl, rfl, ?_⟩
  simp only [State.runMove, h.vecGate, ho, h.not_skipped, if_false, firstActive_unmarked p.unmarked, p.fmt, Option.getD_none]
  rfl

end Sys2Proof.Machine
end

section
/-! Bitwise operations, shifts and compares of vectors (O31). -/

namespace Sys2Proof.Machine

/-! ### Bits of elements -/

/-- RAW and the integer formats are not microscaled. -/
theorem not_isMicro_of_bits {f : Fmt} (h : f = .raw ∨ Fmt.isInt f = true) : Fmt.isMicro f = false := by
  revert h; cases f <;> decide

/-- The formats of R134: RAW and the integer formats without 64-bit slots. -/
theorem bitwiseFormat_of_bits {f : Fmt} (h : f = .raw ∨ Fmt.isInt f = true) (hw : Fmt.isWide f = false) : bitwiseFormat f = true := by
  revert h hw; cases f <;> decide

/-- The bits of both operands under the operation (R134). -/
theorem prepBits_plain {s : State} {a b : VIdx} {f : Fmt} (ha : PlainReg s a f) (hb : PlainReg s b f) (hf : f = .raw ∨ Fmt.isInt f = true)
    (ht : tagScale (s.vreg a).tag = tagScale (s.vreg b).tag) (op : Word → Word → Word) :
    ∃ o, prepBits a b op s = .ok o ∧ o.Puts f (fun k => some (op ((s.vreg a).slot k) ((s.vreg b).slot k))) := by
  simp only [prepBits, ha.format, hb.format, ha.tooWide, ht, need, bitwiseFormat_of_bits hf ha.fits.1, beq_self_eq_true, Bool.or_true]
  exact ⟨_, rfl, rfl, fun k => by simp [ha.marked, hb.marked], fun k b hb => congrArg Elem.bits (Option.some.inj hb)⟩

theorem exec_of_bitsRow {i : Instr} {d a b : VIdx} {op : Word → Word → Word} (h : bitsRow i = some (d, a, b, op)) (s : State) :
    exec i s = .next (s.runVec i d .add 1 false false (prepBits a b op)) := by
  unfold bitsRow at h
  split at h <;> cases h <;> rfl

/-! ### Shifts -/

/-- A width that a slot holds. -/
theorem width_le_64 {x : Strand} {f : Fmt} (h : Fmt.width x.wmax f ≤ x.wmax) : Fmt.width x.wmax f ≤ 64 := by
  have hw : x.wmax ≤ 64 := by
    have : field x.sys.vcfg 2 2 ≤ 3 := Nat.le_of_lt_succ (Nat.mod_lt _ (by decide))
    calc x.wmax ≤ 8 * 2 ^ 3 := Nat.mul_le_mul_left _ (Nat.pow_le_pow_right (by decide) this)
      _ = 64 := rfl
  exact h.trans hw

/-- Bits cut to a width are a string of that width (R44). -/
theorem cutBits_eq_setWidth {w : Nat} {x : Word} {y : BitVec w} (h : x.toNat % 2 ^ w = y.toNat) :
    cutBits w x = y.setWidth 64 := by
  apply BitVec.eq_of_toNat_eq
  rw [cutBits, h, BitVec.toNat_setWidth, BitVec.toNat_ofNat]

/-- A shift of the model is the shift of a string of the element's width (R135). -/
theorem apply_sll {w : Nat} (h : w ≤ 64) (x : Word) (n : Nat) :
    cutBits w (ShiftOp.sll.apply w x n) = (BitVec.ofNat w x.toNat <<< n).setWidth 64 := by
  refine cutBits_eq_setWidth ?_
  rw [BitVec.toNat_shiftLeft, BitVec.toNat_ofNat, Nat.shiftLeft_eq]
  simp only [ShiftOp.apply]
  split
  · next hn =>
    rw [Nat.mod_eq_zero_of_dvd (Dvd.dvd.mul_left (Nat.pow_dvd_pow 2 hn) _)]
    simp
  · exact toNat_ofNat_lt h (Nat.mod_lt _ (Nat.two_pow_pos w))

theorem apply_srl {w : Nat} (h : w ≤ 64) (x : Word) (n : Nat) :
    cutBits w (ShiftOp.srl.apply w x n) = (BitVec.ofNat w x.toNat >>> n).setWidth 64 := by
  refine cutBits_eq_setWidth ?_
  have hu : x.toNat % 2 ^ w < 2 ^ w := Nat.mod_lt _ (Nat.two_pow_pos w)
  rw [BitVec.toNat_ushiftRight, BitVec.toNat_ofNat, Nat.shiftRight_eq_div_pow]
  simp only [ShiftOp.apply]
  split
  · next hn =>
    rw [Nat.div_eq_of_lt (hu.trans_le (Nat.pow_le_pow_right (by decide) hn))]
    simp
  · exact toNat_ofNat_lt h ((Nat.div_le_self _ _).trans_lt hu)

/-- An arithmetic shift of a negative number puts ones above the shifted bits (R135). -/
theorem ones_above {w n u : Nat} (hn : n < w) (hu : u < 2 ^ w) :
    2 ^ w - 1 - (2 ^ w - 1 - u) / 2 ^ n = u / 2 ^ n + (2 ^ w - 1 - (2 ^ w - 1) / 2 ^ n) := by
  obtain ⟨m, hm⟩ : ∃ m, 2 ^ w = 2 ^ n * m := Nat.pow_dvd_pow 2 hn.le
  rw [hm] at hu ⊢
  have hq : u / 2 ^ n < m := Nat.div_lt_of_lt_mul hu
  have hle : m ≤ 2 ^ n * m := Nat.le_mul_of_pos_left m (Nat.two_pow_pos n)
  have h1 : (2 ^ n * m - 1 - u) / 2 ^ n = m - (u / 2 ^ n + 1) := by
    rw [Nat.sub_sub, Nat.add_comm 1 u, Nat.mul_sub_div u (2 ^ n) m hu]
  have h0 : (2 ^ n * m - 1) / 2 ^ n = m - 1 := by
    simpa using Nat.mul_sub_div 0 (2 ^ n) m (Nat.zero_lt_of_lt hu)
  rw [h1, h0]
  generalize 2 ^ n * m = p at hle ⊢
  generalize u / 2 ^ n = q at hq ⊢
  omega

theorem apply_sra {w : Nat} (h : w ≤ 64) (x : Word) (n : Nat) :
    cutBits w (ShiftOp.sra.apply w x n) = ((BitVec.ofNat w x.toNat).sshiftRight n).setWidth 64 := by
  refine cutBits_eq_setWidth ?_
  have hu : x.toNat % 2 ^ w < 2 ^ w := Nat.mod_lt _ (Nat.two_pow_pos w)
  have hs : (ShiftOp.sra.apply w x n) = BitVec.ofNat 64 ((BitVec.ofNat w x.toNat).sshiftRight n).toNat := by
    rw [BitVec.toNat_sshiftRight, BitVec.msb_eq_decide, BitVec.toNat_ofNat, Nat.shiftRight_eq_div_pow, Nat.shiftRight_eq_div_pow]
    simp only [ShiftOp.apply, decide_eq_true_eq]
    generalize x.toNat % 2 ^ w = u at hu ⊢
    split
    · next hn =>
      have hle : 2 ^ w ≤ 2 ^ n := Nat.pow_le_pow_right (by decide) hn
      rw [Nat.div_eq_of_lt (hu.trans_le hle), Nat.div_eq_of_lt (by omega), Nat.sub_zero]
    · next hn =>
      rw [ones_above (Nat.lt_of_not_le hn) hu]
      split <;> simp
  rw [hs, toNat_ofNat_lt h (BitVec.isLt _)]

theorem exec_of_shiftRow {i : Instr} {d a b : VIdx} {op : (w : Nat) → BitVec w → Nat → BitVec w} (h : shiftRow i = some (d, a, b, op))
    (s : State) : ∃ m : ShiftOp, exec i s = .next (s.runVec i d .add 1 false (s.wideReg b) (prepShift a b m)) ∧
      ∀ w ≤ 64, ∀ x n, cutBits w (m.apply w x n) = (op w (BitVec.ofNat w x.toNat) n).setWidth 64 := by
  unfold shiftRow at h
  split at h <;> cases h
  · exact ⟨.sll, rfl, fun w => apply_sll⟩
  · exact ⟨.srl, rfl, fun w => apply_srl⟩
  · exact ⟨.sra, rfl, fun w => apply_sra⟩

theorem prepShift_plain {s : State} {a b : VIdx} {f g : Fmt} (ha : PlainReg s a f) (hb : PlainReg s b g) (hf : f = .raw ∨ Fmt.isInt f = true)
    (hg : g = .raw ∨ Fmt.isInt g = true) (m : ShiftOp) :
    ∃ o, prepShift a b m s = .ok o ∧ o.Puts f (fun k => some (m.apply (Fmt.width s.strand.wmax f) ((s.vreg a).slot k)
      (((s.vreg b).slot k).toNat % 2 ^ Fmt.width s.strand.wmax g))) := by
  have hg' : (g == .raw || Fmt.isInt g) = true := by simpa using hg
  simp only [prepShift, ha.format, hb.format, ha.tooWide, hb.tooWide, need, bitwiseFormat_of_bits hf ha.fits.1, hg']
  exact ⟨_, rfl, rfl, fun k => by simp [ha.marked, hb.marked], fun k b hb => congrArg Elem.bits (Option.some.inj hb)⟩

/-! ### Compares -/

/-- A position of a predicate after one bit is written. -/
theorem getLsbD_writeBit (p : PosBits) (b : Bool) (i k : Nat) :
    (if b then p ||| BitVec.twoPow 131072 i else p &&& ~~~(BitVec.twoPow 131072 i)).getLsbD k =
      if k = i ∧ k < 131072 then b else p.getLsbD k := by
  have hp : ¬ k < 131072 → p.getLsbD k = false := fun h => BitVec.getLsbD_of_ge p k (Nat.le_of_not_lt h)
  cases b <;> simp only [if_true, Bool.false_eq_true, if_false, BitVec.getLsbD_or, BitVec.getLsbD_and, BitVec.getLsbD_not, BitVec.getLsbD_twoPow]
  all_goals grind

/-- A predicate after a compare of the positions below `n` (R132). -/
theorem cmpResult_getLsbD (s : State) (d : PReg) (bitAt : Nat → Bool) (n k : Nat) :
    (s.cmpResult d n bitAt).getLsbD k =
      if k < n ∧ k < 131072 ∧ s.strand.sys.vstart.toNat ≤ k then
        (if s.guardAt k then bitAt k else if s.strand.mz then false else (if d = 0 then 0 else s.strand.p[d.toNat]).getLsbD k)
      else (if d = 0 then 0 else s.strand.p[d.toNat]).getLsbD k := by
  unfold State.cmpResult
  generalize (if d = 0 then 0 else s.strand.p[d.toNat]) = old
  induction n with
  | zero => simp
  | succ n ih =>
    rw [List.range_succ, List.foldl_append, List.foldl_cons, List.foldl_nil]
    generalize (List.range n).foldl _ old = p at ih ⊢
    by_cases hv : n < s.strand.sys.vstart.toNat
    · rw [if_pos hv, ih]
      grind
    · rw [if_neg hv, getLsbD_writeBit]
      by_cases hk : k = n
      · subst hk
        simp only [Nat.lt_irrefl, false_and, if_false] at ih
        grind
      · grind

theorem exec_of_compareRow {i : Instr} {d : PReg} {a b : VIdx} {rel : Val → Val → Bool} (h : compareRow i = some (d, a, b, rel)) (s : State) :
    ∃ ordered, exec i s = .next (s.compare i d a b ordered rel) := by
  unfold compareRow at h
  split at h <;> cases h <;> exact ⟨_, rfl⟩

theorem compare_plain {i : Instr} {d : PReg} {a b : VIdx} {f : Fmt} {s : State} (h : VecReady s i) (hf : f ∈ plainFloats)
    (ha : PlainReg s a f) (hb : PlainReg s b f) (hk : s.strand.bank = 0) (ua : (s.vreg a).isUndef = false) (ub : (s.vreg b).isUndef = false)
    (ordered : Bool) (rel : Val → Val → Bool) :
    ∃ fl : Sticky, s.compare i d a b ordered rel =
      ((s.occupy .add 3 0 (s.strand.beatsTo s.strand.vl s.strand.wmax)).1.putP
        (s.occupy .add 3 0 (s.strand.beatsTo s.strand.vl s.strand.wmax)).2 d
        (s.cmpResult d s.strand.vl (fun k => rel ((s.vreg a).val k) ((s.vreg b).val k))) fl true).vecDone := by
  have hr : (f == .raw) = false := by revert hf; cases f <;> decide
  have hm : ∀ k, ((s.vreg a).marked k || (s.vreg b).marked k) = false := fun k => by rw [ha.marked, hb.marked]; rfl
  simp only [State.compare, h.vecGate, ha.format, hb.format, ha.tooWide, lookup_plain hf hk, ua, ub, need, bind, Except.bind, ha.wideReg,
    hb.wideReg, h.not_skipped, firstActive_unmarked hm, hr]
  exact ⟨_, rfl⟩

/-- Settles O31: the operand checks pass, no mark stops the instruction, and each active position takes what its row says. -/
theorem vectorBitsAndCompares : Obligations.VectorBitsAndCompares := by
  unfold Obligations.VectorBitsAndCompares
  refine ⟨fun i d a b f s h ha hf => ⟨fun op hi hb ht => ?_, fun op g hi hb hg => ?_⟩, fun i d a b rel f s hi h hf ha hb hk ua ub => ?_⟩
  · obtain ⟨o, ho, p⟩ := prepBits_plain ha hb hf ht op
    obtain ⟨r, fl, _, ⟨hr, hs⟩, rfl, he⟩ := runVec_puts h ho p (not_isMicro_of_bits hf) ha.tooWide d .add 1 false
    rw [exec_of_bitsRow hi, he, ha.fits.1]
    exact ⟨r, fl, hr, fun k hv hk hg => hs k _ hv hk hg rfl, rfl⟩
  · obtain ⟨m, hx, hm⟩ := exec_of_shiftRow hi s
    obtain ⟨o, ho, p⟩ := prepShift_plain ha hb hf hg m
    obtain ⟨r, fl, _, ⟨hr, hs⟩, rfl, he⟩ := runVec_puts h ho p (not_isMicro_of_bits hf) ha.tooWide d .add 1 (s.wideReg b)
    rw [hx, he, ha.fits.1, hb.wideReg]
    exact ⟨r, fl, hr, fun k hv hk hg => (hs k _ hv hk hg rfl).trans (hm _ (width_le_64 ha.fits.2) _ _), rfl⟩
  · obtain ⟨ordered, hx⟩ := exec_of_compareRow hi s
    obtain ⟨fl, he⟩ := compare_plain (d := d) h hf ha hb hk ua ub ordered rel
    refine ⟨_, fl, fun k hv hk hg => ?_, fun k hk hd => ?_, by rw [hx, he]⟩
    · have hp : k < 131072 := hk.trans_le (h.bound.1.trans h.bound.2)
      rw [cmpResult_getLsbD, if_pos ⟨hk, hp, hv⟩, if_pos hg]
    · rw [cmpResult_getLsbD, if_neg fun c => Nat.not_lt.mpr hk c.1, if_neg hd]

end Sys2Proof.Machine
end

section
/-! Declaring registers and setting VL (O29): the fields of sys.vcfg after `vcfg` and `setvl`. -/

namespace Sys2Proof.Machine

/-! ### Fields of sys.vcfg -/

/-- sys.vcfg as `vcfg` writes it (R23, R120). -/
def vcfgWord (n w : BitVec 2) (mz : BitVec 1) (m : Nat) : Word := BitVec.ofNat 64 (n.toNat + 4 * w.toNat + 16 * mz.toNat + 2 ^ 32 * m)

/-- The fields of sys.vcfg after `vcfg` (R23). -/
theorem vcfgWord_fields (n w : BitVec 2) (mz : BitVec 1) (m : Nat) :
    field (vcfgWord n w mz m) 0 2 = n.toNat ∧ field (vcfgWord n w mz m) 2 2 = w.toNat ∧ bit (vcfgWord n w mz m) 4 = (mz == 1) ∧
    field (vcfgWord n w mz m) 8 18 = 0 := by
  have hn := n.isLt
  have hw := w.isLt
  simp only [field, bit, BitVec.getLsbD, Nat.testBit_eq_decide_div_mod_eq, vcfgWord, BitVec.toNat_ofNat]
  refine ⟨by omega, by omega, ?_, by omega⟩
  obtain rfl | rfl : mz = 0 ∨ mz = 1 := by revert mz; decide
  all_goals simp; omega

/-- VL after it is set (R23). -/
theorem Strand.setVl_vl (x : Strand) {n : Nat} (h : n < 2 ^ 18) : (x.setVl n).vl = n := by
  simp only [Strand.vl, Strand.setVl, Strand.setVcfg, setField, field, BitVec.toNat_ofNat]
  omega

theorem Strand.vl_of_sys {x y : Strand} (h : x.sys = y.sys) : x.vl = y.vl := by rw [Strand.vl, h, Strand.vl]

theorem toNat_toInt_of_pos {x : Word} (h : ¬ x.toInt ≤ 0) : x.toInt.toNat = x.toNat := by
  have := x.toInt_eq_toNat_cond
  have := x.isLt
  split at * <;> omega

/-! ### A scalar result that ends an instruction -/

/-- What an interlocked strand's instruction with a scalar result and nothing else leaves, nothing being lent. -/
theorem putS_retire {s : State} (h : s.turn = none) (e : s.exposed = false) (l : s.lent = none) (n : Nat) {d : SReg} (hd : d ≠ 0) (v : Word) :
    let t := (s.putS n d v 0).retire
    t.mem = s.mem ∧ t.strand.pc = s.strand.pc + 4 ∧ t.strand.sys = s.strand.sys ∧ t.rdS d = v := by
  have hp : s.putS n d v 0 = { s with strand := s.strand.setS d v } := by
    rw [putS_strand h e, copyTo_unlent l, Strand.raise_zero, Strand.setSCopy]
  have ht : (s.putS n d v 0).turn = none := by rw [hp, h]
  have hr : (s.putS n d v 0).retire.turn = none := by rw [retire_strand ht, ht]
  dsimp only
  rw [rdS_strand hr hd, retire_strand ht, hp]
  exact ⟨rfl, by simp, by simp, by simp [Strand.setS_get _ _ _ hd]⟩

/-- The same where the instruction has changed its strand to `x`, which runs in the same mode. -/
theorem putS_retire_strand {s : State} (h : s.turn = none) (e : s.exposed = false) (l : s.lent = none) {x : Strand}
    (hs : x.sys.status = s.strand.sys.status) (hl : x.lent = s.strand.lent) (n : Nat) {d : SReg} (hd : d ≠ 0) (v : Word) :
    let t := (State.putS { s with strand := x } n d v 0).retire
    t.mem = s.mem ∧ t.strand.pc = x.pc + 4 ∧ t.strand.sys = x.sys ∧ t.rdS d = v :=
  putS_retire (s := { s with strand := x }) h (by simpa [State.exposed, Strand.mode, hs] using e)
    (by rw [lent_strand h] at l; exact (lent_strand (s := { s with strand := x }) h).trans (hl.trans l)) n hd v

/-- The strand after `vcfg`, but for its result: the registers of another shape are cleared, sys.vcfg and sys.vstart are written (R120). -/
def Strand.configured (x : Strand) (n w : BitVec 2) (mz : BitVec 1) : Strand :=
  (((if field x.sys.vcfg 0 2 = n.toNat ∧ field x.sys.vcfg 2 2 = w.toNat then x else x.clearShape).setVcfg
    (vcfgWord n w mz (vlmaxOf (8 * 2 ^ n.toNat) (8 * 2 ^ w.toNat) x.live))).setVstart 0)

theorem Strand.configured_frame (x : Strand) (n w : BitVec 2) (mz : BitVec 1) :
    (x.configured n w mz).pc = x.pc ∧ (x.configured n w mz).lent = x.lent ∧ (x.configured n w mz).sys =
      { x.sys with vcfg := vcfgWord n w mz (vlmaxOf (8 * 2 ^ n.toNat) (8 * 2 ^ w.toNat) x.live), vstart := 0 } := by
  unfold Strand.configured
  split <;> exact ⟨rfl, rfl, rfl⟩

theorem exec_vcfg {s : State} (h : s.turn = none) (hp : vectorPending s.strand = false) (d : SReg) (n w : BitVec 2) (mz : BitVec 1) :
    exec (.vcfg d n w mz) s = .next ((State.putS { s with strand := s.strand.configured n w mz } 1 d
      (BitVec.ofNat 64 (vlmaxOf (8 * 2 ^ n.toNat) (8 * 2 ^ w.toNat) s.strand.live)) 0).retire) := by
  change execVcfg d n w mz s = _
  unfold execVcfg Strand.configured
  rw [onStrand_strand h]
  simp only [hp, Bool.false_eq_true, if_false, decide_eq_true_eq]
  split <;> rfl

/-- VL for a count of elements (R121). -/
def vlFor (count : Word) (vlmax : Nat) : Nat := if count.toInt ≤ 0 then 0 else Nat.min count.toNat vlmax

theorem vlFor_lt (count : Word) (x : Strand) : vlFor count x.vlmax < 2 ^ 18 := by
  have hm : x.vlmax < 2 ^ 18 := Nat.mod_lt _ (by decide)
  unfold vlFor
  split
  · decide
  · exact (Nat.min_le_right _ _).trans_lt hm

/-- `setvl` writes VL, sys.vstart and its result over the strand as the boundary leaves it (R121). -/
theorem exec_setvl {s b : State} (h : s.turn = none) (hp : olderPending s = false) (hb : stripBoundary s = (b, false)) (d a : SReg) :
    exec (.setvl d a) s = .next ((State.putS { b with strand := (b.strand.setVl (vlFor (s.rdS a) b.strand.vlmax)).setVstart 0 } 1 d
      (BitVec.ofNat 64 (vlFor (s.rdS a) b.strand.vlmax)) 0).retire) := by
  change execSetvl d a s = _
  unfold execSetvl vlFor
  rw [onStrand_strand h]
  simp only [hp, hb, Bool.false_eq_true, if_false]
  split
  · rfl
  · next hk => rw [toNat_toInt_of_pos hk]

/-- Settles O29: the fields of sys.vcfg after `vcfg`, and VL after `setvl`, whose boundary finds no older result in an interlocked region. -/
theorem vectorConfiguration : Obligations.VectorConfiguration := by
  unfold Obligations.VectorConfiguration
  refine fun d s ht he hl hd => ⟨fun hp n w mz _ => ?_, fun a b hb heb htb hlb _ => ?_⟩
  · obtain ⟨hpc, hlent, hsys⟩ := s.strand.configured_frame n w mz
    obtain ⟨hn, hw, hz, hvl⟩ := vcfgWord_fields n w mz (vlmaxOf (8 * 2 ^ n.toNat) (8 * 2 ^ w.toNat) s.strand.live)
    obtain ⟨hmem, hpc', hsys', hrd⟩ := putS_retire_strand ht he hl (by rw [hsys]) hlent 1 hd _
    refine ⟨_, exec_vcfg ht hp d n w mz, hpc'.trans (congrArg (· + 4) hpc), ?_, ?_, ?_, ?_, ?_, hrd, hmem⟩
    all_goals simp only [Strand.nreg, Strand.wmax, Strand.mz, Strand.vl, hsys', hsys, hn, hw, hz, hvl]
  · have hp : olderPending s = false := by simp [olderPending, he]
    obtain ⟨-, hpc, hsys, hrd⟩ := putS_retire_strand htb heb hlb
      (x := (b.strand.setVl (vlFor (s.rdS a) b.strand.vlmax)).setVstart 0) rfl rfl 1 hd (BitVec.ofNat 64 (vlFor (s.rdS a) b.strand.vlmax))
    have hvl := (Strand.vl_of_sys hsys).trans (Strand.setVl_vl b.strand (vlFor_lt (s.rdS a) b.strand))
    exact ⟨_, exec_setvl ht hp hb d a, hpc, by rw [hsys]; rfl, hvl, by rw [hrd, hvl]⟩

end Sys2Proof.Machine
end

section
/-! Reductions of elements (O32): the leaves of a reduction without poison marks, and the fold of a bit reduction. -/

namespace Sys2Proof.Machine

/-! ### The leaves -/

theorem mem_actives {s : State} {k : Nat} : k ∈ s.actives ↔ k < s.strand.vl ∧ s.active k = true := by simp [State.actives]

/-- One leaf per position: its own where it is active, the identity elsewhere (R144). -/
def State.leaves {α : Type} (s : State) (identity : α) (leaf : Nat → α) : List α :=
  (List.range s.strand.vl).map (fun k => if k ∈ s.actives then leaf k else identity)

theorem leaves_eq {α : Type} (s : State) (identity : α) (leaf : Nat → α) :
    s.leaves identity leaf = (List.range s.strand.vl).map (fun k => if s.active k then leaf k else identity) :=
  List.map_congr_left fun k hk => by simp only [mem_actives, List.mem_range.mp hk, true_and]

/-- The flags of the active leaves. -/
def State.leafFlags (s : State) (flags : Nat → Sticky) : Sticky := (s.leaves 0 flags).foldl (· ||| ·) 0

theorem leafFlags_zero (s : State) : s.leafFlags (fun _ => 0) = 0 := by
  simp only [State.leafFlags, State.leaves, ite_self]
  generalize List.range _ = l
  induction l with
  | nil => rfl
  | cons k l ih => simpa using ih

/-- A reduction over all the elements, which meets no poison mark (R123, R144). -/
theorem reduce_unmarked {α : Type} {s : State} {i : Instr} (h : VecReady s i) {marked : Nat → Bool} (hm : ∀ k, marked k = false) (d : SReg)
    (base w : Nat) (identity : α) (leaf : Nat → α) (flags : Nat → Sticky) (finish : List α → Word × Sticky) :
    let q := s.occupy .red base (treeDepth s.strand.vl) (s.strand.beatsTo s.strand.vl w)
    s.reduce d base w marked identity (fun k => (leaf k, flags k)) finish = (q.1.putS q.2 d (finish (s.leaves identity leaf)).1
      (s.leafFlags flags ||| (finish (s.leaves identity leaf)).2) true).vecDone := by
  have hl : (List.range s.strand.vl).map (fun k => if s.active k then (leaf k, flags k) else (identity, 0)) =
      (s.leaves identity leaf).zip (s.leaves 0 flags) := by
    simp only [leaves_eq, List.zip_map']
    exact List.map_congr_left fun k _ => by split <;> rfl
  have hlen : (s.leaves identity leaf).length = (s.leaves 0 flags).length := by simp [State.leaves]
  have hfl : ((s.leaves identity leaf).zip (s.leaves 0 flags)).foldl (fun (a : Sticky) l => a ||| l.2) 0 = s.leafFlags flags := by
    rw [State.leafFlags, ← List.map_snd_zip (l₁ := s.leaves identity leaf) hlen.ge, List.foldl_map, List.map_snd_zip hlen.ge]
  simp only [State.reduce, h.not_skipped, and_false, if_false, firstActive_unmarked hm, Option.getD_none, hl, hfl,
    List.map_fst_zip hlen.le]
  rfl

/-! ### Reductions of numbers -/

theorem redFormat_plain {f : Fmt} (h : f ∈ plainFloats) : redFormat f = some .fp32 := by revert h; cases f <;> decide

theorem identity_fp32 (op : RedOp) : op.identity .fp32 = identityLeaf op := by cases op <;> rfl

/-- `i` runs as a reduction in FP32 that meets no mark. -/
def State.Reduces (s : State) (i : Instr) (d : SReg) (base : Nat) (op : RedOp) (start : Option Word) (leaf : Nat → Val) : Prop :=
  ∃ (marked : Nat → Bool) (flags : Nat → Sticky), (∀ k, marked k = false) ∧
    exec i s = .next (s.reduce d base s.strand.wmax marked (identityLeaf op) (fun k => (leaf k, flags k))
      (fun l => reduceValues s.strand op .fp32 false l start))

theorem vred_plain {s : State} {i : Instr} {a : VIdx} {f : Fmt} (h : VecReady s i) (hf : f ∈ plainFloats) (ha : PlainReg s a f)
    (ua : (s.vreg a).isUndef = false) (d b : SReg) (op : RedOp) :
    s.vred i d a b op = s.reduce d 6 s.strand.wmax (s.vreg a).marked (identityLeaf op) (fun k => ((s.vreg a).val k, s.vflags a k))
      (fun l => reduceValues s.strand op .fp32 false l (if b = 0 then none else some (s.rdS b))) := by
  simp only [State.vred, h.vecGate, ha.format, ha.tooWide, redFormat_plain hf, identity_fp32, ua, slotWidth, ha.fits.1]
  rfl

theorem vdot_plain {s : State} {a b : VIdx} {d : SReg} {f : Fmt} (h : VecReady s (.vdot d a b)) (hf : f ∈ plainFloats) (hk : s.strand.bank = 0)
    (ha : PlainReg s a f) (hb : PlainReg s b f) (ua : (s.vreg a).isUndef = false) (ub : (s.vreg b).isUndef = false) :
    s.Reduces (.vdot d a b) d 8 .add (some (s.rdS d)) (fun k => ((s.vreg a).val k).mul ((s.vreg b).val k)) := by
  refine ⟨fun k => (s.vreg a).marked k || (s.vreg b).marked k,
    fun k => productFlags ((s.vreg a).val k) ((s.vreg b).val k) ||| s.vflags a k ||| s.vflags b k,
    fun k => by simp [ha.marked, hb.marked], ?_⟩
  change execVdot d a b s = _
  simp only [execVdot, h.vecGate, ha.format, hb.format, ha.tooWide, redFormat_plain hf, ua, ub, lookup_plain hf hk, need, bind, Except.bind,
    ha.wideReg, hb.wideReg]
  simp [show (Act.use == Act.sat) = false from rfl, ← identity_fp32]

theorem reduces_of_row {s : State} {i : Instr} {d : SReg} {ops : List VIdx} {base : Nat} {op : RedOp} {start : Option Word} {leaf : Nat → Val}
    (hi : reduceRow s i = some (d, ops, base, op, start, leaf)) {f : Fmt} (h : VecReady s i) (hf : f ∈ plainFloats) (hk : s.strand.bank = 0)
    (hp : ∀ r ∈ ops, PlainReg s r f ∧ (s.vreg r).isUndef = false) : s.Reduces i d base op start leaf := by
  unfold reduceRow at hi
  split at hi <;> cases hi
  case h_4 d a b =>
    obtain ⟨ha, ua⟩ := hp a (by simp)
    obtain ⟨hb, ub⟩ := hp b (by simp)
    exact vdot_plain h hf hk ha hb ua ub
  all_goals
    obtain ⟨ha, ua⟩ := hp _ (List.mem_singleton_self _)
    exact ⟨_, _, ha.marked, congrArg Host.Outcome.next (vred_plain h hf ha ua _ _ _)⟩

/-! ### Reductions of bits -/

/-- A fold passes over the elements that are an identity of what it has gathered. -/
theorem foldl_leaves {op : Word → Word → Word} {e : Word} (ho : ∀ x y, op x e = x → op (op x y) e = op x y) (p : Nat → Bool) (f : Nat → Word)
    (l : List Nat) {x : Word} (hx : op x e = x) :
    (l.map (fun k => if p k then f k else e)).foldl op x = (l.filter p).foldl (fun x k => op x (f k)) x := by
  induction l generalizing x with
  | nil => rfl
  | cons k l ih =>
    by_cases hk : p k
    · simp only [List.map_cons, hk, if_true, List.foldl_cons, List.filter_cons_of_pos, ih (ho x _ hx)]
    · simp only [List.map_cons, hk, Bool.false_eq_true, if_false, List.foldl_cons, hx, List.filter_cons_of_neg, not_false_eq_true, ih hx]

theorem exec_of_reduceBitsRow {i : Instr} {d : SReg} {a : VIdx} {b : SReg} {op : Word → Word → Word} {one : Nat → Word}
    (hi : reduceBitsRow i = some (d, a, b, op, one)) (s : State) :
    (∃ ones, exec i s = .next (s.vredBits i d a b op ones) ∧ ∀ w, one w = if ones then BitVec.ofNat 64 (2 ^ w - 1) else 0) ∧
    ∀ w, op (one w) (one w) = one w ∧ ∀ x y, op x (one w) = x → op (op x y) (one w) = op x y := by
  unfold reduceBitsRow at hi
  split at hi <;> cases hi
  · refine ⟨⟨true, rfl, fun w => rfl⟩, fun w => ⟨BitVec.and_self, fun x y hx => ?_⟩⟩
    dsimp only at hx ⊢
    rw [BitVec.and_assoc, BitVec.and_comm y, ← BitVec.and_assoc, hx]
  · exact ⟨⟨false, rfl, fun w => rfl⟩, fun w => ⟨BitVec.or_zero, fun x y _ => BitVec.or_zero⟩⟩
  · exact ⟨⟨false, rfl, fun w => rfl⟩, fun w => ⟨BitVec.xor_zero, fun x y _ => BitVec.xor_zero⟩⟩

theorem vredBits_plain {s : State} {i : Instr} {a : VIdx} {f : Fmt} (h : VecReady s i) (hf : f = .raw ∨ Fmt.isInt f = true) (ha : PlainReg s a f)
    (ua : (s.vreg a).isUndef = false) (d b : SReg) (op : Word → Word → Word) (ones : Bool) :
    let e : Word := if ones then BitVec.ofNat 64 (2 ^ Fmt.width s.strand.wmax f - 1) else 0
    let v := (s.leaves e (fun k => cutBits (Fmt.width s.strand.wmax f) ((s.vreg a).slot k))).foldl op e
    let q := s.occupy .red 6 (treeDepth s.strand.vl) (s.strand.beatsTo s.strand.vl s.strand.wmax)
    s.vredBits i d a b op ones = (q.1.putS q.2 d (if b = 0 then v else op v (s.rdS b)) 0 true).vecDone := by
  have hf' : (f == .raw || Fmt.isInt f) = true := by simpa using hf
  simp only [State.vredBits, h.vecGate, ha.format, ha.tooWide, hf', ua, slotWidth, ha.fits.1, Bool.not_true, Bool.false_and,
    Bool.false_eq_true, if_false]
  rw [reduce_unmarked h ha.marked _ _ _ _ _ (fun _ => 0), leafFlags_zero]
  simp only [BitVec.or_self]

theorem reduceBits_of_row {s : State} {i : Instr} {d : SReg} {a : VIdx} {b : SReg} {op : Word → Word → Word} {one : Nat → Word} {f : Fmt}
    (hi : reduceBitsRow i = some (d, a, b, op, one)) (h : VecReady s i) (hf : f = .raw ∨ Fmt.isInt f = true) (ha : PlainReg s a f)
    (ua : (s.vreg a).isUndef = false) :
    let v := s.actives.foldl (fun x k => op x (cutBits (Fmt.width s.strand.wmax f) ((s.vreg a).slot k))) (one (Fmt.width s.strand.wmax f))
    let q := s.occupy .red 6 (treeDepth s.strand.vl) (s.strand.beatsTo s.strand.vl s.strand.wmax)
    exec i s = .next ((q.1.putS q.2 d (if b = 0 then v else op v (s.rdS b)) 0 true).vecDone) := by
  obtain ⟨⟨ones, hx, hone⟩, hop⟩ := exec_of_reduceBitsRow hi s
  obtain ⟨he, ho⟩ := hop (Fmt.width s.strand.wmax f)
  rw [hx, vredBits_plain h hf ha ua, ← hone, leaves_eq, foldl_leaves ho _ _ _ he]
  rfl

/-- A reduction writes what its tree makes of the leaves. -/
theorem State.Reduces.exec {s : State} {i : Instr} {d : SReg} {base : Nat} {op : RedOp} {start : Option Word} {leaf : Nat → Val}
    (hr : s.Reduces i d base op start leaf) (h : VecReady s i) :
    ∃ (fl : Sticky) (q : State × Nat), q = s.occupy .red base (treeDepth s.strand.vl) (s.strand.beatsTo s.strand.vl s.strand.wmax) ∧
        exec i s = .next ((q.1.putS q.2 d (reduceValues s.strand op .fp32 false (s.leaves (identityLeaf op) leaf) start).1 fl true).vecDone) := by
  obtain ⟨marked, flags, hm, hx⟩ := hr
  exact ⟨_, _, rfl, by rw [hx, reduce_unmarked h hm]⟩

end Sys2Proof.Machine
end

section
/-! Moves of elements (O32): the sources of a move, the counts of `viota`, the places of `vcompress` and `vexpand`. -/

namespace Sys2Proof.Machine

/-! ### Moves -/

theorem mem_actives_guard {s : State} {k : Nat} : k ∈ s.actives ↔ s.strand.sys.vstart.toNat ≤ k ∧ k < s.strand.vl ∧ s.guardAt k = true := by
  simp only [mem_actives, State.active, Bool.and_eq_true, decide_eq_true_eq]
  tauto

/-- What a move puts at a position: the bits of its source, zero bits from outside the vector (R168). -/
def State.movedBits (s : State) (a : VIdx) (src : Nat → Option Int) (k : Nat) : Option Word :=
  (src k).map (fun j => if 0 ≤ j ∧ j.toNat < s.strand.vl then (s.vreg a).slot j.toNat else 0)

/-- The index register of a move, where it has one. -/
def State.IndexOk (s : State) (ix : Option VIdx) : Prop :=
  ∀ b, ix = some b → ∃ g, PlainReg s b g ∧ indexFormat g = true ∧ (s.vreg b).isUndef = false

theorem moved_of_movedBits {s : State} {a : VIdx} {src : Nat → Option Int} {k : Nat} {w : Word} (h : s.movedBits a src k = some w) :
    ∃ j, src k = some j ∧ s.moved a j = .bits w := by
  obtain ⟨j, hj, rfl⟩ := Option.map_eq_some_iff.mp h
  refine ⟨j, hj, ?_⟩
  unfold State.moved
  split <;> rfl

theorem prepMove_plain {s : State} {a : VIdx} {ix : Option VIdx} {f : Fmt} (ha : PlainReg s a f) (hf : Fmt.isMicro f = false)
    (hix : s.IndexOk ix) (src : Nat → Option Int) : ∃ o, prepMove a ix src s = .ok o ∧ o.Puts f (s.movedBits a src) := by
  cases ix with
  | none =>
    simp only [prepMove, State.moveSource, ha.format, ha.tooWide, hf, need]
    refine ⟨_, rfl, rfl, fun k => ?_, fun k w hw => ?_⟩
    · simp only [ha.marked, Bool.and_false, Bool.false_or]
      split <;> rfl
    · obtain ⟨j, hj, hm⟩ := moved_of_movedBits hw
      simp only [hj, hm]
  | some b =>
    obtain ⟨g, hb, hg, ub⟩ := hix b rfl
    simp only [prepMove, State.moveSource, ha.format, ha.tooWide, hb.format, hb.tooWide, hf, hg, ub, need]
    refine ⟨_, rfl, rfl, fun k => ?_, fun k w hw => ?_⟩
    · simp only [ha.marked, hb.marked, Bool.and_false, Bool.false_or]
      split <;> rfl
    · obtain ⟨j, hj, hm⟩ := moved_of_movedBits hw
      simp only [hj, hm]

theorem wideReg_of_indexOk {s : State} {ix : Option VIdx} (h : s.IndexOk ix) : ix.any s.wideReg = false := by
  cases ix with
  | none => rfl
  | some b =>
    obtain ⟨g, hb, -⟩ := h b rfl
    exact hb.wideReg

theorem cutBits_zero (w : Nat) : cutBits w 0 = 0 := by simp [cutBits]

theorem exec_of_moveRow {i : Instr} {d a : VIdx} {ix : Option VIdx} {src : State → Nat → Option Int} (hi : moveRow i = some (d, a, ix, src))
    (s : State) : exec i s = .next (s.runMove i d (ix.any s.wideReg) (prepMove a ix (src s))) := by
  unfold moveRow at hi
  split at hi <;> cases hi <;> rfl

/-! ### Counts -/

/-- A count under SCALE 127: the count, or the greatest number where that is less (R49). -/
theorem encodeInt_count {lo hi : Int} (hlo : lo ≤ 0) (hhi : 0 ≤ hi) (w n : Nat) (rm : Rounding) :
    (encodeInt lo hi w 0 rm (Val.ofInt n)).1 = BitVec.ofNat 64 (Nat.min n hi.toNat) := by
  have hn : ¬ (n : Int) < 0 := by omega
  simp only [encodeInt, Val.ofInt, hn, decide_false, Int.natAbs_natCast, roundMag, Nat.mod_one, le_refl, if_true, Int.toNat_zero, pow_zero,
    Nat.mul_one, Nat.div_one, Bool.false_eq_true, if_false]
  split
  · next h => rw [show Nat.min n hi.toNat = hi.toNat from Nat.min_eq_right (by omega)]
  · next h => rw [if_neg (by omega), if_pos (by omega), Int.toNat_natCast, show Nat.min n hi.toNat = n from Nat.min_eq_left (by omega)]

/-- The count in one of the formats of R169. -/
theorem encodeEl_count {f : Fmt} (hf : f ∈ [Fmt.int32, .int16, .int8, .uint8, .int4, .uint4, .i48]) {lo hi : Int}
    (hr : Fmt.range f = some (lo, hi)) (wmax n : Nat) :
    cutBits (Fmt.width wmax f) (encodeEl f 127 127 .zero false (Val.ofInt n)).1 = BitVec.ofNat 64 (Nat.min n hi.toNat) := by
  obtain ⟨hlo, hhi, hw, hlt, he⟩ : lo ≤ 0 ∧ 0 ≤ hi ∧ Fmt.width wmax f ≤ 64 ∧ hi.toNat < 2 ^ Fmt.width wmax f ∧
      encodeEl f 127 127 .zero false (Val.ofInt n) = encodeInt lo hi (Fmt.width 64 f) 0 .zero (Val.ofInt n) := by
    simp only [List.mem_cons, List.not_mem_nil, or_false] at hf
    rcases hf with rfl | rfl | rfl | rfl | rfl | rfl | rfl <;> cases hr <;>
      exact ⟨by decide, by decide, by simp [Fmt.width], by simp [Fmt.width], rfl⟩
  rw [he, encodeInt_count hlo hhi, cutBits, toNat_ofNat_lt hw ((Nat.min_le_right _ _).trans_lt hlt)]

theorem prepIota_plain {s : State} {p : PReg} {f : Fmt} (hf : f ∈ [Fmt.int32, .int16, .int8, .uint8, .int4, .uint4, .i48])
    (hw : s.strand.tooWide f = false) : ∃ o, prepIota p f.code s = .ok o ∧
      o.Puts f (fun k => some (encodeEl f 127 127 .zero false (Val.ofInt (s.countBelow (s.rdP p) k))).1) := by
  have hi : (Fmt.isPlainInt f || f == .i48) = true := by revert hf; cases f <;> decide
  simp only [prepIota, Fmt.ofCode_code, hw, hi, need]
  exact ⟨_, rfl, rfl, fun _ => rfl, fun k b hb => congrArg Elem.bits (Option.some.inj hb)⟩

/-- The chosen positions below an active one (R169). -/
theorem countBelow_eq {s : State} {k : Nat} (hk : k < s.strand.vl) (p : PReg) :
    s.countBelow (s.rdP p) k = ((s.chosen p).filter (fun j => decide (j < k))).length := by
  have hr : (List.range s.strand.vl).filter (fun j => decide (j < k)) = List.range k := by
    rw [← Nat.add_sub_of_le hk.le, List.range_add, List.filter_append, List.filter_eq_self.mpr (by simp), List.filter_eq_nil_iff.mpr (by simp),
      List.append_nil]
  simp only [State.countBelow, State.chosen, State.actives, List.filter_filter, ← hr]
  refine congrArg List.length (List.filter_congr fun j _ => ?_)
  rw [Bool.and_comm, Bool.and_comm (s.active j)]

/-! ### Compress and expand -/

/-- The n-th of rising positions from `v` upward is at least `v + n`. -/
theorem add_le_of_rising {l : List Nat} (hl : l.Pairwise (· < ·)) {v n j : Nat} (hv : ∀ k ∈ l, v ≤ k) (hj : l[n]? = some j) : v + n ≤ j := by
  induction l generalizing v n with
  | nil => simp at hj
  | cons k l ih =>
    obtain ⟨hk, hl⟩ := List.pairwise_cons.mp hl
    have hvk := hv k (by simp)
    cases n with
    | zero => simpa using hvk.trans_eq (by simpa using hj)
    | succ n =>
      have := ih hl (v := v + 1) (fun m hm => by have := hk m hm; omega) (by simpa using hj)
      omega

/-- Below the n-th of rising positions are n of them. -/
theorem count_below_rising {l : List Nat} (hl : l.Pairwise (· < ·)) {n j : Nat} (hj : l[n]? = some j) :
    (l.filter (fun k => decide (k < j))).length = n := by
  induction l generalizing n with
  | nil => simp at hj
  | cons k l ih =>
    obtain ⟨hk, hl⟩ := List.pairwise_cons.mp hl
    cases n with
    | zero =>
      obtain rfl : k = j := by simpa using hj
      simpa using fun m hm => (hk m hm).le
    | succ n =>
      have hj' : l[n]? = some j := by simpa using hj
      rw [List.filter_cons_of_pos (by simpa using hk j (List.mem_of_getElem? hj')), List.length_cons, ih hl hj']

theorem chosen_rising (s : State) (p : PReg) : (s.chosen p).Pairwise (· < ·) :=
  (List.pairwise_lt_range.filter _).filter _

theorem chosen_bounds {s : State} {p : PReg} {k : Nat} (h : k ∈ s.chosen p) : s.strand.sys.vstart.toNat ≤ k ∧ k < s.strand.vl := by
  obtain ⟨hv, hlt, -⟩ := mem_actives_guard.mp (List.mem_filter.mp h).1
  exact ⟨hv, hlt⟩

/-- `vcompress` and `vexpand` (R172): the positions that `el` chooses for hold the bits of their sources. -/
theorem choosing_plain {s : State} {i : Instr} {a : VIdx} {f : Fmt} (h : VecReady s i) (ha : PlainReg s a f) (hf : Fmt.isMicro f = false)
    (d : VIdx) (p : PReg) (sources : List Nat → List Nat) (el : List Nat → Nat → Option Nat) :
    ∃ (r : VReg) (q : State × Nat), r.fmt = f ∧
      q = s.occupy .perm 4 ((s.strand.grantCount - 1) * s.strand.beats s.strand.wmax) (s.strand.beats s.strand.wmax) ∧
      (∀ k j, s.strand.sys.vstart.toNat ≤ k → k < s.strand.vl → el (s.chosen p) k = some j →
        r.slot k = cutBits (Fmt.width s.strand.wmax f) ((s.vreg a).slot j)) ∧
      s.choosing i d a p sources el = (q.1.putV q.2 d r 0).vecDone := by
  have hm : ∀ l : List Nat, l.any (s.vreg a).marked = false := fun l => by simp [ha.marked]
  have hc : (List.range s.strand.vl).filter (fun k => s.active k && (s.rdP p).getLsbD k) = s.chosen p := by
    rw [State.chosen, State.actives, List.filter_filter]
    exact List.filter_congr fun k _ => Bool.and_comm _ _
  simp only [State.choosing, h.vecGate, State.moveSource, ha.format, ha.tooWide, hf, need, bind, Except.bind, h.not_skipped, hc, hm, slotWidth,
    ha.fits.1]
  refine ⟨_, _, ?_, rfl, fun k j hv hk hj => ?_, rfl⟩
  · exact writeReg_fmt _ _ _ _ _ _ _ _ _ _ _
  · refine writeReg_slot hf (hk.trans_le (h.positions ha.tooWide)) hk ?_ _ _ _ _ _ _ _
    simp only [hj, if_neg (show ¬ (k < s.strand.sys.vstart.toNat ∨ s.strand.vl ≤ k) by omega)]

theorem vcompress_plain {s : State} {d a : VIdx} {p : PReg} {f : Fmt} (h : VecReady s (.vcompress d a p)) (ha : PlainReg s a f)
    (hf : Fmt.isMicro f = false) : ∃ (r : VReg) (q : State × Nat), r.fmt = f ∧
      q = s.occupy .perm 4 ((s.strand.grantCount - 1) * s.strand.beats s.strand.wmax) (s.strand.beats s.strand.wmax) ∧
      (∀ n j, (s.chosen p)[n]? = some j → r.slot (s.strand.sys.vstart.toNat + n) = cutBits (Fmt.width s.strand.wmax f) ((s.vreg a).slot j)) ∧
      exec (.vcompress d a p) s = .next ((q.1.putV q.2 d r 0).vecDone) := by
  obtain ⟨r, q, hr, hq, hs, he⟩ := choosing_plain h ha hf d p (fun c => c) (fun c i => (c.drop (i - s.strand.sys.vstart.toNat)).head?)
  refine ⟨r, q, hr, hq, fun n j hj => hs _ j (Nat.le_add_right _ _) ?_ ?_, congrArg Host.Outcome.next he⟩
  · exact (add_le_of_rising (chosen_rising s p) (fun k hk => (chosen_bounds hk).1) hj).trans_lt (chosen_bounds (List.mem_of_getElem? hj)).2
  · rw [List.head?_drop, Nat.add_sub_cancel_left, hj]

theorem vexpand_plain {s : State} {d a : VIdx} {p : PReg} {f : Fmt} (h : VecReady s (.vexpand d a p)) (ha : PlainReg s a f)
    (hf : Fmt.isMicro f = false) : ∃ (r : VReg) (q : State × Nat), r.fmt = f ∧
      q = s.occupy .perm 4 ((s.strand.grantCount - 1) * s.strand.beats s.strand.wmax) (s.strand.beats s.strand.wmax) ∧
      (∀ n j, (s.chosen p)[n]? = some j → r.slot j = cutBits (Fmt.width s.strand.wmax f) ((s.vreg a).slot n)) ∧
      exec (.vexpand d a p) s = .next ((q.1.putV q.2 d r 0).vecDone) := by
  obtain ⟨r, q, hr, hq, hs, he⟩ := choosing_plain h ha hf d p (fun c => List.range c.length)
    (fun c i => if c.contains i then some (c.filter (fun j => decide (j < i))).length else none)
  refine ⟨r, q, hr, hq, fun n j hj => ?_, congrArg Host.Outcome.next he⟩
  have hmem := List.mem_of_getElem? hj
  refine hs j n (chosen_bounds hmem).1 (chosen_bounds hmem).2 ?_
  rw [if_pos (List.contains_iff_mem.mpr hmem), count_below_rising (chosen_rising s p) hj]

/-! ### The statement -/

/-- Settles O32: a reduction is the tree over the leaves of all positions, a move puts the bits of its sources, and the places of `vcompress`
and `vexpand` follow from the chosen positions rising. -/
theorem reductionsAndMoves : Obligations.ReductionsAndMoves := by
  unfold Obligations.ReductionsAndMoves
  refine ⟨fun i s h => ⟨fun d ops base op start leaf f hi hf hk hp => (reduces_of_row hi h hf hk hp).exec h,
      fun d a b op one f hi hf ha ua => reduceBits_of_row hi h hf ha ua⟩,
    fun i s h => ⟨fun d a ix src f hi ha hf hix => ?_, fun d p f lo hi hv hf hr hw => ?_, fun d a p f hi ha hf => ?_⟩⟩
  · obtain ⟨o, ho, ps⟩ := prepMove_plain ha hf hix (src s)
    obtain ⟨r, fl, b, q, ⟨hr, hs⟩, rfl, hq, he⟩ := runMove_puts h ho ps hf ha.tooWide d (ix.any s.wideReg)
    rw [wideReg_of_indexOk hix, ha.fits.1] at hq
    refine ⟨r, fl, q, hr, hq, fun k j hv hk hg hj => ?_, by rw [exec_of_moveRow hi, he]⟩
    rw [hs k _ hv hk hg (by rw [State.movedBits, hj]; rfl), apply_ite (cutBits _), cutBits_zero]
  · subst hv
    have hm : Fmt.isMicro f = false := by revert hf; cases f <;> decide
    obtain ⟨o, ho, ps⟩ := prepIota_plain (p := p) hf hw
    have hwide : (if false || Fmt.isWide f then 64 else s.strand.wmax) = if f = .i48 then 64 else s.strand.wmax := by
      revert hf; cases f <;> simp [Fmt.isWide]
    obtain ⟨r, fl, q, ⟨hf', hs⟩, hq, he⟩ := runVec_puts h ho ps hm hw d .perm 3 false
    refine ⟨r, fl, q, hf', by rw [hq, hwide], fun k hk => ?_, congrArg Host.Outcome.next he⟩
    obtain ⟨hv, hlt, hg⟩ := mem_actives_guard.mp hk
    rw [hs k _ hv hlt hg rfl, encodeEl_count hf hr, countBelow_eq hlt]
  · rcases hi with rfl | rfl
    · obtain ⟨r, q, hr, hq, hs, he⟩ := vcompress_plain h ha hf
      exact ⟨r, q, hr, hq, fun n j hj => ⟨fun _ => hs n j hj, nofun⟩, he⟩
    · obtain ⟨r, q, hr, hq, hs, he⟩ := vexpand_plain h ha hf
      exact ⟨r, q, hr, hq, fun n j hj => ⟨nofun, fun _ => hs n j hj⟩, he⟩

end Sys2Proof.Machine
end

section
/-! The tag instructions (O33): `vscale` drops the micro-scales that a register holds under a format that reads none. -/

namespace Sys2Proof.Machine

/-- In an interlocked region no schedule is kept (R126). -/
theorem occupy_interlocked {s : State} (e : s.exposed = false) (c : Cls) (base extra b : Nat) : s.occupy c base extra b = (s, 0) := by
  simp [State.occupy, e]

/-- The register that an interlocked strand's vector result goes to, when the instruction is done and nothing is lent. -/
theorem vreg_putV_vecDone {s : State} (h : s.turn = none) (e : s.exposed = false) (l : s.lent = none) (n : Nat) (d : VIdx) (r : VReg)
    (fl : Sticky) : ((s.putV n d r fl).vecDone).vreg d = r := by
  have hp : s.putV n d r fl = { s with strand := (s.strand.setV d r).raise fl } := by
    simp only [State.putV, put_interlocked e, applyCommit, State.vDests, copyTo_unlent l, List.foldl_cons, List.foldl_nil, applyDest]
  rw [State.vecDone, hp, retire_strand (by exact h), State.vreg]
  simp [Strand.setVstart, Strand.raise, Strand.setV]

/-- One lane cluster, eight registers of 32-bit elements, VL = 2; v1 is FP16 with scale 127 and holds a micro-scale. -/
def staleMicro : State :=
  { State.reset with strand := { Strand.reset with
      sys := { SysRegs.reset with vcfg := 8 + 2 * 2 ^ 8 + 4096 * 2 ^ 32, lease := 1 + 8 * 2 ^ 17 }
      v := Strand.reset.v.set 1 { VReg.reset with tag := mkTag clsValid 127 (Fmt.code .fp16), micro := [1] } } }

theorem staleMicro_ready : VecReady staleMicro (.vscale 3 1 0) :=
  ⟨by decide +kernel, by decide +kernel, by decide +kernel, by decide +kernel, by decide +kernel⟩

theorem staleMicro_plain : PlainReg staleMicro 1 .fp16 := ⟨by decide +kernel, by decide +kernel, by decide +kernel⟩

/-- A shift of the scale by 0 leaves v3 without micro-scales. -/
theorem staleMicro_vscale {t : State} (h : exec (.vscale 3 1 0) staleMicro = .next t) : (t.vreg 3).micro = [] := by
  change Host.Outcome.next _ = _ at h
  cases h
  decide +kernel

/-- Refutes O33: of a register that holds a micro-scale under FP16, which PlainReg does not exclude, `vscale` keeps the slots but not the
micro-scales: `VReg.retag` leaves none under a format that is not microscaled. -/
theorem not_vectorTags : ¬ Obligations.VectorTags := by
  unfold Obligations.VectorTags
  intro h
  obtain ⟨-, -, -, hscale, -⟩ := h staleMicro 3 1 .fp16 .fp32 staleMicro_plain rfl (by decide +kernel)
  obtain ⟨r, -, -, hmicro, -, hx⟩ := hscale 0 staleMicro_ready rfl (by decide) (by decide +kernel) (by decide +kernel) (by decide +kernel)
  have he : staleMicro.exposed = false := by decide +kernel
  have hr : r.micro = [] := by
    have := staleMicro_vscale hx
    rwa [occupy_interlocked he, vreg_putV_vecDone rfl he rfl] at this
  have hv : (staleMicro.vreg 1).micro = [1] := by decide +kernel
  rw [hmicro, hv] at hr
  cases hr

end Sys2Proof.Machine
end
